-- ==== Sys2Proof/Word.lean ====
section
/-! DEFINITION. The words and the index types of the RSM-280 (00_scope.md, Units and Conventions). -/

namespace Sys2Proof

/-- A byte of a control packet or of clip memory. -/
abbrev Byte := BitVec 8

/-- A 16-bit word of a trunk, return, seat chain or box reply frame. -/
abbrev Word16 := BitVec 16

/-- A 16-bit two's complement audio sample (00_scope.md, Units). -/
abbrev Sample := BitVec 16

/-- A set of zones 0 to 3, bit m for member m (R27). -/
abbrev ZoneMask := BitVec 4

/-- Zones 0 to 3. -/
abbrev Zone := Fin 4

/-- What a trunk line carries, one entry for each word time; none is a gap (R15). -/
abbrev TrunkWords := List (Option Word16)

/-- Languages 0 to 11. -/
abbrev Lang := Fin 12

/-- Seats 0 to 63. -/
abbrev SeatNo := Fin 64

/-- Seat boxes 0 to 31. -/
abbrev BoxNo := Fin 32

/-- Voices 0 to 7 (R128). -/
abbrev VoiceNo := Fin 8

/-- Cache sectors 0 to 31 (R148). -/
abbrev LineNo := Fin 32

/-- Lamp groups 0 to 23 (R167). -/
abbrev GroupNo := Fin 24

end Sys2Proof
end

