-- ==== Sys2Proof/Syntax.lean ====
section
/-! DEFINITION. The commands of spec/opcode_table.json, one constructor per row. The table gives the rows no
operands; the operands here are those the rules give the row's event or request (INVENTORY.md, Instructions). -/

namespace Sys2Proof

/-- The blocks that a tick drives (R5). Each takes it as an event of its own (R68, R79, R178, R186). -/
inductive TickBlock where
  /-- HMX (R63). -/
  | hmx
  /-- ZOU (R83). -/
  | zou
  /-- ASQ: the talk hang (R123). -/
  | asq
  /-- VPL: the voices' counts (R133, R137). -/
  | vpl
  /-- CMP: the maintenance count (R160). -/
  | cmp
  /-- LMC: its counts, the scan and the row (R164, R165, R180, R184). -/
  | lmc
deriving DecidableEq, Repr

/-- The blocks that take what a cue entry delivers (R102). -/
inductive CueOwner where
  | asq | lmc | zou | scc
deriving DecidableEq, Repr

/-- An event of the chip's clock, counts or ports that meets the events of a slot at one slot end. Each is also a row of
its own, for the slot ends at which it comes after them (notes/assumptions/7.md). -/
inductive EndEvent where
  /-- A tick ends (R5), for every block that has still to take it. -/
  | tick
  /-- One block takes a tick that has ended (R5, R68, R79). -/
  | tickAt (block : TickBlock)
  /-- A return frame from downstream has come (R18). -/
  | downstreamReturnFrame (frame : Vector Word16 5)
  /-- The reply to the period's poll is judged (R44). -/
  | boxReply (reply : Option (Vector Word16 3))
  /-- The deck reset of an addressed DECK_RESET takes effect (R36). -/
  | deckResetEffect
  /-- The talk hang reaches its kept time (R123). -/
  | talkHangExpiry
  /-- ASQ takes VPL's report (R120). -/
  | voicesFinished
  /-- A gap reaches its kept length (R133). -/
  | gapExpiry (voice : VoiceNo)
  /-- A stall count reaches 2,000 (R137). -/
  | clipStall (voice : VoiceNo)
  /-- A fade has run its 64 periods (R139). -/
  | fadeEnd (voice : VoiceNo)
  /-- A sector read completes (R155). -/
  | fetchComplete
  /-- The memory reports ready (R160). -/
  | memoryReady
  /-- The maintenance tick count reaches 3,000 (R160). -/
  | maintenanceTimeout
  /-- A scan-frame boundary (R170). -/
  | scanFrameBoundary
  /-- The ramp count is due with the good line high (R180). -/
  | supplyRampDone
  /-- The ramp count is due with the good line low (R180). -/
  | supplyRampTimeout
  /-- The good line is sampled low (R180). -/
  | supplyGoodLost
  /-- The alarm line is sampled (R184). -/
  | deckAlarmInput (low : Bool)
  /-- The release count reaches 100 (R184). -/
  | overrideClear
deriving DecidableEq, Repr

/-- The events of one slot end, after the return frame and the samples of the period that ends (R7, R11, R14, R19, R143).
The spec lets them be taken in either order; a slot command says in which (notes/assumptions/7.md). -/
inductive SlotEvent where
  /-- VPL takes what the period's sample brings to a voice: the end of its item, or the request of its next sector
  (R136, R138, R143). -/
  | voice (voice : VoiceNo)
  /-- TIF's TRUNK_LOST or TRUNK_REGAINED notice joins the queue (R19). -/
  | trunkNotice
  /-- CTH takes the control slot or the discard signal (R21). -/
  | control
  /-- RCE takes the combined change (R96). -/
  | route
  /-- ASQ takes a rise or fall of the talk flag (R113, R123). -/
  | talk
  /-- LMC takes a change of the deck alarm flag (R184). -/
  | alarm
  /-- A block takes the oldest delivery of a cue entry that waits for it, where it does not take its deliveries right after
  the event that made them (R102). -/
  | delivery (owner : CueOwner)
  /-- Another event of the chip at the same slot end. -/
  | also (event : EndEvent)
deriving DecidableEq, Repr

/-- The events of the slot itself, which an order names at most once (R11, R14, R19). -/
def SlotEvent.own : SlotEvent → Bool
  | .voice _ | .trunkNotice | .control | .route | .talk | .alarm => true
  | .delivery _ | .also _ => false

/-- A trunk frame's 21 words with what trunk-in carried before and after them since the last slot command (R15). -/
structure FramedWords where
  lead : TrunkWords
  frame : Vector Word16 21
  trail : TrunkWords
deriving DecidableEq, Repr

/-- All that trunk-in carried. -/
def FramedWords.all (w : FramedWords) : TrunkWords := w.lead ++ w.frame.toList.map some ++ w.trail

/-- One command: a row of spec/opcode_table.json. `bc` says that a request came by broadcast (R22, R23). -/
inductive Instr where
  /-- POWER_ON (R188). -/
  | powerOn
  /-- RESET_LINE_ASSERT (R188). -/
  | resetLineAssert
  /-- RESET_LINE_RELEASE (R188). -/
  | resetLineRelease
  /-- WARM_UP_END (R189), with the levels of ADR1 and ADR0 (R16). -/
  | warmUpEnd (adr : BitVec 2)
  /-- VALID_SLOT (R7): the frame's 21 words with what came before and after them since the last slot command (R15), and
  the order of the events at its end. A frame found by hunting ends the period in progress first (R3): `short` is the
  order of the events at that end. -/
  | validSlot (words : FramedWords) (short order : List SlotEvent)
  /-- INVALID_SLOT (R8), with what came since the last slot command (R15). -/
  | invalidSlot (words : TrunkWords) (order : List SlotEvent)
  /-- DOWNSTREAM_RETURN_FRAME (R18), with the frame's 5 words. -/
  | downstreamReturnFrame (frame : Vector Word16 5)
  /-- BAD_KIND (R24): a request of the given unknown kind. -/
  | badKind (kind : Byte)
  /-- ENTRY_WRITE (R28): table id, index and record bytes. -/
  | entryWrite (table : Byte) (index : Word16) (record : List Byte)
  /-- ENTRY_READ (R29). -/
  | entryRead (table : Byte) (index : Word16)
  /-- STATE_READ (R32). -/
  | stateRead
  /-- CLIP_ERASE (R159). -/
  | clipErase (sector : Word16)
  /-- CLIP_PROGRAM (R159). -/
  | clipProgram (addr : BitVec 24) (data : List Byte)
  /-- CLIP_READ (R159). -/
  | clipRead (addr : BitVec 24) (count : Byte)
  /-- DECK_RESET (R36). -/
  | deckReset (bc : Bool)
  /-- DECK_RESET_EFFECT (R36). -/
  | deckResetEffect
  /-- UNKNOWN_ACTION (R30): an ACTION with the given unknown code. -/
  | unknownAction (bc : Bool) (code : Byte)
  /-- ANNOUNCE (R111), with its parameter bytes. -/
  | announce (bc : Bool) (params : List Byte)
  /-- CUT_SOFT (R122): CUT with mode SOFT. -/
  | cutSoft (bc : Bool) (id : Byte)
  /-- CUT_HARD (R121): CUT with mode HARD. -/
  | cutHard (bc : Bool) (id : Byte)
  /-- SCENE (R176). -/
  | scene (bc : Bool) (scene : Byte)
  /-- GROUP_PRESET (R175, R177). -/
  | groupPreset (bc : Bool) (group preset start : Byte)
  /-- GROUP_FIELDS (R168, R177). -/
  | groupFields (bc : Bool) (group mode levelOn levelOff onLen offLen pulses fadeStep start : Byte)
  /-- GROUP_START (R169, R177). -/
  | groupStart (bc : Bool) (group : Byte)
  /-- GROUP_STOP (R169, R177). -/
  | groupStop (bc : Bool) (group : Byte)
  /-- GROUP_PENDING (R173, R177). -/
  | groupPending (bc : Bool) (group onLen offLen : Byte)
  /-- GROUP_HOLD (R177). -/
  | groupHold (bc : Bool) (group hold : Byte)
  /-- SUPPLY_ON (R180). -/
  | supplyOn (bc : Bool)
  /-- SUPPLY_OFF (R180, R184). -/
  | supplyOff (bc : Bool)
  /-- ROUTE_ARM (R91). -/
  | routeArm (bc : Bool) (count : Word16) (tag : Byte)
  /-- ROUTE_DISARM (R95). -/
  | routeDisarm (bc : Bool)
  /-- STOP_CLEAR (R55). -/
  | stopClear (bc : Bool)
  /-- SEAT (R53), with its parameter bytes. -/
  | seat (bc : Bool) (params : List Byte)
  /-- QUIET (R80). -/
  | quiet (bc : Bool) (zones on : Byte)
  /-- CLIP_LOCK (R156). -/
  | clipLock (bc : Bool) (family : Word16) (language : Byte)
  /-- CLIP_UNLOCK (R157). -/
  | clipUnlock (bc : Bool) (present : Byte) (family : Word16) (language : Byte)
  /-- CACHE_FLUSH (R158). -/
  | cacheFlush (bc : Bool)
  /-- TICK (R5). -/
  | tick
  /-- BOX_REPLY (R44): the reply's three words, or none where no complete reply came in the period. -/
  | boxReply (reply : Option (Vector Word16 3))
  /-- TALK_HANG_EXPIRY (R123). -/
  | talkHangExpiry
  /-- VOICES_FINISHED (R120). -/
  | voicesFinished
  /-- GAP_EXPIRY (R133). -/
  | gapExpiry (voice : VoiceNo)
  /-- CLIP_STALL (R137). -/
  | clipStall (voice : VoiceNo)
  /-- FADE_END (R139). -/
  | fadeEnd (voice : VoiceNo)
  /-- FETCH_COMPLETE (R155). -/
  | fetchComplete
  /-- MEMORY_READY (R160). -/
  | memoryReady
  /-- MAINTENANCE_TIMEOUT (R160). -/
  | maintenanceTimeout
  /-- SCAN_FRAME_BOUNDARY (R170). -/
  | scanFrameBoundary
  /-- SUPPLY_RAMP_DONE (R180): the tick finds the good line high. -/
  | supplyRampDone
  /-- SUPPLY_RAMP_TIMEOUT (R180): the tick finds the good line low. -/
  | supplyRampTimeout
  /-- SUPPLY_GOOD_LOST (R180): the good line is sampled low. -/
  | supplyGoodLost
  /-- DECK_ALARM_INPUT (R184): the level of the alarm line as sampled; the line is active low. -/
  | deckAlarmInput (low : Bool)
  /-- OVERRIDE_CLEAR (R184). -/
  | overrideClear
  /-- POWER_FAIL (R188). -/
  | powerFail
deriving DecidableEq, Repr

end Sys2Proof
end

