-- ==== Sys2Proof/Config.lean ====
section
/-! DEFINITION. What one RSM-280 fixes: the numbers the rules give, and the values the spec leaves open. -/

namespace Sys2Proof.Config

/-- The byte clip memory is found to hold where the spec gives none: the region of an erase or program that ended
FAILED after it was sent (R160), and every byte read while the device still runs such an operation or one that a reset
abandoned (R163). The first argument is a fresh number for each such draw, the second the byte's address. A FREE VALUE: it
has no body (notes/assumptions/5.md). -/
opaque freeByte : Nat → Nat → Byte

/-- Ticks of a power-on warm-up (R188). -/
def powerOnTicks : Nat := 64
/-- Ticks of a reset line warm-up (R188). -/
def resetLineTicks : Nat := 4
/-- Consecutive VALID slots to LOCKED (R6, R9). -/
def lockRun : Nat := 16
/-- Consecutive INVALID slots to LOST (R8). -/
def lostRun : Nat := 64
/-- Places of the reply queue (R23). -/
def replyPlaces : Nat := 4
/-- Notices the notice queue holds (R33). -/
def noticePlaces : Nat := 16
/-- Announcements the queue holds (R115). -/
def queuePlaces : Nat := 16
/-- Misses that take an ONLINE box OFFLINE (R45). -/
def missLimit : Nat := 3
/-- The mute index (00_scope.md, Units; R69). -/
def mute : Nat := 121
/-- Ticks of waiting after which an item is abandoned (R137). -/
def stallLimit : Nat := 2000
/-- Local frame periods of a fade (R139). -/
def fadePeriods : Nat := 64
/-- Ticks after which a maintenance operation ends FAILED (R160). -/
def maintenanceLimit : Nat := 3000
/-- Sectors the lock table holds (R156). -/
def lockLimit : Nat := 16
/-- Bytes of a sector (R145). -/
def sectorBytes : Nat := 4096
/-- Samples of a sector (R145). -/
def sectorSamples : Nat := 2048
/-- Sectors of clip memory (R145). -/
def sectors : Nat := 4096
/-- Bytes of clip memory (R145). -/
def clipBytes : Nat := 16777216
/-- The offset of the sample whose giving requests the next sector (R136). -/
def prefetchAt : Nat := 1024
/-- Ticks over which the lamp ignition budget is judged (R182). -/
def ignitionWindow : Nat := 20
/-- Ignitions granted in one window (R182). -/
def ignitionBudget : Nat := 4
/-- Ticks past the ramp time after which RAMP becomes FAULT (R180). -/
def rampGrace : Nat := 500
/-- Ticks in RELEASING with both sources released before CLEAR (R184). -/
def releaseTicks : Nat := 100
/-- What a byte of clip memory that nothing has written reads as: the erased byte. DESIGN CHOICE
(notes/assumptions/4.md). -/
def blankByte : Byte := 0xFF

end Sys2Proof.Config
end

