-- ==== Sys2Proof/Machine/State.lean ====
section
/-! DEFINITION. The state of the RSM-280: every record, queue, count and mode its manual names, one field per block,
with the queue of waiting commands. Reset values: R20, R37, R57, R74, R88, R107, R127, R144, R163, R179, R187. -/

namespace Sys2Proof.Machine

/-! ## Power and warm-up (R188) -/

/-- Where the chip stands in power-on, the reset line and warm-up (R188). -/
structure Power where
  /-- past the end of warm-up -/
  running : Bool
  /-- the supply is above its minimum -/
  supplyUp : Bool
  /-- the reset line is low -/
  resetLow : Bool
  /-- ticks left of the power-on count -/
  powerLeft : Nat
  /-- ticks left of the reset line count -/
  lineLeft : Nat
  /-- the supply has risen since the last end of warm-up -/
  risen : Bool
deriving DecidableEq, Repr

/-! ## Trunk Interface (01) -/

/-- Trunk states (R6, R9). -/
inductive TrunkState where
  | seeking | locked | lost
deriving DecidableEq, Repr

/-- Receiver modes (R3). -/
inductive Receiver where
  | hunting | expecting
deriving DecidableEq, Repr

/-- The drive record (R10). -/
structure Drive where
  odometer : Nat
  odoValid : Bool
  speed : Nat
  tag : Nat
  alarm : Bool
  talk : Bool
deriving DecidableEq, Repr

/-- Twelve language samples and the talk sample (R7). -/
structure Samples where
  lang : Vector Sample 12
  talk : Sample
deriving DecidableEq, Repr

/-- The four bytes of a control slot or a return control slot (section 1.1). -/
structure Slot where
  b0 : Byte
  b1 : Byte
  b2 : Byte
  b3 : Byte
deriving DecidableEq, Repr

/-- TIF (R20). `periodStarts` counts period starts toward the tick (R5); `tickFor`: the sixteenth has come, and these blocks
have still to take its tick (notes/assumptions/7.md). -/
structure Tif where
  trunk : TrunkState
  receiver : Receiver
  counter : Byte
  validRun : Nat
  invalidRun : Nat
  drive : Drive
  live : BitVec 12
  last : Samples
  delivered : Samples
  node : BitVec 2
  downstream : Option Slot
  periodStarts : Nat
  tickFor : List TickBlock
deriving DecidableEq, Repr

/-! ## Control Handler (02) -/

/-- Result codes (02, section 2.1). -/
inductive Result where
  | done | badKind | badTable | badIndex | badValue | wrongState | full | busy | notFound | failed
deriving DecidableEq, Repr

/-- Outcomes of an announcement (R124). -/
inductive AnnOutcome where
  | completed | cut | stale | displaced | refused | lapsed | failed
deriving DecidableEq, Repr

/-- Route states (R91 to R95). -/
inductive RouteState where
  | idle | armed | running | held | complete
deriving DecidableEq, Repr

/-- Lamp supply states (R180). -/
inductive Supply where
  | off | ramp | ready | fault
deriving DecidableEq, Repr

/-- Notices (R34). -/
inductive Notice where
  | stopRequest (seat : SeatNo)
  | announceEnd (id : Nat) (outcome : AnnOutcome)
  | cueMark (index : Nat)
  | routeState (state : RouteState) (cursor : Nat) (rewind : Bool)
  | relocation (src dst skipped : Nat)
  | boxState (box : BoxNo) (online : Bool)
  | supplyState (state : Supply)
  | alarm (active : Bool)
  | clipStall (voice : VoiceNo) (family : Nat)
  | trunkLost
  | trunkRegained
deriving DecidableEq, Repr

/-- States of a reply queue place (R25). -/
inductive PlaceState where
  | reserved | ready | sending
deriving DecidableEq, Repr

/-- A place of the reply queue (R25): its reply kind, its payload once READY, and whether it is the DONE of a
DECK_RESET, whose last slot brings the deck reset (R36). -/
structure Place where
  state : PlaceState
  kind : Byte
  payload : List Byte
  resetsDeck : Bool
deriving DecidableEq, Repr

/-- The packet being collected (R21). -/
structure Assembly where
  buffer : List Byte
  total : Nat
deriving DecidableEq, Repr

/-- The packet whose transmission has begun, with its count of slots sent (R35). -/
structure Transmission where
  packet : List Byte
  sent : Nat
  reply : Bool
  resetsDeck : Bool
deriving DecidableEq, Repr

/-- Reset causes (R32). -/
inductive ResetCause where
  | power | line | deck
deriving DecidableEq, Repr

/-- Where an announcement is heard (R109). -/
inductive Rendering where
  | speakers | headsets | both
deriving DecidableEq, Repr

/-- The settings record (R31). -/
structure Settings where
  trim : Nat
  duck : Vector Nat 4
  hang : Nat
  gap : Nat
  jump : Nat
  ramp : Nat
  rows : Nat
  chime : Option (Fin 128)
  chimeRendering : Rendering
  alarm : Option (Fin 128)
  speakers : List Lang
deriving DecidableEq, Repr

/-- CTH (R37). `assembly` none is IDLE; `tx` none is an idle transmitter. `deckDue`: the DONE of an addressed
DECK_RESET has been sent to its last slot and the reset has not yet taken effect (R36). -/
structure Cth where
  assembly : Option Assembly
  replies : List Place
  notices : List Notice
  lost : Bool
  tx : Option Transmission
  deckPending : Bool
  deckDue : Bool
  cause : ResetCause
  settings : Settings
deriving DecidableEq, Repr

/-! ## Seat Chain Controller (03) -/

/-- A seat record (R38). -/
structure Seat where
  zone : Zone
  enabled : Bool
  present : Bool
  lang : Lang
  volume : Nat
  defVolume : Nat
  cap : Nat
  stopPressed : Bool
deriving DecidableEq, Repr

/-- A language record (R41); its live field is TIF's live flag (R42). -/
structure Language where
  offered : Bool
  fallback : Option Lang
deriving DecidableEq, Repr

/-- A box record (R45, R47): ONLINE, miss count, last sense of jack A and jack B. -/
structure Box where
  online : Bool
  miss : Nat
  senseA : Bool
  senseB : Bool
deriving DecidableEq, Repr

/-- SCC (R57). `latch` is the stop-request latch with its first seat. `poll` is the box polled in the period in progress;
`awaited` the box polled in the period that has ended, until its reply is judged (R44). -/
structure Scc where
  seats : Vector Seat 64
  languages : Vector Language 12
  boxes : Vector Box 32
  poll : BoxNo
  latch : Option SeatNo
  awaited : Option BoxNo
deriving DecidableEq, Repr

/-! ## Headset Mixer (04) -/

/-- A point of the noise curve (R60). -/
structure CurvePoint where
  speed : Nat
  boost : Nat
deriving DecidableEq, Repr

/-- Targets and applied indexes of a seat (R62, R64): commentary `tc`, `gc`, announcement `ta`, `ga`. -/
structure SeatGain where
  tc : Nat
  ta : Nat
  gc : Nat
  ga : Nat
deriving DecidableEq, Repr

/-- What HMX has formed of a seat's sample of the period that has ended: the inputs of its two paths, and the applied
indexes and the enabled field as they stood at its start (R59, R65, R71, R72). -/
structure SeatPaths where
  commentary : Int
  announcement : Int
  gc : Nat
  ga : Nat
  enabled : Bool
deriving DecidableEq, Repr

/-- HMX (R74). -/
structure Hmx where
  curve : Vector CurvePoint 8
  boost : Nat
  gains : Vector SeatGain 64
  formed : Vector SeatPaths 64
deriving DecidableEq, Repr

/-! ## Zone Output Unit (05) -/

/-- A zone record (R76) with the targets and applied indexes of its two paths (R83). -/
structure ZoneRec where
  channel : Fin 4
  boost : Nat
  defLang : Lang
  trim : Nat
  program : Option Lang
  quiet : Bool
  duck : Nat
  tp : Nat
  ts : Nat
  gp : Nat
  gs : Nat
deriving DecidableEq, Repr

/-- The current summary (R78). -/
structure Summary where
  mask : ZoneMask
  priority : Fin 4
  talk : Bool
deriving DecidableEq, Repr

/-- ZOU (R88). -/
structure Zou where
  zones : Vector ZoneRec 4
  summary : Option Summary
deriving DecidableEq, Repr

/-! ## Route Cue Engine (06) -/

/-- A cue's kind with the parameters it uses (R89). -/
inductive CueAction where
  | announce (phrase : Fin 128) (priority : Fin 4) (mask : ZoneMask) (rendering : Rendering) (langs : List Lang)
  | scene (scene : Fin 16)
  | quietOn (mask : ZoneMask)
  | quietOff (mask : ZoneMask)
  | stopReached
  | mark
deriving DecidableEq, Repr

/-- What RCE did with an entry (R89). -/
inductive CueState where
  | pending | fired | missed | skipped
deriving DecidableEq, Repr

/-- A cue entry (R89). -/
structure Cue where
  trigger : Nat
  latest : Option Nat
  action : CueAction
  state : CueState
deriving DecidableEq, Repr

/-- What RCE delivers of a FIRED entry to the block that owns its action (R102, R103): the entry's index, its action, a
quiet one with its mask as reduced (R99), and its latest. -/
structure Delivery where
  index : Nat
  action : CueAction
  stale : Option Nat
deriving DecidableEq, Repr

/-- RCE (R107). `due`: the deliveries made and not yet taken by their blocks, oldest first (R102,
notes/assumptions/7.md). -/
structure Rce where
  cues : Vector Cue 256
  count : Nat
  state : RouteState
  armedTag : Nat
  cursor : Nat
  lastOdo : Nat
  due : List Delivery
deriving DecidableEq, Repr

/-! ## Announcement Sequencer (07) -/

/-- An item of a phrase (R108). -/
structure Item where
  family : Nat
  neutral : Bool
deriving DecidableEq, Repr

/-- Where an announcement's audio comes from (R109). -/
inductive Source where
  | phrase (p : Fin 128)
  | talk
deriving DecidableEq, Repr

/-- Who asked for an announcement (R109). -/
inductive Origin where
  | command
  | cue (index : Nat)
  | chime
  | alarm
  | talk
deriving DecidableEq, Repr

/-- The hang state of a TALK announcement (R123). -/
inductive Hang where
  | pressed
  | released (count kept : Nat)
deriving DecidableEq, Repr

/-- Speaker progress: a round and the items finished in it (R116, R129). -/
structure Progress where
  round : Nat
  items : Nat
deriving DecidableEq, Repr

/-- A live announcement (R109), with the played flag VPL hands back at a suspension (R140). -/
structure Announcement where
  id : Nat
  source : Source
  priority : Fin 4
  mask : ZoneMask
  rendering : Rendering
  langs : List Lang
  stale : Option Nat
  origin : Origin
  arrival : Nat
  resume : Progress
  played : Bool
  hang : Hang
deriving DecidableEq, Repr

/-- ASQ (R127). `stack` has its top first, `queue` its head first. `report` is VPL's end report not yet taken
(R138, R120). -/
structure Asq where
  phrases : Vector (List Item) 128
  current : Option Announcement
  stack : List Announcement
  queue : List Announcement
  lastId : Nat
  softCut : Bool
  nextArrival : Nat
  report : Option (Nat × Bool)
deriving DecidableEq, Repr

/-! ## Voice Pool (08) and clips (09) -/

/-- A clip directory entry in use (R146); language 0 to 11, or 15. -/
structure Clip where
  family : Nat
  language : Nat
  first : Nat
  length : Nat
deriving DecidableEq, Repr

/-- Voice states (R128). -/
inductive VoiceState where
  | idle | priming | playing | starved | gap | ending
deriving DecidableEq, Repr

/-- What a voice renders (R128). -/
inductive Role where
  | speaker
  | headset (l : Lang)
deriving DecidableEq, Repr

/-- A claim on a voice in ENDING (R130): the new owner, its role and its first round. -/
structure Claim where
  owner : Nat
  role : Role
  round : Nat
deriving DecidableEq, Repr

/-- A voice record (R128). `fadeSilent` says that the fade's x is 0 for the rest of the fade (R139, R142). -/
structure Voice where
  state : VoiceState
  owner : Option Nat
  role : Role
  round : Nat
  item : Nat
  clip : Option Clip
  position : Nat
  cur : Option Nat
  next : Option Nat
  stall : Nat
  gap : Nat
  gapKept : Nat
  fade : Nat
  claim : Option Claim
  fadeZones : Option (ZoneMask × Fin 4)
  fadeSilent : Bool
deriving DecidableEq, Repr

/-- An entry of a seat map (R131): the talk sample, a voice, or no voice. -/
inductive MapEntry where
  | talk
  | voice (v : VoiceNo)
  | silent
deriving DecidableEq, Repr

/-- The rendering record (R129). -/
structure RenderRec where
  owner : Nat
  priority : Fin 4
  mask : ZoneMask
  rendering : Rendering
  items : List Item
  langs : List Lang
  progress : Progress
  played : Bool
  softCut : Bool
  map : Vector (Option MapEntry) 64
  talk : Bool
deriving DecidableEq, Repr

/-- A previous map (R132) with the announcement it was made for. -/
structure PrevMap where
  owner : Nat
  map : Vector (Option MapEntry) 64
deriving DecidableEq, Repr

/-- VPL (R144). -/
structure Vpl where
  voices : Vector Voice 8
  rendering : Option RenderRec
  prev : Option PrevMap
deriving DecidableEq, Repr

/-- Bytes by address in canonical form: addresses strictly rising, no byte equal to `Config.blankByte`. -/
abbrev Memory := List Host.Cell

/-- A cache sector (R148); VALID holds its copy by offset 0 to 4,095. -/
inductive Line where
  | invalid
  | filling (tag : Nat)
  | valid (tag : Nat) (data : Memory)
deriving DecidableEq, Repr

/-- A fetch queue entry (R153); the arrival is its place in the queue's list. -/
structure FetchEntry where
  sector : Nat
  urgency : Nat
  waiting : List VoiceNo
deriving DecidableEq, Repr

/-- CCC (R163). `lru` has the least recent first; `locks` is kept in rising order. -/
structure Ccc where
  directory : Vector (Option Clip) 512
  lines : Vector Line 32
  lru : List LineNo
  locks : List Nat
  queue : List FetchEntry
deriving DecidableEq, Repr

/-- A maintenance operation (R159). -/
inductive MaintOp where
  | erase (sector : Nat)
  | program (addr : Nat) (data : List Byte)
  | read (addr count : Nat)
deriving DecidableEq, Repr

/-- Stages of a maintenance operation (R160): not yet started, waiting for a memory that was busy at its start, and sent: a
read whose bytes come, an erase or program that waits for ready again. -/
inductive Stage where
  | pending | waitReady | sent
deriving DecidableEq, Repr

/-- The pending maintenance operation (R159, R160). -/
structure Maint where
  op : MaintOp
  stage : Stage
  ticks : Nat
deriving DecidableEq, Repr

/-- The fetch in progress (R155). `overBusy`: the device was still running an operation that a reset abandoned or
that had ended FAILED when the fetch started, so the bytes read are free values (R160, R163, notes/assumptions/5.md). -/
structure Fetch where
  sector : Nat
  line : LineNo
  overBusy : Bool
deriving DecidableEq, Repr

/-- CMP (R163). The port state is computed from these two (`portState`). -/
structure Cmp where
  fetch : Option Fetch
  maint : Option Maint
deriving DecidableEq, Repr

/-- The external clip memory device (R145): its contents, the erase or program it is running, whether that has ended FAILED
for the chip (R160), and the number of free values drawn (notes/assumptions/5.md). -/
structure Device where
  bytes : Memory
  busy : Option MaintOp
  givenUp : Bool
  draws : Nat
deriving DecidableEq, Repr

/-! ## Lamp Controller (10, 11) -/

/-- Pattern modes (R167). -/
inductive Mode where
  | off | steady | blink | pulses | fade
deriving DecidableEq, Repr

/-- The seven pattern fields of a group or a preset (R175). -/
structure Pattern where
  mode : Mode
  levelOn : Nat
  levelOff : Nat
  onLen : Nat
  offLen : Nat
  pulseCount : Nat
  fadeStep : Nat
deriving DecidableEq, Repr

/-- Start sources with the parameters kept for them (R167). -/
inductive StartSource where
  | none
  | stopRequest
  | announce (mask : ZoneMask) (threshold : Fin 4)
  | alarm
  | chain (g : GroupNo)
deriving DecidableEq, Repr

/-- Ignition states (R167). -/
inductive Ignition where
  | dark | waiting | lit
deriving DecidableEq, Repr

/-- A lamp group (R167). `phaseOn` is phase ON; `pending` the pending pair of on and off lengths. `stands`: the group was
queued with its level set, its ignition was then given up, and the next boundary shows its level uncounted (R181, R183,
R185). -/
structure Group where
  pat : Pattern
  pending : Option (Nat × Nat)
  source : StartSource
  follow : Bool
  hold : Bool
  safety : Bool
  running : Bool
  phaseOn : Bool
  begun : Bool
  framesLeft : Nat
  pulsesLeft : Nat
  level : Nat
  ign : Ignition
  stands : Bool
deriving DecidableEq, Repr

/-- A scene's setting of one group (R176). -/
inductive SceneSetting where
  | leave
  | stop
  | load (preset : Fin 32)
deriving DecidableEq, Repr

/-- Deck alarm override states (R184). -/
inductive Override where
  | clear | active | releasing
deriving DecidableEq, Repr

/-- LMC (R179, R187). `ticks`: the ticks it has taken since warm-up, the time base of the grant history (R182);
`boundaryDue`: the scan position has returned to 0 and its boundary is still to be taken (R164); `flagSource`: the
override's source that follows the drive record's deck alarm flag (R184). -/
structure Lmc where
  ticks : Nat
  scanPos : Nat
  scanRows : Nat
  boundaryDue : Bool
  cells : Vector (Option GroupNo) 192
  groups : Vector Group 24
  presets : Vector Pattern 32
  scenes : Vector (Vector SceneSetting 24) 16
  supply : Supply
  rampCount : Nat
  rampKept : Nat
  history : List Nat
  ignQueue : List GroupNo
  override : Override
  lineSource : Bool
  flagSource : Bool
  releaseCount : Nat
deriving DecidableEq, Repr

/-! ## The ports as last driven -/

/-- What the chip sent where a frame found by hunting shortened a period (R3): that period's return frame (R16), and the
seat chain frame (R43) and the zone port's channels (R87) of the period that began at the frame's sync word. -/
structure ShortFrames where
  returnFrame : List Word16
  seatFrame : List Word16
  channels : Vector Sample 4
deriving DecidableEq, Repr

/-- The ports as last driven: the return frame of the last period (R16), what was repeated on trunk-out since the slot
command before it (R15), the frames of a period that the last slot command found shortened, the zone port's channels
(R87), the row line driven and the level of each column in it (R165). The seat chain frame is computed (`seatFrame`). -/
structure Ports where
  returnFrame : List Word16
  trunkOut : TrunkWords
  short : Option ShortFrames
  channels : Vector Sample 4
  row : Option Nat
  columns : Vector Nat 24
deriving DecidableEq, Repr

/-! ## The machine -/

/-- The state of the block, with its queue of waiting commands, first in, first out. -/
structure State where
  pending : List Instr
  power : Power
  tif : Tif
  cth : Cth
  scc : Scc
  hmx : Hmx
  zou : Zou
  rce : Rce
  asq : Asq
  vpl : Vpl
  ccc : Ccc
  cmp : Cmp
  lmc : Lmc
  dev : Device
  out : Ports
deriving DecidableEq, Repr

/-- Faults. The spec gives the chip no state in which it stops, so no command raises one: safe. -/
inductive Fault where
  /-- An access beyond clip memory's 16,777,216 bytes. Raised by nothing: every request's address is checked
  (R159) and every directory entry lies within 4,096 sectors (R146). Safe. -/
  | clipAddress (addr : Nat)
deriving DecidableEq, Repr

/-- Refusals. -/
inductive Refusal where
  /-- A command without a meaning, refused by name in exec's arm. No arm uses it. Safe. -/
  | notModelled (mnemonic : String)
deriving DecidableEq, Repr

/-! ## Values after power-on and the reset line -/

namespace Reset

/-- No samples: all 13 zero (R20). -/
def samples : Samples := { lang := Vector.replicate 12 0, talk := 0 }

/-- The drive record at the end of warm-up (R10, R20). -/
def drive : Drive := { odometer := 0, odoValid := false, speed := 0, tag := 0, alarm := false, talk := false }

/-- TIF at the end of warm-up (R20), with the node address sampled there (R16). -/
def tif (adr : BitVec 2) : Tif :=
  { trunk := .seeking, receiver := .hunting, counter := 0, validRun := 0, invalidRun := 0, drive := drive, live := 0,
    last := samples, delivered := samples, node := adr, downstream := none, periodStarts := 0, tickFor := [] }

/-- The settings record's defaults (R31). -/
def settings : Settings :=
  { trim := 6, duck := #v[12, 24, 36, 121], hang := 200, gap := 300, jump := 150, ramp := 250, rows := 8,
    chime := none, chimeRendering := .speakers, alarm := none, speakers := [0] }

/-- CTH at the end of warm-up (R37). -/
def cth (cause : ResetCause) : Cth :=
  { assembly := none, replies := [], notices := [], lost := false, tx := none, deckPending := false, deckDue := false,
    cause := cause, settings := settings }

/-- A seat record's defaults (R38). -/
def seat (i : SeatNo) : Seat :=
  { zone := Fin.ofNat 4 (i.val / 16), enabled := true, present := false, lang := 0, volume := 8, defVolume := 8,
    cap := 0, stopPressed := false }

/-- A language record's defaults (R41). -/
def language (l : Lang) : Language := { offered := l == 0, fallback := none }

/-- A box record at the end of warm-up (R57). -/
def box : Box := { online := false, miss := 0, senseA := false, senseB := false }

/-- SCC at the end of warm-up (R57). -/
def scc : Scc :=
  { seats := Vector.ofFn seat, languages := Vector.ofFn language, boxes := Vector.replicate 32 box, poll := 0,
    latch := none, awaited := none }

/-- Nothing formed of a seat's sample yet (R74). -/
def seatPaths : SeatPaths := { commentary := 0, announcement := 0, gc := 121, ga := 121, enabled := true }

/-- HMX at the end of warm-up (R74). -/
def hmx : Hmx :=
  { curve := Vector.replicate 8 { speed := 0, boost := 0 }, boost := 0,
    gains := Vector.replicate 64 { tc := 121, ta := 121, gc := 121, ga := 121 },
    formed := Vector.replicate 64 seatPaths }

/-- A zone record's defaults with the indexes of R88. -/
def zone (z : Zone) : ZoneRec :=
  { channel := z, boost := 0, defLang := 0, trim := 24, program := none, quiet := false, duck := 0,
    tp := 121, ts := 121, gp := 121, gs := 121 }

/-- ZOU at the end of warm-up (R88). -/
def zou : Zou := { zones := Vector.ofFn zone, summary := none }

/-- A cue entry at the end of warm-up (R107). -/
def cue : Cue := { trigger := 0, latest := none, action := .mark, state := .pending }

/-- RCE at the end of warm-up (R107). -/
def rce : Rce :=
  { cues := Vector.replicate 256 cue, count := 0, state := .idle, armedTag := 0, cursor := 0, lastOdo := 0, due := [] }

/-- ASQ at the end of warm-up (R127). -/
def asq : Asq :=
  { phrases := Vector.replicate 128 [], current := none, stack := [], queue := [], lastId := 0, softCut := false,
    nextArrival := 0, report := none }

/-- An IDLE voice with the values of R144. DESIGN CHOICE: R144 names all counts, but neither the kept gap length nor the
model's own mark of a silent fade; they are 0 and no (notes/assumptions/19.md). -/
def voice : Voice :=
  { state := .idle, owner := none, role := .speaker, round := 0, item := 0, clip := none, position := 0, cur := none,
    next := none, stall := 0, gap := 0, gapKept := 0, fade := 0, claim := none, fadeZones := none,
    fadeSilent := false }

/-- VPL at the end of warm-up and after deck reset (R144). -/
def vpl : Vpl := { voices := Vector.replicate 8 voice, rendering := none, prev := none }

/-- CCC at the end of warm-up (R163). -/
def ccc : Ccc :=
  { directory := Vector.replicate 512 none, lines := Vector.replicate 32 .invalid, lru := [], locks := [], queue := [] }

/-- CMP at the end of warm-up (R163). -/
def cmp : Cmp := { fetch := none, maint := none }

/-- The default pattern (R167, R175). -/
def pattern : Pattern :=
  { mode := .off, levelOn := 0, levelOff := 0, onLen := 1, offLen := 1, pulseCount := 1, fadeStep := 1 }

/-- A lamp group at the end of warm-up (R167, R179). -/
def group : Group :=
  { pat := pattern, pending := none, source := .none, follow := false, hold := false, safety := false, running := false,
    phaseOn := true, begun := false, framesLeft := 0, pulsesLeft := 0, level := 0, ign := .dark, stands := false }

/-- LMC at the end of warm-up (R179, R187). -/
def lmc : Lmc :=
  { ticks := 0, scanPos := 0, scanRows := settings.rows, boundaryDue := false, cells := Vector.replicate 192 none,
    groups := Vector.replicate 24 group,
    presets := Vector.replicate 32 pattern, scenes := Vector.replicate 16 (Vector.replicate 24 .leave),
    supply := .off, rampCount := 0, rampKept := 0, history := [], ignQueue := [], override := .clear,
    lineSource := false, flagSource := false, releaseCount := 0 }

/-- Every line inactive and nothing sent: the ports in warm-up (R188). -/
def quietPorts : Ports :=
  { returnFrame := [], trunkOut := [], short := none, channels := Vector.replicate 4 0, row := none,
    columns := Vector.replicate 24 0 }

/-- The ports in the first period after warm-up: row 0 is driven dark (R164, R179). -/
def firstPorts : Ports := { quietPorts with row := some 0 }

end Reset

/-- The chip right after reset: the state at the end of a power-on warm-up (R189), address pins 0
(notes/assumptions/3.md), nothing waiting. -/
def State.reset : State :=
  { pending := [],
    power := { running := true, supplyUp := true, resetLow := false, powerLeft := 0, lineLeft := 0, risen := false },
    tif := Reset.tif 0, cth := Reset.cth .power, scc := Reset.scc, hmx := Reset.hmx, zou := Reset.zou,
    rce := Reset.rce, asq := Reset.asq, vpl := Reset.vpl, ccc := Reset.ccc, cmp := Reset.cmp, lmc := Reset.lmc,
    dev := { bytes := [], busy := none, givenUp := false, draws := 0 }, out := Reset.firstPorts }

end Sys2Proof.Machine
end

