-- ==== Sys2Proof/Machine/Bits.lean ====
section
/-! DEFINITION. Bytes, words, samples and table updates: the helpers every block's operations use. -/

namespace Sys2Proof.Machine

/-! ## Fields of words -/

/-- The 16-bit number of two bytes sent high byte first (00_scope.md, Numbers). -/
def be16 (h l : Byte) : Nat := h.toNat * 256 + l.toNat

/-- The 24-bit number of three bytes sent high byte first. -/
def be24 (h m l : Byte) : Nat := h.toNat * 65536 + m.toNat * 256 + l.toNat

/-- A number as one byte. -/
def byte (n : Nat) : Byte := BitVec.ofNat 8 n

/-- A number as two bytes, high byte first. -/
def bytes16 (n : Nat) : List Byte := [byte (n / 256), byte n]

/-- A number as three bytes, high byte first. -/
def bytes24 (n : Nat) : List Byte := [byte (n / 65536), byte (n / 256), byte n]

/-- yes/no on write: 0 is no, any other value yes (R27). -/
def yes (b : Byte) : Bool := b != 0

/-- yes/no on read: 0 or 1 (R27). -/
def yesByte (b : Bool) : Byte := if b then 1 else 0

/-- The high byte of a word (bits 8 to 15). -/
def hiByte (w : Word16) : Byte := w.extractLsb' 8 8

/-- The low byte of a word (bits 0 to 7). -/
def loByte (w : Word16) : Byte := w.extractLsb' 0 8

/-- A word of two bytes. -/
def word (h l : Byte) : Word16 := h ++ l

/-- The check word of a frame: the sum modulo 65,536 of its words (section 1.1). -/
def sumWords (ws : List Word16) : Word16 := ws.foldl (· + ·) 0

/-- The sum modulo 256 of bytes (section 2.1). -/
def sumBytes (bs : List Byte) : Byte := bs.foldl (· + ·) 0

/-- An index below `n`, or none. -/
def asFin (n k : Nat) : Option (Fin n) := if h : k < n then some ⟨k, h⟩ else none

/-- The zone is a member of the set. -/
def inMask (m : ZoneMask) (z : Zone) : Bool := m.getLsbD z.val

/-- The four bytes of a slot, in order. -/
def Slot.bytes (t : Slot) : List Byte := [t.b0, t.b1, t.b2, t.b3]

/-- Four zero bytes (R17). -/
def Slot.zero : Slot := { b0 := 0, b1 := 0, b2 := 0, b3 := 0 }

/-- The first four bytes of a list, filled with zero (section 2.1, after byte 4+n). -/
def Slot.ofBytes (bs : List Byte) : Slot :=
  { b0 := bs.getD 0 0, b1 := bs.getD 1 0, b2 := bs.getD 2 0, b3 := bs.getD 3 0 }

/-! ## Samples -/

/-- Saturation to the 16-bit range (00_scope.md, Arithmetic words). -/
def saturate (x : Int) : Int := max (-32768) (min 32767 x)

/-- A number as a sample. -/
def toSample (x : Int) : Sample := BitVec.ofInt 16 x

/-! ## Tables -/

/-- A table with one entry replaced. -/
def put {α : Type} {n : Nat} (t : Vector α n) (i : Fin n) (x : α) : Vector α n := t.set i.val x i.isLt

/-- A table with a function applied to every entry. -/
def mapTable {α β : Type} {n : Nat} (f : α → β) (t : Vector α n) : Vector β n := Vector.ofFn fun i => f (t.get i)

/-- A list with the entry at a place replaced by a function of it. -/
def adjust {α : Type} {n : Nat} (t : Vector α n) (i : Fin n) (f : α → α) : Vector α n := put t i (f (t.get i))

/-- The first element of a list that passes a test, with the rest of the list in its order. -/
def takeFirst {α : Type} (p : α → Bool) : List α → Option (α × List α)
  | [] => none
  | x :: xs =>
    if p x then some (x, xs)
    else match takeFirst p xs with
      | none => none
      | some (y, ys) => some (y, x :: ys)

end Sys2Proof.Machine
end

