-- ==== Sys2Proof/Machine/Ops.lean ====
section
/-! DEFINITION. Operations every block shares: clip memory bytes (R145), the notice queue (R33), the reply queue
(R23, R25) and a block's answer to a request (R24). -/

namespace Sys2Proof.Machine

/-! ## Clip memory -/

/-- The byte at an address; an unlisted address reads `Config.blankByte`. -/
def Memory.read : Memory → Nat → Byte
  | [], _ => Config.blankByte
  | (k, v) :: rest, a => if k = a then v else Memory.read rest a

/-- A byte stored, keeping the canonical form: writing the blank byte removes the cell. -/
def Memory.write : Memory → Nat → Byte → Memory
  | [], a, v => if v = Config.blankByte then [] else [(a, v)]
  | (k, w) :: rest, a, v =>
    if a < k then (if v = Config.blankByte then (k, w) :: rest else (a, v) :: (k, w) :: rest)
    else if a = k then (if v = Config.blankByte then rest else (k, v) :: rest)
    else (k, w) :: Memory.write rest a v

/-- Every address above a bound, rising, and no byte blank. -/
def Memory.above : Memory → Nat → Bool
  | [], _ => true
  | (k, v) :: rest, lo => decide (lo ≤ k) && (v != Config.blankByte) && Memory.above rest (k + 1)

/-- The canonical form: addresses strictly rising, no cell equal to what an unlisted address reads. -/
def Memory.wf (m : Memory) : Bool := Memory.above m 0

/-- Sector erase (R145): every byte of the range becomes 0xFF, which is the blank byte, so its cells leave the list. -/
def Memory.clear (m : Memory) (lo hi : Nat) : Memory := m.filter fun c => decide (c.1 < lo) || decide (hi ≤ c.1)

/-- Page program (R145): each byte becomes the AND of the old byte and the new. -/
def Memory.program : Memory → Nat → List Byte → Memory
  | m, _, [] => m
  | m, a, b :: rest => Memory.program (Memory.write m a (Memory.read m a &&& b)) (a + 1) rest

/-- The bytes from an address upward (R145, read). -/
def Memory.bytes (m : Memory) : Nat → Nat → List Byte
  | _, 0 => []
  | a, n + 1 => Memory.read m a :: Memory.bytes m (a + 1) n

/-- A copy of the cells of one sector, by offset in it (R155). -/
def Memory.sector (m : Memory) (k : Nat) : Memory :=
  (m.filter fun c => decide (Config.sectorBytes * k ≤ c.1) && decide (c.1 < Config.sectorBytes * (k + 1))).map
    fun c => (c.1 - Config.sectorBytes * k, c.2)

/-- A range of `n` bytes from `a`, each a free value of the given draw (notes/assumptions/5.md); `base` is added to
the place for the free value's address. -/
def Memory.free (draw base : Nat) : Memory → Nat → Nat → Memory
  | m, _, 0 => m
  | m, a, n + 1 => Memory.free draw base (Memory.write m a (Config.freeByte draw (base + a))) (a + 1) n

/-- The operation the device runs takes effect (R145). -/
def Device.apply (m : Memory) : MaintOp → Memory
  | .erase k => Memory.clear m (Config.sectorBytes * k) (Config.sectorBytes * (k + 1))
  | .program a data => Memory.program m a data
  | .read _ _ => m

/-- The region of an operation holds free values of a draw (notes/assumptions/5.md). -/
def Device.lose (draw : Nat) (m : Memory) : MaintOp → Memory
  | .erase k => Memory.free draw 0 m (Config.sectorBytes * k) Config.sectorBytes
  | .program a data => Memory.free draw 0 m a data.length
  | .read _ _ => m

/-- The device reports ready: the operation it was running has completed (R145). Where that had ended FAILED for the chip,
its region is the memory's own (R160): free values. -/
def Device.finish (d : Device) : Device :=
  match d.busy with
  | none => d
  | some op =>
    if d.givenUp then
      { bytes := Device.lose d.draws d.bytes op, busy := none, givenUp := false, draws := d.draws + 1 }
    else { d with bytes := Device.apply d.bytes op, busy := none }

/-- An operation is sent to the device (R145, R160): it is busy with an erase or program, and only answers a read. -/
def Device.start (d : Device) : MaintOp → Device
  | .read _ _ => d
  | op => { d with busy := some op, givenUp := false }

/-- The chip ends as FAILED an operation it has sent (R160). The device has not reported ready and is still busy (R145,
notes/assumptions/5.md). -/
def Device.giveUp (d : Device) : Device := { d with givenUp := d.busy.isSome }

/-! ## Notices -/

/-- A notice joins the tail of the notice queue, or is dropped on a full queue with the lost flag set (R33). -/
def pushNotice (n : Notice) (s : State) : State :=
  if Config.noticePlaces ≤ s.cth.notices.length then { s with cth := { s.cth with lost := true } }
  else { s with cth := { s.cth with notices := s.cth.notices ++ [n] } }

/-! ## Replies -/

/-- The value of a result code (section 2.1). -/
def Result.code : Result → Byte
  | .done => 0
  | .badKind => 1
  | .badTable => 2
  | .badIndex => 3
  | .badValue => 4
  | .wrongState => 5
  | .full => 6
  | .busy => 7
  | .notFound => 8
  | .failed => 9

/-- An owner's answer to a request. -/
inductive Answer where
  /-- A payload, READY at once. -/
  | reply (payload : List Byte)
  /-- A clip memory request accepted: the place stays RESERVED (R26). -/
  | deferred
  /-- DECK_RESET taken: DONE, whose last slot brings the deck reset (R36). -/
  | resetDone
deriving DecidableEq, Repr

/-- A result with no data (R24). -/
def answer (r : Result) : Answer := .reply [r.code]

/-- A result with data after it (R24). -/
def answerWith (r : Result) (data : List Byte) : Answer := .reply (r.code :: data)

/-- The reply queue place an answer fills (R25, R36). -/
def Answer.place (kind : Byte) : Answer → Place
  | .reply p => { state := .ready, kind := kind, payload := p, resetsDeck := false }
  | .deferred => { state := .reserved, kind := kind, payload := [], resetsDeck := false }
  | .resetDone => { state := .ready, kind := kind, payload := [Result.done.code], resetsDeck := true }

/-- A place joins the tail of the reply queue (R23). -/
def addPlace (p : Place) (s : State) : State := { s with cth := { s.cth with replies := s.cth.replies ++ [p] } }

/-- A request arriving at its check byte is discarded (R23): deck reset pending, or, unless it is a broadcast, the
reply queue full. -/
def discarded (bc : Bool) (s : State) : Bool :=
  s.cth.deckPending || (!bc && decide (Config.replyPlaces ≤ s.cth.replies.length))

/-- A request is taken and handled in full, its reply placed at the tail of the reply queue; a broadcast gets none
(R23). `kind` is the reply kind. -/
def takeRequest (bc : Bool) (kind : Byte) (handle : State → State × Answer) (s : State) : State :=
  if discarded bc s then s
  else if bc then (handle s).1
  else addPlace ((handle s).2.place kind) (handle s).1

/-- The reply kinds (section 2.1). -/
def replyEntryWrite : Byte := 0x81
def replyEntryRead : Byte := 0x82
def replyAction : Byte := 0x83
def replyStateRead : Byte := 0x84
def replyClipErase : Byte := 0x85
def replyClipProgram : Byte := 0x86
def replyClipRead : Byte := 0x87
def replyDeckReset : Byte := 0x88
def replyUnknown : Byte := 0x80

/-- A deferred reply becomes READY with its outcome, if its place is still RESERVED; otherwise the outcome is
discarded (R26). -/
def fillReserved (payload : List Byte) : List Place → List Place
  | [] => []
  | p :: rest =>
    if p.state = .reserved then { p with state := .ready, payload := payload } :: rest
    else p :: fillReserved payload rest

/-- CMP hands CTH the outcome of its operation (R26). -/
def deferredReply (payload : List Byte) (s : State) : State :=
  { s with cth := { s.cth with replies := fillReserved payload s.cth.replies } }

/-! ## Past the end of warm-up -/

/-- A command's effect past the end of warm-up; a chip in warm-up takes nothing and sends nothing (R188). -/
def whenRunning (f : State → State) (s : State) : Host.Outcome State Fault Refusal :=
  .next (if s.power.running then f s else s)

/-- The arrival of a request's check byte at CTH: past the end of warm-up, and only while the trunk is LOCKED, as TIF hands
CTH no control slot otherwise (R14, R189). -/
def whenLocked (f : State → State) (s : State) : Host.Outcome State Fault Refusal :=
  whenRunning (fun s => if s.tif.trunk = .locked then f s else s) s

end Sys2Proof.Machine
end

