-- ==== Sys2Proof/Machine/Lamp.lean ====
section
/-! DEFINITION. LMC's groups, presets, scenes, ignition, supply and scan (10, 11), all but the override's own moves. -/

namespace Sys2Proof.Machine

/-- Groups 0 to 23 in order. -/
def allGroups : List GroupNo := List.finRange 24

/-- A group's record. -/
def groupOf (s : State) (g : GroupNo) : Group := s.lmc.groups.get g

/-- A group's record replaced. -/
def setGroup (g : GroupNo) (x : Group) (s : State) : State :=
  { s with lmc := { s.lmc with groups := put s.lmc.groups g x } }

/-- Levels come from the groups' own patterns and a change from dark needs an ignition: the supply is READY and the
override CLEAR (R181, R182). -/
def ignitable (s : State) : Bool := s.lmc.supply == .ready && s.lmc.override == .clear

/-- The shown level of a group (R181). -/
def shownLevel (s : State) (g : GroupNo) : Nat :=
  let x := groupOf s g
  if s.lmc.supply ≠ .ready then 0
  else if s.lmc.override ≠ .clear then (if x.safety then 63 else 0)
  else if !x.running then 0
  else if x.ign = .waiting then 0
  else x.level

/-! ## Starts and stops (R169) -/

/-- A group leaves the ignition queue (R169). -/
def dequeueIgnition (g : GroupNo) (s : State) : State :=
  { s with lmc := { s.lmc with ignQueue := s.lmc.ignQueue.filter (· != g) } }

/-- The fields of a stopped group (R169). -/
def stoppedGroup (x : Group) : Group :=
  { x with running := false, phaseOn := true, begun := false, framesLeft := 0, pulsesLeft := 0, level := 0, ign := .dark,
           stands := false }

/-- A stop of a group (R169). -/
def stopGroup (g : GroupNo) (s : State) : State :=
  if (groupOf s g).running then dequeueIgnition g (setGroup g (stoppedGroup (groupOf s g)) s) else s

/-- The fields of a started group (R169): a fresh ON phase, not begun; the level stands. -/
def startedGroup (x : Group) : Group :=
  { x with running := true, phaseOn := true, begun := false, framesLeft := 0, pulsesLeft := x.pat.pulseCount,
           stands := false }

/-- A start of a group (R169): mode OFF stops it, any other mode starts or restarts it. -/
def startGroup (g : GroupNo) (s : State) : State :=
  if (groupOf s g).pat.mode = .off then stopGroup g s else setGroup g (startedGroup (groupOf s g)) s

/-- What a configuration write that set the mode brings (R168), given the group's mode before the write: OFF stops a
running group, a changed mode starts a running group afresh. -/
def modeEffect (g : GroupNo) (before : Mode) (s : State) : State :=
  let x := groupOf s g
  if x.running && x.pat.mode == .off then stopGroup g s
  else if x.running && x.pat.mode != before then startGroup g s
  else s

/-- The seven pattern fields of a group are written (R168, R175). -/
def writePattern (g : GroupNo) (p : Pattern) (s : State) : State :=
  let x := groupOf s g
  modeEffect g x.pat.mode (setGroup g { x with pat := p } s)

/-- A pending pair is written (R173): kept for a running group, adopted at once by one that is not. -/
def writePending (g : GroupNo) (onLen offLen : Nat) (s : State) : State :=
  let x := groupOf s g
  if x.running then setGroup g { x with pending := some (onLen, offLen) } s
  else setGroup g { x with pat := { x.pat with onLen := onLen, offLen := offLen }, pending := none } s

/-- Every group that meets a test is acted on, in group order within the event (R174). -/
def forGroups (p : Group → Bool) (f : GroupNo → State → State) (s : State) : State :=
  allGroups.foldl (fun s g => if p (groupOf s g) then f g s else s) s

/-! ## Start sources (R174) -/

/-- The announcement test: start zone mask sharing a zone with the mask, threshold not above the priority (R174). -/
def qualifies (mask : ZoneMask) (priority : Fin 4) (x : Group) : Bool :=
  match x.source with
  | .announce m t => (m &&& mask) != 0 && decide (t ≤ priority)
  | _ => false

/-- The stop-request latch became SET (R54, R174). -/
def lampStopRequest (s : State) : State := forGroups (fun x => x.source == .stopRequest) startGroup s

/-- The stop-request latch became CLEAR (R55, R174). -/
def lampStopEnd (s : State) : State := forGroups (fun x => x.source == .stopRequest && x.follow) stopGroup s

/-- An announcement became current (R125, R174). -/
def lampAnnounceStart (a : Announcement) (s : State) : State := forGroups (qualifies a.mask a.priority) startGroup s

/-- An announcement is no longer current (R125, R174). -/
def lampAnnounceEnd (a : Announcement) (s : State) : State :=
  forGroups (fun x => qualifies a.mask a.priority x && x.follow) stopGroup s

/-- Override start (R184, R174). -/
def lampAlarmStart (s : State) : State := forGroups (fun x => x.source == .alarm) startGroup s

/-- Override end (R184, R174). -/
def lampAlarmEnd (s : State) : State := forGroups (fun x => x.source == .alarm && x.follow) stopGroup s

/-- Group-end of a group (R172, R174). -/
def lampChain (k : GroupNo) (s : State) : State := forGroups (fun x => x.source == .chain k) startGroup s

/-! ## Presets and scenes -/

/-- A preset loaded into a group, as one write of its seven fields (R175). -/
def loadPreset (g : GroupNo) (p : Fin 32) (s : State) : State := writePattern g (s.lmc.presets.get p) s

/-- A scene's setting applied to one group; a held group is skipped (R176). -/
def applySetting (sc : Vector SceneSetting 24) (s : State) (g : GroupNo) : State :=
  if (groupOf s g).hold then s
  else match sc.get g with
    | .leave => s
    | .stop => stopGroup g s
    | .load p => startGroup g (loadPreset g p s)

/-- A scene applied to groups 0 to 23 in order within one event (R176). -/
def applyScene (n : Fin 16) (s : State) : State := allGroups.foldl (applySetting (s.lmc.scenes.get n)) s

/-! ## Phases (R170 to R173) -/

/-- The level of the phase a group is in (R170). -/
def phaseLevel (x : Group) : Nat := if x.phaseOn then x.pat.levelOn else x.pat.levelOff

/-- A pending pair adopted (R173). -/
def adoptPending (x : Group) : Group :=
  match x.pending with
  | none => x
  | some (a, b) => { x with pat := { x.pat with onLen := a, offLen := b }, pending := none }

/-- A phase begun with its length and level (R170). -/
def beginPhase (x : Group) : Group :=
  let y := if x.phaseOn then adoptPending x else x
  match y.pat.mode with
  | .off => y
  | .steady => { y with begun := true, framesLeft := 0, level := y.pat.levelOn }
  | .blink | .pulses =>
    { y with begun := true, framesLeft := if y.phaseOn then y.pat.onLen else y.pat.offLen, level := phaseLevel y }
  | .fade => { y with begun := true, framesLeft := y.pat.fadeStep }

/-- The other phase entered, not begun (R171). -/
def flipPhase (x : Group) : Group := { x with phaseOn := !x.phaseOn, begun := false, framesLeft := 0 }

/-- What a boundary's advance makes of a group: `held` is the group if the advance's change from dark is held (R170),
`full` the group if it is made, `ended` says that a PULSES group has ended its last burst (R172). -/
structure Advance where
  held : Group
  full : Group
  ended : Bool
deriving DecidableEq, Repr

/-- An advance made whole, that ends no burst. -/
def Advance.to (x : Group) : Advance := { held := x, full := x, ended := false }

/-- A phase that begins at this boundary (R170). -/
def Advance.begin (x : Group) : Advance := { held := x, full := beginPhase x, ended := false }

/-- A running group at a boundary (R170, R171, R172). One that stands shows its level and is counted from the next boundary
(R181, R183, R185). -/
def advance (x : Group) : Advance :=
  if x.stands then Advance.to { x with stands := false }
  else if !x.begun then Advance.begin x
  else match x.pat.mode with
    | .off => Advance.to x
    | .steady => { held := x, full := { x with level := x.pat.levelOn }, ended := false }
    | .blink =>
      if 1 < x.framesLeft then
        { held := x, full := { x with framesLeft := x.framesLeft - 1, level := phaseLevel x }, ended := false }
      else Advance.begin (flipPhase x)
    | .pulses =>
      if 1 < x.framesLeft then
        { held := x, full := { x with framesLeft := x.framesLeft - 1, level := phaseLevel x }, ended := false }
      else if x.phaseOn then Advance.begin (flipPhase x)
      else if 1 < x.pulsesLeft then Advance.begin (flipPhase { x with pulsesLeft := x.pulsesLeft - 1 })
      else { held := stoppedGroup x, full := stoppedGroup x, ended := true }
    | .fade =>
      if x.level = x.pat.levelOn then Advance.to { x with framesLeft := 0 }
      else if 1 < x.framesLeft then Advance.to { x with framesLeft := x.framesLeft - 1 }
      else
        { held := { x with framesLeft := 0 },
          full := { x with level := if x.level < x.pat.levelOn then x.level + 1 else x.level - 1,
                           framesLeft := x.pat.fadeStep },
          ended := false }

/-- The change a WAITING group stands before, made at its grant (R183): its phase begins, or it shows the level it
had when it was queued at entry to READY or at override end, or its held count is made. DESIGN CHOICE, unsafe: a group
restarted at a level above 0 and so queued before its phase began, of which R183 does not speak, begins its ON phase at
the grant (notes/assumptions/46.md). -/
def heldChange (x : Group) : Group :=
  if !x.begun then beginPhase x else if 0 < x.level then x else (advance x).full

/-! ## The ignition budget and queue (R182, R183) -/

/-- Fewer than 4 grants within the 20 ticks that end at this one (R182). -/
def budgetLeft (s : State) : Bool :=
  decide ((s.lmc.history.filter fun t => decide (s.lmc.ticks < t + Config.ignitionWindow)).length < Config.ignitionBudget)

/-- A grant recorded; the oldest of four recorded ticks is dropped (R182). -/
def recordGrant (s : State) : State :=
  let h := s.lmc.history ++ [s.lmc.ticks]
  { s with lmc := { s.lmc with history := if Config.ignitionBudget < h.length then h.tail else h } }

/-- A group placed in the ignition queue: a safety group ahead of the first entry that is not one, any other at the
tail (R183). -/
def insertIgnition (safety : GroupNo → Bool) (g : GroupNo) (q : List GroupNo) : List GroupNo :=
  if safety g then q.takeWhile safety ++ g :: q.dropWhile safety else q ++ [g]

/-- A group becomes WAITING in the ignition queue (R182, R183). The groups already waiting count by their safety flags as
they stand at the insertion (notes/assumptions/37.md). -/
def queueIgnition (g : GroupNo) (s : State) : State :=
  let t := setGroup g { groupOf s g with ign := .waiting, stands := false } s
  { t with lmc := { t.lmc with
      ignQueue := if t.lmc.ignQueue.contains g then t.lmc.ignQueue
                  else insertIgnition (fun k => (groupOf t k).safety) g t.lmc.ignQueue } }

/-- The queue served from its head until it is empty or a grant is refused (R183). A group granted has its held change made
and is LIT, whatever level that leaves it (R182). The first argument bounds the rounds; the queue's length is enough.
Answers the groups served. -/
def serveIgnition : Nat → State → State × List GroupNo
  | 0, s => (s, [])
  | n + 1, s =>
    match s.lmc.ignQueue with
    | [] => (s, [])
    | g :: rest =>
      if budgetLeft s then
        let t := setGroup g { heldChange (groupOf s g) with ign := .lit } (recordGrant s)
        let r := serveIgnition n { t with lmc := { t.lmc with ignQueue := rest } }
        (r.1, g :: r.2)
      else (s, [])

/-- One running group's advance at a boundary, with its ignition request where its change is from dark (R170, R182,
R183). A group shown above level 0 whose own level becomes 0 is DARK (R182); any other keeps its ignition state. -/
def advanceGroup (s : State) (g : GroupNo) : State :=
  let x := groupOf s g
  let a := advance x
  if a.ended then stopGroup g s
  else if ignitable s && x.level == 0 && decide (0 < a.full.level) then
    if budgetLeft s then setGroup g { a.full with ign := .lit } (recordGrant s)
    else queueIgnition g (setGroup g a.held s)
  else setGroup g { a.full with
    ign := if ignitable s && decide (0 < x.level) && a.full.level == 0 then .dark else a.full.ign } s

/-- The groups a boundary advances: running, not frozen WAITING, not served from the queue at this boundary (R183). -/
def advances (s : State) (served : List GroupNo) (g : GroupNo) : Bool :=
  (groupOf s g).running && (groupOf s g).ign != .waiting && !served.contains g

/-- The order in which a boundary judges requests: safety groups first, then the others, each in group order
(R183). -/
def requestOrder (s : State) : List GroupNo :=
  allGroups.filter (fun g => (groupOf s g).safety) ++ allGroups.filter (fun g => !(groupOf s g).safety)

/-! ## Scan (R164, R165) -/

/-- The column levels of a row: each cell shows its group's shown level, an unassigned cell 0 (R165). -/
def rowLevels (s : State) (row : Nat) : Vector Nat 24 :=
  Vector.ofFn fun c =>
    match (s.lmc.cells[row * 24 + c.val]?).join with
    | none => 0
    | some g => shownLevel s g

/-- The row slot of the scan position is driven with the levels as they stand (R165). -/
def driveRow (s : State) : State :=
  { s with out := { s.out with row := some s.lmc.scanPos, columns := rowLevels s s.lmc.scanPos } }

/-- The scan position advances at a tick end; back at 0, at the scan rows in use, a scan-frame boundary is due (R164). -/
def advanceScan (s : State) : State :=
  if s.lmc.scanRows ≤ s.lmc.scanPos + 1 then { s with lmc := { s.lmc with scanPos := 0, boundaryDue := true } }
  else { s with lmc := { s.lmc with scanPos := s.lmc.scanPos + 1 } }

/-- A scan-frame boundary (R164, R170 to R172, R183): scan rows are read, the ignition queue is served, the other
running groups are advanced, the group-end events are handed, and the slot that begins is driven. -/
def advanceFrame (s : State) : State :=
  let s0 := { s with lmc := { s.lmc with scanRows := s.cth.settings.rows, boundaryDue := false } }
  let r := if ignitable s0 then serveIgnition s0.lmc.ignQueue.length s0 else (s0, [])
  let s1 := r.1
  let todo := (requestOrder s1).filter (advances s1 r.2)
  let ended := allGroups.filter fun g => todo.contains g && (advance (groupOf s1 g)).ended
  let s2 := todo.foldl advanceGroup s1
  driveRow (ended.foldl (fun s k => lampChain k s) s2)

/-- SCAN_FRAME_BOUNDARY (R164, R170): made where a tick end has returned the scan position to 0. -/
def boundary (s : State) : State := if s.lmc.boundaryDue then advanceFrame s else s

/-! ## Supply (R180, R181) -/

/-- The supply moves to another state, with its notice (R180). -/
def moveSupply (x : Supply) (s : State) : State :=
  pushNotice (.supplyState x) { s with lmc := { s.lmc with supply := x } }

/-- OFF to RAMP: the ramp time is read and kept, the count becomes 0 (R180). -/
def rampUp (s : State) : State :=
  moveSupply .ramp { s with lmc := { s.lmc with rampKept := s.cth.settings.ramp, rampCount := 0 } }

/-- A WAITING group that leaves the ignition queue without a grant: where its held change is to show the level it was
queued with, it stands at the next boundary (R181, R183, R185). -/
def ungranted (x : Group) : Group :=
  { x with stands := x.stands || (x.ign == .waiting && x.begun && decide (0 < x.level)) }

/-- At leaving READY the ignition queue is emptied and every group becomes DARK; the history is kept (R181). -/
def darkenAll (s : State) : State :=
  { s with lmc := { s.lmc with
      ignQueue := [], groups := mapTable (fun x => { ungranted x with ign := .dark }) s.lmc.groups } }

/-- The override's ignition states: safety groups LIT, the others DARK, the queue empty (R185). -/
def overrideLevels (s : State) : State :=
  { s with lmc := { s.lmc with
      ignQueue := [],
      groups := mapTable (fun x => { ungranted x with ign := if x.safety then .lit else .dark }) s.lmc.groups } }

/-- Running groups with a level above 0 that meet a test join the ignition queue, safety groups first, then the
others, each in group order (R181, R184). -/
def queueLit (p : Group → Bool) (s : State) : State :=
  ((requestOrder s).filter fun g => (groupOf s g).running && decide (0 < (groupOf s g).level) && p (groupOf s g)).foldl
    (fun s g => queueIgnition g s) s

/-- SUPPLY on (R180). -/
def supplyOnOp (s : State) : State := if s.lmc.supply = .off then rampUp s else s

/-- To OFF or FAULT, darkening the groups where READY is left (R180, R181). DESIGN CHOICE: the ramp count and the kept ramp
time of a RAMP that is over stay as they stand (notes/assumptions/48.md). -/
def leaveSupply (x : Supply) (s : State) : State :=
  moveSupply x (if s.lmc.supply = .ready then darkenAll s else s)

/-- SUPPLY off (R180), with the override's restart in the same event (R184). -/
def supplyOffOp (s : State) : State :=
  let t := if s.lmc.supply = .off then s else leaveSupply .off s
  if t.lmc.override = .clear then t else rampUp t

/-- The code of a supply state (R32). -/
def Supply.code : Supply → Byte
  | .off => 0
  | .ramp => 1
  | .ready => 2
  | .fault => 3

/-- Entry to READY (R181, R185). -/
def enterReady (s : State) : State :=
  let t := moveSupply .ready s
  if t.lmc.override = .clear then queueLit (fun _ => true) t else overrideLevels t

/-- LMC's counts at a tick: the time base of the grant history (R182), the ramp count in RAMP (R180) and the release
count in RELEASING with both sources released (R184), each up to the count that ends it; then the scan and the row it
drives (R164, R165). The row slot starts before any change that a count of this tick end brings
(notes/assumptions/36.md). -/
def tickLmc (s : State) : State :=
  let t := { s with lmc := { s.lmc with
      ticks := s.lmc.ticks + 1,
      rampCount := if s.lmc.supply = .ramp then min (s.lmc.rampCount + 1) (s.lmc.rampKept + Config.rampGrace)
                   else s.lmc.rampCount,
      releaseCount := if s.lmc.override = .releasing && !s.lmc.lineSource && !s.lmc.flagSource
                      then min (s.lmc.releaseCount + 1) Config.releaseTicks else s.lmc.releaseCount } }
  driveRow (advanceScan t)

end Sys2Proof.Machine
end

