-- ==== Sys2Proof/Machine/Cache.lean ====
section
/-! DEFINITION. CCC and CMP (09): lookups, requests, pins, victims, the fetch queue, the port arbiter, locks. -/

namespace Sys2Proof.Machine

/-- Cache sectors 0 to 31 in order. -/
def allLines : List LineNo := List.finRange 32

/-- Voices 0 to 7 in order. -/
def allVoices : List VoiceNo := List.finRange 8

/-- A voice's record. -/
def voiceOf (s : State) (v : VoiceNo) : Voice := s.vpl.voices.get v

/-- A voice's record replaced. -/
def setVoice (v : VoiceNo) (x : Voice) (s : State) : State :=
  { s with vpl := { s.vpl with voices := put s.vpl.voices v x } }

/-- A cache sector's record. -/
def lineOf (s : State) (i : LineNo) : Line := s.ccc.lines.get i

/-- A cache sector's record replaced. -/
def setLine (i : LineNo) (x : Line) (s : State) : State :=
  { s with ccc := { s.ccc with lines := put s.ccc.lines i x } }

/-! ## Directory (R146, R147) -/

/-- The sectors a clip covers (R146). -/
def Clip.sectors (c : Clip) : List Nat :=
  (List.range ((c.length + Config.sectorSamples - 1) / Config.sectorSamples)).map (c.first + ·)

/-- A lookup of (family, language): the lowest-indexed entry in use that has both (R147). -/
def lookup (s : State) (family language : Nat) : Option Clip :=
  s.ccc.directory.toList.findSome? fun e =>
    match e with
    | none => none
    | some c => if c.family = family ∧ c.language = language then some c else none

/-! ## Cache sectors (R148, R149) -/

/-- The tag a cache sector holds or is filled with. -/
def Line.tag : Line → Option Nat
  | .invalid => none
  | .filling k => some k
  | .valid k _ => some k

/-- The cache sector is VALID with the tag. -/
def Line.validAs (k : Nat) : Line → Bool
  | .valid t _ => t == k
  | _ => false

/-- The cache sector that is VALID or FILLING with a tag. -/
def lineFor (s : State) (k : Nat) : Option LineNo := allLines.find? fun i => (lineOf s i).tag == some k

/-- The cache sector that is VALID with a tag. -/
def validLine (s : State) (k : Nat) : Option LineNo := allLines.find? fun i => (lineOf s i).validAs k

/-- Tag k is VALID in a cache sector. -/
def isValid (s : State) (k : Nat) : Bool := (validLine s k).isSome

/-- Tag k is VALID or FILLING in a cache sector. -/
def isCached (s : State) (k : Nat) : Bool := (lineFor s k).isSome

/-- The sectors a voice pins: the one it reads, awaits or fades on, and the one requested after it (R128). -/
def pins (x : Voice) : List Nat := x.cur.toList ++ x.next.toList

/-- The number of voices that hold a pin on a tag (R148). -/
def pinCount (s : State) (k : Nat) : Nat := (allVoices.filter fun v => (pins (voiceOf s v)).contains k).length

/-- The sector is in the lock table (R148). -/
def isLocked (s : State) (k : Nat) : Bool := s.ccc.locks.contains k

/-- The cache sector of a tag moves to most recent (R149, R151). -/
def touch (k : Nat) (s : State) : State :=
  match validLine s k with
  | none => s
  | some i => { s with ccc := { s.ccc with lru := s.ccc.lru.filter (· != i) ++ [i] } }

/-- A cache sector becomes INVALID, leaves the LRU order and loses its tag (R149). -/
def dropLine (s : State) (i : LineNo) : State :=
  setLine i .invalid { s with ccc := { s.ccc with lru := s.ccc.lru.filter (· != i) } }

/-- The sample at a place of a VALID sector, low byte first (R145); 0 where the tag is not VALID. -/
def sampleIn (s : State) (k j : Nat) : Int :=
  match validLine s k with
  | none => 0
  | some i =>
    match lineOf s i with
    | .valid _ data => (word (Memory.read data (2 * j + 1)) (Memory.read data (2 * j))).toInt
    | _ => 0

/-! ## Requests (R150, R151) -/

/-- The tag has an entry in the fetch queue. -/
def isQueued (s : State) (k : Nat) : Bool := s.ccc.queue.any fun e => e.sector == k

/-- A voice joins a fetch queue entry; the urgency becomes the higher, the arrival is kept (R150). -/
def mergeEntry (v : VoiceNo) (u : Nat) (e : FetchEntry) : FetchEntry :=
  { e with urgency := max e.urgency u, waiting := if e.waiting.contains v then e.waiting else e.waiting ++ [v] }

/-- A voice's request of sector k at urgency u (R150). The pin is the voice's own `cur` or `next`, which the caller
sets. -/
def request (v : VoiceNo) (k u : Nat) (s : State) : State :=
  if isCached s k then s
  else if isQueued s k then
    { s with ccc := { s.ccc with
        queue := s.ccc.queue.map fun e => if e.sector = k then mergeEntry v u e else e } }
  else { s with ccc := { s.ccc with queue := s.ccc.queue ++ [{ sector := k, urgency := u, waiting := [v] }] } }

/-- A preload of a locked sector: queued at urgency 0 with no waiting voice unless it is cached or already queued
(R156, R161, R163). -/
def preload (s : State) (k : Nat) : State :=
  if isCached s k || isQueued s k then s
  else { s with ccc := { s.ccc with queue := s.ccc.queue ++ [{ sector := k, urgency := 0, waiting := [] }] } }

/-- A voice ceases to wait: it leaves every entry that names it, and an entry left with no voice leaves the queue
unless its sector is locked (R151). -/
def ceaseWait (v : VoiceNo) (s : State) : State :=
  { s with ccc := { s.ccc with
      queue := s.ccc.queue.filterMap fun e =>
        if e.waiting.contains v then
          let rest := e.waiting.filter (· != v)
          if rest.isEmpty && !isLocked s e.sector then none else some { e with waiting := rest }
        else some e } }

/-! ## The port arbiter (R152 to R155) -/

/-- The victim of a fetch: the lowest-numbered INVALID sector, else the least recent VALID sector that is neither
pinned nor locked (R152). -/
def victim (s : State) : Option LineNo :=
  match allLines.find? fun i => lineOf s i == .invalid with
  | some i => some i
  | none => s.ccc.lru.find? fun i =>
      match lineOf s i with
      | .valid k _ => pinCount s k == 0 && !isLocked s k
      | _ => false

/-- Port states (R154). -/
inductive PortState where
  | ready | fetching | erasing | programming | reading
deriving DecidableEq, Repr

/-- The port state: FETCHING while a fetch runs, the kind of a started maintenance operation while one runs, else
READY (R154, R155, R160). -/
def portState (s : State) : PortState :=
  match s.cmp.fetch, s.cmp.maint with
  | some _, _ => .fetching
  | none, some { op := op, stage := stage, ticks := _ } =>
    if stage = .pending then .ready
    else match op with
      | .erase _ => .erasing
      | .program _ _ => .programming
      | .read _ _ => .reading
  | none, none => .ready

/-- A fetch starts with a queue entry's sector into a victim (R155). -/
def startFetch (k : Nat) (i : LineNo) (s : State) : State :=
  { s with
    ccc := { s.ccc with
      lines := put s.ccc.lines i (.filling k),
      lru := s.ccc.lru.filter (· != i),
      queue := s.ccc.queue.filter fun e => e.sector != k },
    cmp := { s.cmp with fetch := some { sector := k, line := i, overBusy := s.dev.busy.isSome } } }

/-- The highest urgency in the fetch queue. -/
def topUrgency (q : List FetchEntry) : Nat := q.foldl (fun u e => max u e.urgency) 0

/-- The oldest entry of the highest urgency (R154, choices 1 and 3). -/
def nextEntry (q : List FetchEntry) : Option FetchEntry := q.find? fun e => e.urgency == topUrgency q

/-- A fetch of the most urgent entry starts if a victim exists (R154). -/
def fetchNext (s : State) : State :=
  match nextEntry s.ccc.queue, victim s with
  | some e, some i => startFetch e.sector i s
  | _, _ => s

/-- A status read has answered ready before the transfer (R160): the operation is sent. The device runs an erase or program;
the bytes of a read come over the port, which stays READING until its end (section 2.11, notes/assumptions/25.md). -/
def transfer (m : Maint) (s : State) : State :=
  { s with cmp := { s.cmp with maint := some { m with stage := .sent } }, dev := s.dev.start m.op }

/-- The pending maintenance operation starts, its tick count 0, and CMP reads the memory's status (R160): over a memory that
runs nothing the transfer begins in this event, over a busy one the operation waits for ready. -/
def startMaint (s : State) : State :=
  match s.cmp.maint with
  | none => s
  | some m =>
    let m0 := { m with stage := .waitReady, ticks := 0 }
    if s.dev.busy.isSome then { s with cmp := { s.cmp with maint := some m0 } } else transfer m0 s

/-- A maintenance operation waits to start. -/
def maintWaits (s : State) : Bool :=
  match s.cmp.maint with
  | some m => m.stage == .pending
  | none => false

/-- The port arbiter: with the port READY it starts an urgency-4 fetch, else the waiting maintenance operation, else
the most urgent fetch (R154). -/
def arbiter (s : State) : State :=
  if portState s ≠ .ready then s
  else if topUrgency s.ccc.queue = 4 && (victim s).isSome then fetchNext s
  else if maintWaits s then startMaint s
  else fetchNext s

/-! ## Locks and flush (R156 to R158) -/

/-- A sector added to the lock table, kept in rising order without repeats. -/
def insertSector (k : Nat) : List Nat → List Nat
  | [] => [k]
  | x :: xs => if k < x then k :: x :: xs else if k = x then x :: xs else x :: insertSector k xs

/-- The lock table with a clip's sectors added (R156). -/
def lockUnion (locks sectors : List Nat) : List Nat := sectors.foldl (fun t k => insertSector k t) locks

/-- CLIP_LOCK's change: the sectors join the table and those not already in it are preloaded (R156), in
sector order (R153). -/
def lockSectors (sectors : List Nat) (s : State) : State :=
  (sectors.filter fun k => !isLocked s k).foldl preload
    { s with ccc := { s.ccc with locks := lockUnion s.ccc.locks sectors } }

/-- CLIP_UNLOCK's change: the sectors leave the table, and their entries with no waiting voice leave the queue
(R157). -/
def unlockSectors (sectors : List Nat) (s : State) : State :=
  { s with ccc := { s.ccc with
      locks := s.ccc.locks.filter fun k => !sectors.contains k,
      queue := s.ccc.queue.filter fun e => !(e.waiting.isEmpty && sectors.contains e.sector && isLocked s e.sector) } }

/-- A cache sector CACHE_FLUSH makes INVALID: VALID, not pinned, not locked (R158). -/
def flushable (s : State) (i : LineNo) : Bool :=
  match lineOf s i with
  | .valid k _ => pinCount s k == 0 && !isLocked s k
  | _ => false

/-- CACHE_FLUSH's change, with the number of sectors made INVALID (R158). -/
def flushCache (s : State) : State × Nat :=
  let is := allLines.filter (flushable s)
  (is.foldl dropLine s, is.length)

end Sys2Proof.Machine
end

