-- ==== Sys2Proof/Machine/Gain.lean ====
section
/-! DEFINITION. Gain: the speed boost (R61), targets (R62, R83), ramps (R64), multipliers and scaling (R69, R70). -/

namespace Sys2Proof.Machine

/-- The multipliers of the twelve steps of an octave of amplitude (R69). -/
def multiplierTable : List Nat :=
  [32768, 30929, 29193, 27554, 26008, 24548, 23170, 21870, 20643, 19484, 18390, 17358]

/-- The multiplier of an applied index (R69): 0 at mute, else the table's value shifted right by whole octaves. -/
def multiplier (g : Nat) : Nat :=
  if Config.mute ≤ g then 0 else (multiplierTable.getD (g % 12) 0) >>> (g / 12)

/-- A path's output: the input scaled with rounding, floor((x × m + 16,384) / 32,768) (R70). -/
def scale (x : Int) (m : Nat) : Int := (x * (m : Int) + 16384) / 32768

/-- One step of a ramp: up to 4 steps toward quiet, 1 toward loud, never past the target (R64). -/
def ramp (g t : Nat) : Nat := if g < t then min t (g + 4) else max t (g - 1)

/-- The boost between two points of the curve, truncated toward zero (R61, third case). -/
def interpolate (a b : CurvePoint) (u : Nat) : Nat :=
  ((a.boost : Int) + Int.tdiv (((b.boost : Int) - a.boost) * ((u : Int) - a.speed)) ((b.speed : Int) - a.speed)).toNat

/-- The boost on the segment that ends at the first point whose speed is not below the speed (R61). -/
def boostFrom (a : CurvePoint) : List CurvePoint → Nat → Nat
  | [], _ => a.boost
  | b :: rest, u => if u ≤ b.speed then interpolate a b u else boostFrom b rest u

/-- The speed boost S of a curve at a speed (R61). -/
def speedBoost (curve : Vector CurvePoint 8) (u : Nat) : Nat :=
  if u ≤ (curve.get 0).speed then (curve.get 0).boost
  else if (curve.get 7).speed ≤ u then (curve.get 7).boost
  else boostFrom (curve.get 0) curve.toList.tail u

/-- A sum of gain steps held between a loudest index and mute: min(121, max(lo, x)) (R62, R83). -/
def holdIndex (lo : Nat) (x : Int) : Nat := min Config.mute (max lo x.toNat)

/-- The commentary target t_c (R62). -/
def commentaryTarget (volume cap boost zoneBoost duck : Nat) : Nat :=
  holdIndex cap (4 * (15 - (volume : Int)) - boost - zoneBoost + duck)

/-- The announcement target t_a (R62). -/
def announcementTarget (volume cap boost zoneBoost trim : Nat) : Nat :=
  holdIndex cap (4 * (15 - (volume : Int)) - boost - zoneBoost + trim)

/-- The program target t_p of a zone (R83). -/
def programTarget (trim boost zoneBoost duck : Nat) : Nat :=
  holdIndex 0 ((trim : Int) - boost - zoneBoost + duck)

/-- The speaker announcement target t_s of a zone (R83). -/
def speakerTarget (trim boost zoneBoost : Nat) : Nat := holdIndex 0 ((trim : Int) - boost - zoneBoost)

/-- Two scaled paths added and saturated (R72, R86). -/
def mixPaths (x : Int) (gx : Nat) (y : Int) (gy : Nat) : Int :=
  saturate (scale x (multiplier gx) + scale y (multiplier gy))

/-- The targets of a seat at a speed boost, from its record, its zone and the announcement trim (R62). -/
def seatTargets (s : State) (boost : Nat) (i : SeatNo) : Nat × Nat :=
  let r := s.scc.seats.get i
  let z := s.zou.zones.get r.zone
  (commentaryTarget r.volume r.cap boost z.boost z.duck,
    announcementTarget r.volume r.cap boost z.boost s.cth.settings.trim)

/-- HMX at a tick (R63): S, then each seat's targets, then one ramp step of each applied index. -/
def tickHmx (s : State) : State :=
  let b := speedBoost s.hmx.curve s.tif.drive.speed
  { s with hmx := { s.hmx with
      boost := b,
      gains := Vector.ofFn fun i =>
        let t := seatTargets s b i
        let g := s.hmx.gains.get i
        { tc := t.1, ta := t.2, gc := ramp g.gc t.1, ga := ramp g.ga t.2 } } }

/-- ZOU's ramp of one zone at a tick (R83). -/
def tickZone (boost : Nat) (z : ZoneRec) : ZoneRec :=
  let tp := programTarget z.trim boost z.boost z.duck
  let ts := speakerTarget z.trim boost z.boost
  { z with tp := tp, ts := ts, gp := ramp z.gp tp, gs := ramp z.gs ts }

/-- ZOU at a tick (R83): S from the curve and the speed as they stand, then each zone's targets and ramps. -/
def tickZou (s : State) : State :=
  { s with zou := { s.zou with
      zones := mapTable (tickZone (speedBoost s.hmx.curve s.tif.drive.speed)) s.zou.zones } }

/-- A plug-in's jump of both applied indexes to their targets, at the S of the last tick (R66); the sample of the period
whose reply completes the plug-in is formed with them (R72). -/
def snapSeat (i : SeatNo) (s : State) : State :=
  let t := seatTargets s s.hmx.boost i
  { s with hmx := { s.hmx with
      gains := put s.hmx.gains i { tc := t.1, ta := t.2, gc := t.1, ga := t.2 },
      formed := adjust s.hmx.formed i fun p => { p with gc := t.1, ga := t.2 } } }

/-- A cap write's lift of applied indexes below the new cap (R67). -/
def liftToCap (i : SeatNo) (cap : Nat) (s : State) : State :=
  { s with hmx := { s.hmx with
      gains := adjust s.hmx.gains i fun g => { g with gc := max g.gc cap, ga := max g.ga cap } } }

end Sys2Proof.Machine
end

