-- ==== Sys2Proof/Machine/Voice.lean ====
section
/-! DEFINITION. VPL (08): resolution, items, rounds, allocation, the seat map, fades, and the period's samples. -/

namespace Sys2Proof.Machine

/-- Seats 0 to 63 in order. -/
def allSeats : List SeatNo := List.finRange 64

/-- Languages 0 to 11 in order. -/
def allLangs : List Lang := List.finRange 12

/-- The rendering record replaced. -/
def setRendering (r : Option RenderRec) (s : State) : State := { s with vpl := { s.vpl with rendering := r } }

/-! ## Resolution (R134) -/

/-- The language a voice renders: its own, or its round's (R134). -/
def voiceLang (x : Voice) (r : RenderRec) : Lang :=
  match x.role with
  | .headset l => l
  | .speaker => r.langs.getD x.round 0

/-- The clip of an item in a language: neutral items by (family, 15); the others by the language, its fallback, then
15 (R134). -/
def resolveItem (s : State) (it : Item) (l : Lang) : Option Clip :=
  if it.neutral then lookup s it.family 15
  else
    match lookup s it.family l.val with
    | some c => some c
    | none =>
      match (s.scc.languages.get l).fallback with
      | none => lookup s it.family 15
      | some f =>
        match lookup s it.family f.val with
        | some c => some c
        | none => lookup s it.family 15

/-! ## Items and rounds (R133, R135, R138) -/

/-- The voice's request of a sector at its owner's priority plus 1 (R135). -/
def requestFor (r : RenderRec) (v : VoiceNo) (k : Nat) (s : State) : State := request v k (r.priority.val + 1) s

/-- A voice whose awaited sector is VALID enters PLAYING and begins to read it (R135, R136). DESIGN CHOICE: R128 and R137 give
the stall count its values within a wait, and after it the count stays as last counted (notes/assumptions/48.md). -/
def enterPlaying (v : VoiceNo) (k : Nat) (s : State) : State :=
  touch k (setVoice v { voiceOf s v with state := .playing } s)

/-- An item started with its resolved clip (R135). -/
def startClip (r : RenderRec) (v : VoiceNo) (c : Clip) (s : State) : State :=
  let t := requestFor r v c.first
    (setVoice v { voiceOf s v with state := .priming, clip := some c, position := 0, cur := some c.first, next := none,
                                   stall := 0 } s)
  if isValid t c.first then enterPlaying v c.first t else t

/-- The speaker progress counts an item its voice has finished (R133). -/
def countItem (v : VoiceNo) (s : State) : State :=
  match s.vpl.rendering with
  | none => s
  | some r =>
    if (voiceOf s v).role = .speaker then
      setRendering (some { r with progress := { r.progress with items := r.progress.items + 1 } }) s
    else s

/-- The speaker progress moves to a round's start (R133). DESIGN CHOICE: a gap count and kept gap length that are over stay as
they stand (notes/assumptions/48.md). -/
def startRound (v : VoiceNo) (n : Nat) (s : State) : State :=
  match s.vpl.rendering with
  | none => s
  | some r =>
    setVoice v { voiceOf s v with round := n, item := 0 }
      (setRendering (some { r with progress := { round := n, items := 0 } }) s)

/-- The voice enters ENDING (R139): fade mask and priority of its owner's rendering record, no next sector, no wait,
its current sector kept. x is 0 for the whole fade unless it was PLAYING. DESIGN CHOICE: the counts of its wait or gap, and
the clip and position of an abandoned item, stay as they stand (notes/assumptions/48.md). -/
def enterEnding (v : VoiceNo) (s : State) : State :=
  let x := voiceOf s v
  ceaseWait v (setVoice v { x with
    state := .ending, next := none, fade := 0, claim := none,
    fadeZones := s.vpl.rendering.map fun r => (r.mask, r.priority),
    fadeSilent := x.state != .playing } s)

/-- A voice finishes and becomes IDLE (R138). Its record then holds the values of R144, which R138 and R139 do not say
(notes/assumptions/41.md). -/
def idleVoice (v : VoiceNo) (s : State) : State := ceaseWait v (setVoice v Reset.voice s)

/-- What a voice does once an item is finished (R138): a further item of the round, GAP or the next round, or its
finish; after a stalled last item it enters ENDING (R137). A soft cut ends it with this item (R141). Answers whether
an item is to be started. -/
def afterItem (stalled : Bool) (v : VoiceNo) (s : State) : State × Bool :=
  match s.vpl.rendering with
  | none => (s, false)
  | some r =>
    let x := voiceOf s v
    let finish := if stalled then enterEnding v s else idleVoice v s
    if r.softCut then (finish, false)
    else if x.item + 1 < r.items.length then (setVoice v { x with item := x.item + 1 } s, true)
    else if x.role = .speaker ∧ x.round + 1 < r.langs.length then
      if s.cth.settings.gap = 0 then (startRound v (x.round + 1) s, true)
      else
        (setVoice v { x with state := .gap, cur := none, next := none, clip := none, position := 0, gap := 0,
                             gapKept := s.cth.settings.gap } s, false)
    else (finish, false)

/-- The voice starts the item it is on: resolved, or skipped for want of a clip, passing over it in the same event
(R134, R135). The first argument bounds the items passed; `itemFuel` is enough. -/
def startItem : Nat → VoiceNo → State → State
  | 0, _, s => s
  | n + 1, v, s =>
    match s.vpl.rendering with
    | none => s
    | some r =>
      let x := voiceOf s v
      match (r.items[x.item]?).bind fun it => resolveItem s it (voiceLang x r) with
      | some c => startClip r v c s
      | none =>
        let a := afterItem false v (countItem v s)
        if a.2 then startItem n v a.1 else a.1

/-- More items than the rendering record has in all its rounds. -/
def itemFuel (s : State) : Nat :=
  match s.vpl.rendering with
  | none => 0
  | some r => (r.items.length + 1) * (r.langs.length + 1)

/-- The voice starts the item it is on, or what follows it where nothing resolves (R134, R138). -/
def startFrom (v : VoiceNo) (s : State) : State := startItem (itemFuel s) v s

/-- An item of a voice is finished: counted, then what remains (R138). -/
def finishItem (stalled : Bool) (v : VoiceNo) (s : State) : State :=
  let a := afterItem stalled v (countItem v s)
  if a.2 then startFrom v a.1 else a.1

/-! ## The end report (R138) -/

/-- The voice plays or waits for the announcement. -/
def busyFor (id : Nat) (x : Voice) : Bool :=
  (x.owner == some id &&
    (x.state == .priming || x.state == .playing || x.state == .starved || x.state == .gap)) ||
  (x.state == .ending && (match x.claim with | some c => c.owner == id | none => false))

/-- When every voice of the current announcement has finished, VPL reports its end, with the played flag; a TALK
announcement has no report (R138). -/
def reportIfDone (s : State) : State :=
  match s.vpl.rendering with
  | none => s
  | some r =>
    if r.talk || allVoices.any (fun v => busyFor r.owner (voiceOf s v)) then s
    else { s with asq := { s.asq with report := some (r.owner, r.played) } }

/-- The previous map is discarded when no voice it names is still ENDING for its announcement (R132). -/
def prunePrev (s : State) : State :=
  match s.vpl.prev with
  | none => s
  | some p =>
    if allSeats.any fun i =>
        match p.map.get i with
        | some (.voice v) => (voiceOf s v).state == .ending && (voiceOf s v).owner == some p.owner
        | _ => false
    then s else { s with vpl := { s.vpl with prev := none } }

/-! ## Allocation and the seat map (R130, R131) -/

/-- A seat that counts (R130): present, enabled, its zone in the mask. -/
def counts (s : State) (mask : ZoneMask) (i : SeatNo) : Bool :=
  let r := s.scc.seats.get i
  r.present && r.enabled && inMask mask r.zone

/-- The seats that count and use a language (R130). -/
def langCount (s : State) (mask : ZoneMask) (l : Lang) : Nat :=
  (allSeats.filter fun i => counts s mask i && (s.scc.seats.get i).lang == l).length

/-- A language placed in an order by number of seats, most first, behind those of equal number (R130). -/
def insertByCount (n : Lang → Nat) (l : Lang) : List Lang → List Lang
  | [] => [l]
  | k :: ks => if n k < n l then l :: k :: ks else k :: insertByCount n l ks

/-- The other languages in their order (R130, step 3). -/
def otherLangs (s : State) (mask : ZoneMask) (primary : Option Lang) : List Lang :=
  (allLangs.filter fun l => some l != primary && decide (0 < langCount s mask l)).foldl
    (fun acc l => insertByCount (langCount s mask) l acc) []

/-- The roles an announcement takes voices for, in order (R130). -/
def wantedRoles (s : State) (a : Announcement) (speaker : Bool) : List Role :=
  (if speaker then [Role.speaker] else []) ++
    (if a.rendering = .speakers then []
     else (a.langs.head?.toList ++ otherLangs s a.mask a.langs.head?).map Role.headset)

/-- The voices in the order they are taken: IDLE, then ENDING, lowest number first (R130). -/
def freeVoices (s : State) : List VoiceNo :=
  allVoices.filter (fun v => (voiceOf s v).state == .idle) ++ allVoices.filter (fun v => (voiceOf s v).state == .ending)

/-- A voice taken (R130): an IDLE one takes its owner and role, one in ENDING a claim. -/
def takeVoice (id round : Nat) (s : State) (p : VoiceNo × Role) : State :=
  let n := if p.2 = .speaker then round else 0
  let x := voiceOf s p.1
  if x.state = .ending then setVoice p.1 { x with claim := some { owner := id, role := p.2, round := n } } s
  else setVoice p.1 { Reset.voice with state := .priming, owner := some id, role := p.2, round := n } s

/-- The voice taken for a role. -/
def voiceFor (taken : List (VoiceNo × Role)) (r : Role) : Option MapEntry :=
  (taken.find? fun p => p.2 == r).map fun p => .voice p.1

/-- The seat map of a start or resume (R131). -/
def seatMap (s : State) (a : Announcement) (taken : List (VoiceNo × Role)) : Vector (Option MapEntry) 64 :=
  Vector.ofFn fun i =>
    let r := s.scc.seats.get i
    if !inMask a.mask r.zone then none
    else if a.source = .talk then some .talk
    else
      let rest : MapEntry :=
        match voiceFor taken .speaker with
        | some e => e
        | none =>
          match a.rendering, a.langs.head? with
          | .speakers, _ => .silent
          | _, none => .silent
          | _, some l => (voiceFor taken (.headset l)).getD .silent
      if a.rendering ≠ .speakers && counts s a.mask i then some ((voiceFor taken (.headset r.lang)).getD rest)
      else some rest

/-- The round a SPEAKER voice starts at, where one is taken (R130, R119): round 0 at a start; at a resume the
interrupted round again, or the next one where its items were all finished. -/
def speakerRound (a : Announcement) (items : Nat) (resumed : Bool) : Option Nat :=
  if a.rendering = .headsets then none
  else if !resumed then some 0
  else if a.resume.items < items then some a.resume.round
  else if a.resume.round + 1 < a.langs.length then some (a.resume.round + 1)
  else none

/-- Every claim is dropped: each is for an announcement no longer current (R130). -/
def dropClaims (s : State) : State :=
  { s with vpl := { s.vpl with voices := mapTable (fun x => { x with claim := none }) s.vpl.voices } }

/-- The start or resume of a TALK announcement: no voices, a seat map of talk entries (R129, R131). -/
def startTalk (a : Announcement) (s : State) : State :=
  let t := dropClaims s
  setRendering (some
    { owner := a.id, priority := a.priority, mask := a.mask, rendering := a.rendering, items := [], langs := a.langs,
      progress := { round := 0, items := 0 }, played := a.played, softCut := false, map := seatMap t a [],
      talk := true }) t

/-- The start or resume of an announcement of a phrase (R130, R131, R140): claims dropped, voices taken, the record
and its seat map made, the IDLE voices taken started, and the end reported where none is busy (R138). All voices are taken
before the first is started (notes/assumptions/34.md). -/
def startVoices (a : Announcement) (items : List Item) (resumed : Bool) (s : State) : State :=
  let t := dropClaims s
  let round := speakerRound a items.length resumed
  let taken := (freeVoices t).zip (wantedRoles t a round.isSome)
  let idle := taken.filter fun p => (voiceOf t p.1).state == .idle
  let rec' : RenderRec :=
    { owner := a.id, priority := a.priority, mask := a.mask, rendering := a.rendering, items := items,
      langs := a.langs,
      progress := match round with | some n => { round := n, items := 0 } | none => a.resume,
      played := a.played, softCut := false, map := seatMap t a taken, talk := false }
  let t2 := setRendering (some rec') (taken.foldl (takeVoice a.id (round.getD 0)) t)
  arbiter (reportIfDone (idle.foldl (fun s p => startFrom p.1 s) t2))

/-! ## Stops, soft cuts (R140, R141) -/

/-- The voice is in a state a stop sends to ENDING (R139). -/
def stoppable (id : Nat) (x : Voice) : Bool :=
  x.owner == some id && (x.state == .priming || x.state == .playing || x.state == .starved || x.state == .gap)

/-- c is preempted or ended by a hard CUT, or TALK leaves (R140): its voices enter ENDING, its claims are dropped,
its map becomes the previous map where it sends a voice to ENDING (R132, notes/assumptions/33.md), its record is
discarded. -/
def stopVoices (s : State) : State :=
  match s.vpl.rendering with
  | none => s
  | some r =>
    let stops := allVoices.filter fun v => stoppable r.owner (voiceOf s v)
    let t := dropClaims (stops.foldl (fun s v => enterEnding v s) s)
    let prev := if stops.isEmpty then t.vpl.prev else some { owner := r.owner, map := r.map }
    arbiter (prunePrev { t with vpl := { t.vpl with prev := prev, rendering := none } })

/-- What VPL hands back of a suspended announcement: its speaker progress and played flag (R140). -/
def handBack (s : State) : Progress × Bool :=
  match s.vpl.rendering with
  | none => ({ round := 0, items := 0 }, false)
  | some r => (r.progress, r.played)

/-- The soft cut at one voice (R141). -/
def softCutVoice (id : Nat) (s : State) (v : VoiceNo) : State :=
  let x := voiceOf s v
  if x.owner = some id && x.state == .gap then idleVoice v s
  else match x.claim with
    | some c => if x.state = .ending ∧ c.owner = id then setVoice v { x with claim := none } s else s
    | none => s

/-- A soft CUT of the current announcement reaches VPL (R141). -/
def softCutVoices (s : State) : State :=
  match s.vpl.rendering with
  | none => s
  | some r => reportIfDone (allVoices.foldl (softCutVoice r.owner) (setRendering (some { r with softCut := true }) s))

/-! ## Expiries -/

/-- GAP_EXPIRY (R133): at the kept gap length the voice starts the next round. -/
def gapExpires (v : VoiceNo) (s : State) : State :=
  let x := voiceOf s v
  if x.state = .gap ∧ x.gapKept ≤ x.gap then
    arbiter (reportIfDone (startFrom v (startRound v (x.round + 1) s)))
  else s

/-- CLIP_STALL (R137): at 2,000 ticks of waiting the item is abandoned, with its notice. -/
def clipStalls (v : VoiceNo) (s : State) : State :=
  let x := voiceOf s v
  if (x.state = .priming ∨ x.state = .starved) ∧ Config.stallLimit ≤ x.stall then
    let t := pushNotice (.clipStall v (match x.clip with | some c => c.family | none => 0)) s
    let t2 := ceaseWait v (setVoice v { x with cur := none, next := none } t)
    arbiter (reportIfDone (finishItem true v t2))
  else s

/-- FADE_END (R139): at the end of the 64th period the voice releases its pin and becomes IDLE, or takes its claim
and starts its first item. -/
def fadeEnds (v : VoiceNo) (s : State) : State :=
  let x := voiceOf s v
  if x.state = .ending ∧ Config.fadePeriods ≤ x.fade then
    let t :=
      match x.claim with
      | none => setVoice v Reset.voice s
      | some c =>
        startFrom v
          (setVoice v { Reset.voice with state := .priming, owner := some c.owner, role := c.role, round := c.round } s)
    arbiter (reportIfDone (prunePrev t))
  else s

/-- VPL's counts at a tick: the stall count in PRIMING and STARVED (R137), the gap count in GAP (R133), each up to
the count that ends it. -/
def tickVoice (x : Voice) : Voice :=
  match x.state with
  | .priming | .starved => { x with stall := min (x.stall + 1) Config.stallLimit }
  | .gap => { x with gap := min (x.gap + 1) x.gapKept }
  | _ => x

/-- VPL at a tick. -/
def tickVoices (s : State) : State := { s with vpl := { s.vpl with voices := mapTable tickVoice s.vpl.voices } }

/-! ## The period's samples (R136, R139) -/

/-- What a voice gives in one period. -/
inductive VoiceOut where
  /-- nothing: the voice is IDLE -/
  | silent
  /-- 0 from PRIMING, STARVED or GAP (R128) -/
  | waiting
  /-- the clip sample given in PLAYING (R136) -/
  | playing (x : Int)
  /-- the fading output (R139) -/
  | fading (x : Int)
deriving DecidableEq, Repr

/-- The played flag is set (R129). -/
def markPlayed (s : State) : State :=
  match s.vpl.rendering with
  | none => s
  | some r => setRendering (some { r with played := true }) s

/-- The sample at the position is given, and the position advances (R136). -/
def giveSample (v : VoiceNo) (k : Nat) (s : State) : State × VoiceOut :=
  let x := voiceOf s v
  (setVoice v { x with position := x.position + 1 } s, .playing (sampleIn s k (x.position % Config.sectorSamples)))

/-- A PLAYING voice's period (R136): it crosses into the next sector where the position needs it, starving where that
sector is not VALID, and gives its sample. What the sample brings is `followSample`. -/
def playPeriod (v : VoiceNo) (s : State) : State × VoiceOut :=
  let x := voiceOf s v
  match x.clip with
  | none => (s, .waiting)
  | some c =>
    let k := c.first + x.position / Config.sectorSamples
    if x.cur = some k then giveSample v k s
    else if isValid s k then
      giveSample v k (touch k (setVoice v { x with cur := some k, next := none } s))
    else (setVoice v { x with state := .starved, cur := some k, next := none, stall := 0 } s, .waiting)

/-- An ENDING voice's period k of 64: trunc(x × (64 − k) / 64), x being 0 where it was not PLAYING, where the clip has
ended and where the position has left the current sector (R139). -/
def fadePeriod (v : VoiceNo) (s : State) : State × VoiceOut :=
  let x := voiceOf s v
  let k := min (x.fade + 1) Config.fadePeriods
  let sounds : Option Nat :=
    match x.clip, x.cur with
    | some c, some i =>
      if !x.fadeSilent && decide (x.position < c.length) && decide (c.first + x.position / Config.sectorSamples = i)
          && isValid s i then some i else none
    | _, _ => none
  match sounds with
  | none => (setVoice v { x with fade := k, fadeSilent := true } s, .fading 0)
  | some i =>
    let y := sampleIn s i (x.position % Config.sectorSamples)
    (setVoice v { x with fade := k, position := x.position + 1 } s,
      .fading (Int.tdiv (y * (64 - (k : Int))) 64))

/-- A voice's period. -/
def voicePeriod (v : VoiceNo) (s : State) : State × VoiceOut :=
  match (voiceOf s v).state with
  | .idle => (s, .silent)
  | .priming | .starved | .gap => (s, .waiting)
  | .playing => playPeriod v s
  | .ending => fadePeriod v s

/-- The voices' periods, in voice number order; the answers are in that order. -/
def voicePeriods : List VoiceNo → State → State × List VoiceOut
  | [], s => (s, [])
  | v :: vs, s =>
    let a := voicePeriod v s
    let b := voicePeriods vs a.1
    (b.1, a.2 :: b.2)

/-- What the voices give in one local frame period, with the sectors they cross into, and then the port arbiter: the
period is one event for it (R154, notes/assumptions/42.md). -/
def playVoices (s : State) : State × List VoiceOut :=
  let r := voicePeriods allVoices s
  (arbiter r.1, r.2)

/-! ## What a sample brings at the end of its period (R136, R138) -/

/-- The clip's last sample has been given: the item is played, its pins are released, and it is finished (R136, R138). -/
def playedOut (v : VoiceNo) (s : State) : State :=
  finishItem false v (ceaseWait v (setVoice v { voiceOf s v with cur := none, next := none } (markPlayed s)))

/-- The sample given was at 1,024 of its sector and the clip has a further one: the voice asks for that and pins it
(R136). -/
def askAhead (r : RenderRec) (v : VoiceNo) (k : Nat) (s : State) : State :=
  requestFor r v k (setVoice v { voiceOf s v with next := some k } s)

/-- What the sample of the period brings to a voice (R136, R138): the end of its item, the request of its next sector, or
nothing. A voice that an invalidation starved first takes it all the same (notes/assumptions/42.md). -/
def takeSample (v : VoiceNo) (s : State) : State :=
  let x := voiceOf s v
  match x.clip, s.vpl.rendering with
  | some c, some r =>
    if x.state ≠ .playing ∧ x.state ≠ .starved then s
    else if c.length ≤ x.position then playedOut v s
    else if x.position % Config.sectorSamples = Config.prefetchAt + 1 ∧ x.next = none ∧
        (x.position / Config.sectorSamples + 1) * Config.sectorSamples < c.length then
      askAhead r v (c.first + x.position / Config.sectorSamples + 1) s
    else s
  | _, _ => s

/-- VPL takes what the period's sample brings to a voice, as an event of its own, which a stop, a soft cut or a write at the
same slot end can come before (R143): a stopped voice takes nothing of it. -/
def followSample (v : VoiceNo) (s : State) : State := arbiter (reportIfDone (prunePrev (takeSample v s)))

/-! ## Reports of CCC (R142, R155) -/

/-- A voice waiting on a tag is told VALID (R135, R136, R155). -/
def tellValid (k : Nat) (s : State) (v : VoiceNo) : State :=
  let x := voiceOf s v
  if (x.state = .priming ∨ x.state = .starved) ∧ x.cur = some k then enterPlaying v k s else s

/-- FETCH_COMPLETE (R155): the sector is VALID and most recent, its voices are told in number order, the port is READY
and the arbiter runs. Where the fetch started over an operation that a reset abandoned or that had ended FAILED, the bytes read
are free values (R160, R163, notes/assumptions/5.md). -/
def fetchCompletes (s : State) : State :=
  match s.cmp.fetch with
  | none => s
  | some f =>
    let data := if f.overBusy then
        Memory.free s.dev.draws (Config.sectorBytes * f.sector) [] 0 Config.sectorBytes
      else Memory.sector s.dev.bytes f.sector
    let t := { s with
      ccc := { s.ccc with
        lines := put s.ccc.lines f.line (.valid f.sector data),
        lru := s.ccc.lru.filter (· != f.line) ++ [f.line] },
      cmp := { s.cmp with fetch := none },
      dev := { s.dev with draws := if f.overBusy then s.dev.draws + 1 else s.dev.draws } }
    arbiter (allVoices.foldl (tellValid f.sector) t)

/-- A voice that pins an invalidated sector (R142): its current or awaited sector, or its next one. The next sector stays
pinned through STARVED, and is asked for again there as in PLAYING (notes/assumptions/35.md). -/
def sectorInvalid (k : Nat) (s : State) (v : VoiceNo) : State :=
  let x := voiceOf s v
  match s.vpl.rendering with
  | none => if x.state = .ending ∧ x.cur = some k then setVoice v { x with fadeSilent := true } s else s
  | some r =>
    if x.cur = some k then
      match x.state with
      | .playing => requestFor r v k (setVoice v { x with state := .starved, stall := 0 } s)
      | .priming | .starved => requestFor r v k s
      | .ending => setVoice v { x with fadeSilent := true } s
      | _ => s
    else if x.next = some k ∧ (x.state = .playing ∨ x.state = .starved) then requestFor r v k s
    else s

/-- A tag invalidated at the end of an erase or program (R161): its VALID cache sector becomes INVALID, the voices
are told, and a locked tag is preloaded again. -/
def invalidateTag (k : Nat) (s : State) : State :=
  match validLine s k with
  | none => s
  | some i =>
    let t := allVoices.foldl (sectorInvalid k) (dropLine s i)
    if isLocked t k then preload t k else t

/-! ## What the seats and zones are given (R132, R84) -/

/-- What a voice gave in the period. -/
def outOf (outs : List VoiceOut) (v : VoiceNo) : VoiceOut := outs.getD v.val .silent

/-- The announcement input of a seat (R132), from the maps and voices at the start of the period and what the voices
gave in it. -/
def announcementInput (s : State) (outs : List VoiceOut) (talk : Sample) (i : SeatNo) : Int :=
  let entry := s.vpl.rendering.bind fun r => r.map.get i
  let old : Int :=
    match s.vpl.prev with
    | none => 0
    | some p =>
      match p.map.get i with
      | some (.voice v) =>
        if (voiceOf s v).owner = some p.owner then
          match outOf outs v with | .fading x => x | _ => 0
        else 0
      | _ => 0
  match entry with
  | some .talk => talk.toInt
  | some (.voice v) => match outOf outs v with | .playing x => x | _ => old
  | _ => old

end Sys2Proof.Machine
end

