-- ==== Sys2Proof/Machine/Announce.lean ====
section
/-! DEFINITION. ASQ (07): requests, placement, the queue, preemption, selection, ends, CUT and talk; and ZOU's
summary and duck targets (R78), which follow the current announcement. -/

namespace Sys2Proof.Machine

/-- ASQ's record replaced. -/
def setAsq (a : Asq) (s : State) : State := { s with asq := a }

/-! ## Duck targets (R78) -/

/-- The summary of an announcement (R78). -/
def summaryOf (a : Announcement) : Summary :=
  { mask := a.mask, priority := a.priority, talk := a.source == .talk }

/-- The duck target of a zone under a summary, from the duck depths (R78). -/
def duckTarget (duck : Vector Nat 4) (sum : Option Summary) (z : Zone) : Nat :=
  match sum with
  | none => 0
  | some m => if inMask m.mask z then duck.get m.priority else 0

/-- ZOU takes a change of the current announcement (R78): the summary stored, every zone's duck target set at once. -/
def duckChange (sum : Option Summary) (s : State) : State :=
  { s with zou := { s.zou with
      zones := Vector.ofFn fun z => { s.zou.zones.get z with duck := duckTarget s.cth.settings.duck sum z },
      summary := sum } }

/-! ## Ids and the stale test (R110, R105) -/

/-- The live announcements: current, stack and queue (R110). -/
def liveAnnouncements (s : State) : List Announcement := s.asq.current.toList ++ s.asq.stack ++ s.asq.queue

/-- An id is held by a live announcement. -/
def isLive (s : State) (id : Nat) : Bool := (liveAnnouncements s).any fun a => a.id == id

/-- The value after an id: 1 to 255 and then 1 again (R110). -/
def idAfter (id : Nat) : Nat := if 255 ≤ id then 1 else id + 1

/-- The first id after the last issued one that no live announcement holds (R110). The first argument bounds the
search; at most 20 are live, so 255 is enough. -/
def findId (s : State) : Nat → Nat → Nat
  | 0, id => id
  | n + 1, id => if isLive s (idAfter id) then findId s n (idAfter id) else idAfter id

/-- The id the next request takes (R110). -/
def nextId (s : State) : Nat := findId s 255 s.asq.lastId

/-- An id and an arrival order issued (R109, R110). -/
def issue (id : Nat) (s : State) : State :=
  setAsq { s.asq with lastId := id, nextArrival := s.asq.nextArrival + 1 } s

/-- The stale test (R105, R114). -/
def isStale (s : State) (a : Announcement) : Bool :=
  match a.stale with
  | none => false
  | some limit => (s.rce.state == .running || s.rce.state == .complete) && decide (limit < s.rce.lastOdo)

/-- An announcement ends with its notice (R124). -/
def endNotice (a : Announcement) (o : AnnOutcome) (s : State) : State := pushNotice (.announceEnd a.id o) s

/-! ## Hand-offs (R125) -/

/-- The items of an announcement's phrase as they stand (R118, R119); none for TALK. -/
def itemsOf (s : State) (a : Announcement) : List Item :=
  match a.source with
  | .phrase p => s.asq.phrases.get p
  | .talk => []

/-- An announcement's rendering starts or resumes at VPL (R130, R140). -/
def startRendering (a : Announcement) (resumed : Bool) (s : State) : State :=
  if a.source = .talk then startTalk a s else startVoices a (itemsOf s a) resumed s

/-- An announcement becomes current, by start or resume: ZOU, VPL and LMC take the change (R125). -/
def makeCurrent (a : Announcement) (resumed : Bool) (s : State) : State :=
  lampAnnounceStart a
    (startRendering a resumed (duckChange (some (summaryOf a)) (setAsq { s.asq with current := some a, softCut := false } s)))

/-! ## The queue (R115) -/

/-- x stands ahead of y: by priority, highest first, and within one priority by arrival, oldest first (R115). -/
def ahead (x y : Announcement) : Bool :=
  decide (y.priority < x.priority) || (x.priority == y.priority && decide (x.arrival < y.arrival))

/-- x inserted at the place the order gives (R115). -/
def insertQueue (x : Announcement) : List Announcement → List Announcement
  | [] => [x]
  | y :: ys => if ahead x y then x :: y :: ys else y :: insertQueue x ys

/-- What the full rule does with a joining announcement (R115): the queue with it, and the announcement displaced,
or none where it is refused. The last entry is the newest of the lowest priority. -/
def joinQueue (x : Announcement) (q : List Announcement) : Option (List Announcement × Option Announcement) :=
  if q.length < Config.queuePlaces then some (insertQueue x q, none)
  else
    match q.getLast? with
    | none => none
    | some y => if y.priority < x.priority then some (insertQueue x q.dropLast, some y) else none

/-- A joining announcement meets the queue: inserted, with a DISPLACED end where one makes room, or ended with the
given outcome (R115, R117). Answers whether it was placed. -/
def enterQueue (x : Announcement) (refusal : AnnOutcome) (s : State) : State × Bool :=
  match joinQueue x s.asq.queue with
  | none => (endNotice x refusal s, false)
  | some (q, displaced) =>
    let t := setAsq { s.asq with queue := q } s
    (match displaced with
      | none => t
      | some y => endNotice y .displaced t, true)

/-! ## Preemption (R116, R117) -/

/-- The current announcement with its resume point and played flag as VPL hands them back (R116, R140). -/
def suspended (s : State) (c : Announcement) : Announcement :=
  let h := handBack s
  { c with resume := if c.rendering = .headsets then { round := 0, items := 0 } else h.1, played := h.2 }

/-- c leaves the current place to a preempting announcement (R116): ended CUT under a soft cut, returned to the queue
if TALK, else pushed. A report of its end not yet taken would find it no longer current (R120) and is dropped. -/
def leaveCurrent (c : Announcement) (s : State) : State :=
  let t := setAsq { s.asq with current := none, softCut := false, report := none } s
  if s.asq.softCut then endNotice c .cut t
  else if c.source = .talk then (enterQueue c .displaced t).1
  else setAsq { t.asq with stack := suspended s c :: t.asq.stack } t

/-- x preempts c, as one change (R116, R125): c's voices stop, c's lamps stop, then x becomes current. -/
def preempt (c x : Announcement) (s : State) : State :=
  makeCurrent x false (lampAnnounceEnd c (stopVoices (leaveCurrent c s)))

/-! ## Placement (R114) -/

/-- A new announcement placed against the current one; answers whether it was placed (made current, queued or ended
STALE) or refused by the full queue (R114, R111). -/
def place (x : Announcement) (s : State) : State × Bool :=
  match s.asq.current with
  | none => if isStale s x then (endNotice x .stale s, true) else (makeCurrent x false s, true)
  | some c =>
    if c.priority < x.priority then
      if isStale s x then (endNotice x .stale s, true) else (preempt c x s, true)
    else enterQueue x .refused s

/-- A new record of a phrase (R109). DESIGN CHOICE: the resume point, which R109 sets at each suspension and nowhere before,
is round 0 and item 0, and the fields that R109 gives TALK announcements only hold nothing of meaning
(notes/assumptions/44.md). -/
def newAnnouncement (s : State) (p : Fin 128) (priority : Fin 4) (mask : ZoneMask) (rendering : Rendering)
    (langs : List Lang) (stale : Option Nat) (origin : Origin) : Announcement :=
  { id := nextId s, source := .phrase p, priority := priority, mask := mask, rendering := rendering,
    langs := if langs.isEmpty then s.cth.settings.speakers else langs, stale := stale, origin := origin,
    arrival := s.asq.nextArrival, resume := { round := 0, items := 0 }, played := false, hang := .pressed }

/-- A request with its id issued is placed (R110, R114). -/
def placeNew (x : Announcement) (s : State) : State × Bool := place x (issue x.id s)

/-- A request of a cue, the chime or the alarm: an empty phrase ends REFUSED, any other is placed (R112). -/
def takeInternal (x : Announcement) (s : State) : State :=
  if (itemsOf s x).isEmpty then endNotice x .refused (issue x.id s) else (placeNew x s).1

/-- An announcement of an origin is live (R112). -/
def originLive (s : State) (o : Origin) : Bool := (liveAnnouncements s).any fun a => a.origin == o

/-- A CHIME request (R112): dropped without a chime phrase or with a CHIME live. -/
def requestChime (s : State) : State :=
  match s.cth.settings.chime with
  | none => s
  | some p =>
    if originLive s .chime then s
    else takeInternal (newAnnouncement s p 0 0xF s.cth.settings.chimeRendering [] none .chime) s

/-- An ALARM request (R112): dropped without an alarm phrase or with an ALARM live. -/
def requestAlarm (s : State) : State :=
  match s.cth.settings.alarm with
  | none => s
  | some p =>
    if originLive s .alarm then s
    else takeInternal (newAnnouncement s p 3 0xF .both [] none .alarm) s

/-- An ANNOUNCE delivery of a cue (R103, R112). -/
def requestCue (index : Nat) (p : Fin 128) (priority : Fin 4) (mask : ZoneMask) (rendering : Rendering)
    (langs : List Lang) (stale : Option Nat) (s : State) : State :=
  takeInternal (newAnnouncement s p priority mask rendering langs stale (.cue index)) s

/-! ## Selection (R118, R119) -/

/-- The next candidate: the stack top or the queue head, the stack top winning on equal priority (R118). Answers it,
whether it resumes, and the stack and queue without it. -/
def candidate (stack queue : List Announcement) :
    Option (Announcement × Bool × List Announcement × List Announcement) :=
  match stack, queue with
  | [], [] => none
  | x :: xs, [] => some (x, true, xs, [])
  | [], y :: ys => some (y, false, [], ys)
  | x :: xs, y :: ys => if x.priority < y.priority then some (y, false, x :: xs, ys) else some (x, true, xs, y :: ys)

/-- A candidate's check (R118): STALE, FAILED for an empty phrase, or none where it passes. -/
def rejects (s : State) (a : Announcement) : Option AnnOutcome :=
  if isStale s a then some .stale
  else if a.source ≠ .talk ∧ (itemsOf s a).isEmpty then some .failed
  else none

/-- Selection of the next current announcement (R118). The first argument bounds the candidates; the number of stacked
and queued announcements is enough. -/
def select : Nat → State → State
  | 0, s => s
  | n + 1, s =>
    match candidate s.asq.stack s.asq.queue with
    | none => s
    | some (a, resumed, stack, queue) =>
      let t := setAsq { s.asq with stack := stack, queue := queue } s
      match rejects t a with
      | some o => select n (endNotice a o t)
      | none => makeCurrent a resumed t

/-- Selection with its bound. -/
def selectNext (s : State) : State := select (s.asq.stack.length + s.asq.queue.length) s

/-! ## Ends and CUT (R120 to R123) -/

/-- The current announcement ends with an outcome and selection follows (R118, R125): two changes, the end with
current none and then the selection. VPL's record is discarded; voices still busy enter ENDING (R140). -/
def endCurrent (c : Announcement) (o : AnnOutcome) (s : State) : State :=
  let t := setAsq { s.asq with current := none, softCut := false, report := none } s
  selectNext (lampAnnounceEnd c (stopVoices (duckChange none (endNotice c o t))))

/-- VOICES_FINISHED (R120): ASQ takes VPL's report; one for an announcement no longer current is ignored. -/
def takeReport (s : State) : State :=
  match s.asq.report with
  | none => s
  | some (id, played) =>
    match s.asq.current with
    | none => setAsq { s.asq with report := none } s
    | some c =>
      if c.id = id ∧ c.source ≠ .talk then
        endCurrent c (if s.asq.softCut then .cut else if played then .completed else .failed) s
      else setAsq { s.asq with report := none } s

/-- CUT of an id (R121, R122); `hard` is mode HARD. -/
def cut (id : Nat) (hard : Bool) (s : State) : State × Result :=
  match takeFirst (fun a => a.id == id) s.asq.queue, takeFirst (fun a => a.id == id) s.asq.stack, s.asq.current with
  | some (a, q), _, _ => (endNotice a .cut (setAsq { s.asq with queue := q } s), .done)
  | none, some (a, st), _ => (endNotice a .cut (setAsq { s.asq with stack := st } s), .done)
  | none, none, none => (s, .notFound)
  | none, none, some c =>
    if c.id ≠ id then (s, .notFound)
    else if c.source = .talk || hard then (endCurrent c .cut s, .done)
    else if s.asq.softCut then (s, .done)
    else (softCutVoices (setAsq { s.asq with softCut := true } s), .done)

/-! ## Talk (R113, R123) -/

/-- The announcement is TALK. -/
def isTalk (a : Announcement) : Bool := a.source == .talk

/-- The TALK announcement that is live, in the current place or in the queue (R113). -/
def talkLive (s : State) : Bool := (liveAnnouncements s).any isTalk

/-- A change of the hang state of the live TALK announcement. -/
def setHang (f : Hang → Hang) (s : State) : State :=
  let g := fun a : Announcement => if isTalk a then { a with hang := f a.hang } else a
  setAsq { s.asq with current := s.asq.current.map g, queue := s.asq.queue.map g } s

/-- A rise of the talk flag (R113): a live TALK becomes PRESSED; with none live one is made and placed, its resume
point as at `newAnnouncement` (notes/assumptions/44.md). -/
def talkRise (s : State) : State :=
  if talkLive s then setHang (fun _ => .pressed) s
  else
    (placeNew
      { id := nextId s, source := .talk, priority := 2, mask := 0xF, rendering := .both,
        langs := s.cth.settings.speakers, stale := none, origin := .talk, arrival := s.asq.nextArrival,
        resume := { round := 0, items := 0 }, played := false, hang := .pressed } s).1

/-- The hang's count at a tick, up to the kept hang time (R123). -/
def tickHang (s : State) : State :=
  setHang (fun h => match h with
    | .pressed => .pressed
    | .released n k => .released (min (n + 1) k) k) s

/-- The hang has reached its kept time. -/
def hangDue (a : Announcement) : Bool :=
  isTalk a && (match a.hang with | .pressed => false | .released n k => decide (k ≤ n))

/-- TALK_HANG_EXPIRY (R123): the current TALK ends COMPLETED and selection follows; a queued one ends LAPSED. -/
def hangExpires (s : State) : State :=
  match s.asq.current with
  | some c =>
    if hangDue c then endCurrent c .completed s
    else match takeFirst hangDue s.asq.queue with
      | none => s
      | some (a, q) => endNotice a .lapsed (setAsq { s.asq with queue := q } s)
  | none =>
    match takeFirst hangDue s.asq.queue with
    | none => s
    | some (a, q) => endNotice a .lapsed (setAsq { s.asq with queue := q } s)

/-- A fall of the talk flag (R123): the hang time is read and kept, the count starts at 0, and a hang time of 0 expires
at once. -/
def talkFall (s : State) : State :=
  hangExpires (setHang (fun h => match h with
    | .pressed => .released 0 s.cth.settings.hang
    | .released n k => .released n k) s)

/-! ## Deck reset (R127) -/

/-- ASQ at a deck reset (R127): current, stack and queue emptied without notices, ids and phrases kept. -/
def deckResetAsq (s : State) : State :=
  duckChange none (setAsq { s.asq with current := none, stack := [], queue := [], softCut := false, report := none } s)

end Sys2Proof.Machine
end

