-- ==== Sys2Proof/Machine/Alarm.lean ====
section
/-! DEFINITION. The deck alarm override (R184, R185) and the supply's expiries (R180). -/

namespace Sys2Proof.Machine

/-- Either source of the override is asserted: the alarm line or the deck alarm flag as LMC has taken it (R184). -/
def sourceAsserted (s : State) : Bool := s.lmc.lineSource || s.lmc.flagSource

/-- The override's state replaced, the release count set to 0. R184 gives that for the entry to RELEASING and drops the count
at the entry to ACTIVE from there. DESIGN CHOICE: on the moves to CLEAR and from CLEAR to ACTIVE R184 gives the count no value,
and the model sets it to 0 (notes/assumptions/47.md). -/
def setOverride (x : Override) (s : State) : State := { s with lmc := { s.lmc with override := x, releaseCount := 0 } }

/-- Entry to ACTIVE from CLEAR (R184, R185): the levels, the ALARM notice, the ALARM request, the start events, and the
forced RAMP of a supply that is OFF, its notice after the ALARM notice. The ANNOUNCE_END of an ALARM request that ends
at once, or displaces another, joins after the ALARM notice and before the SUPPLY_STATE notice; R33 lets it join
elsewhere among them (notes/assumptions/32.md). -/
def overrideStart (s : State) : State :=
  let t := setOverride .active s
  let t2 := if t.lmc.supply = .ready then overrideLevels t else t
  let t3 := lampAlarmStart (requestAlarm (pushNotice (.alarm true) t2))
  if t3.lmc.supply = .off then rampUp t3 else t3

/-- The override meets its sources as they stand after a change (R184). -/
def overrideEvent (s : State) : State :=
  match s.lmc.override with
  | .clear => if sourceAsserted s then overrideStart s else s
  | .active => if sourceAsserted s then s else setOverride .releasing s
  | .releasing => if sourceAsserted s then setOverride .active s else s

/-- The line source takes the sampled level (R184). -/
def alarmLine (low : Bool) (s : State) : State :=
  overrideEvent { s with lmc := { s.lmc with lineSource := low } }

/-- The flag source takes a change of the drive record's deck alarm flag (R11, R184). -/
def alarmFlag (on : Bool) (s : State) : State :=
  overrideEvent { s with lmc := { s.lmc with flagSource := on } }

/-- At CLEAR with the supply READY a safety group shows its own level again: LIT where it is running above level 0,
else DARK (R185). -/
def safetyLevels (s : State) : State :=
  { s with lmc := { s.lmc with
      groups := mapTable (fun x =>
        if x.safety then { x with ign := if x.running && decide (0 < x.level) then .lit else .dark } else x) s.lmc.groups } }

/-- OVERRIDE_CLEAR (R184): at release count 100 with both sources released. -/
def overrideClears (s : State) : State :=
  if s.lmc.override = .releasing ∧ sourceAsserted s = false ∧ Config.releaseTicks ≤ s.lmc.releaseCount then
    let t := lampAlarmEnd (pushNotice (.alarm false) (setOverride .clear s))
    if t.lmc.supply = .ready then queueLit (fun x => !x.safety) (safetyLevels t) else t
  else s

/-- SUPPLY_RAMP_DONE (R180): in RAMP with the count at or above the kept ramp time, good high. -/
def rampDone (s : State) : State :=
  if s.lmc.supply = .ramp ∧ s.lmc.rampKept ≤ s.lmc.rampCount then enterReady s else s

/-- SUPPLY_RAMP_TIMEOUT (R180): in RAMP with the count at the kept ramp time + 500, good low. -/
def rampTimeout (s : State) : State :=
  if s.lmc.supply = .ramp ∧ s.lmc.rampKept + Config.rampGrace ≤ s.lmc.rampCount then leaveSupply .fault s else s

/-- SUPPLY_GOOD_LOST (R180): good low in READY. -/
def goodLost (s : State) : State := if s.lmc.supply = .ready then leaveSupply .fault s else s

end Sys2Proof.Machine
end

