-- ==== Sys2Proof/Machine/Seats.lean ====
section
/-! DEFINITION. SCC (03): box replies, presence, presses, the stop-request latch; and the SEAT record's writes. -/

namespace Sys2Proof.Machine

/-- A seat record replaced. -/
def setSeat (i : SeatNo) (x : Seat) (s : State) : State :=
  { s with scc := { s.scc with seats := put s.scc.seats i x } }

/-- A seat record. -/
def seatOf (s : State) (i : SeatNo) : Seat := s.scc.seats.get i

/-- A box record. -/
def boxOf (s : State) (b : BoxNo) : Box := s.scc.boxes.get b

/-- A box record replaced. -/
def setBox (b : BoxNo) (x : Box) (s : State) : State := { s with scc := { s.scc with boxes := put s.scc.boxes b x } }

/-- The seat on jack A of a box: seat 2b. -/
def seatA (b : BoxNo) : SeatNo := ⟨2 * b.val, by omega⟩

/-- The seat on jack B of a box: seat 2b + 1. -/
def seatB (b : BoxNo) : SeatNo := ⟨2 * b.val + 1, by omega⟩

/-- The languages offered, in order (R41). -/
def offeredLangs (s : State) : List Lang := allLangs.filter fun l => (s.scc.languages.get l).offered

/-! ## Enabled (R40) -/

/-- Enabled written to a seat record: a change to no also sets stop pressed to no (R40). -/
def writeEnabled (e : Bool) (x : Seat) : Seat :=
  { x with enabled := e, stopPressed := if x.enabled && !e then false else x.stopPressed }

/-! ## Presence (R47 to R49) -/

/-- The language a plug-in sets (R48). -/
def plugLang (s : State) (zone : Zone) : Lang :=
  let d := (s.zou.zones.get zone).defLang
  if (s.scc.languages.get d).offered then d else (offeredLangs s).headD d

/-- A plug-in (R48): present, the language and the default volume, and HMX's jump to the targets (R66), which the sample
of the period that has ended takes too (R72). -/
def plugIn (i : SeatNo) (s : State) : State :=
  let x := seatOf s i
  snapSeat i (setSeat i { x with present := true, lang := plugLang s x.zone, volume := x.defVolume } s)

/-- An unplug (R49). -/
def unplug (i : SeatNo) (s : State) : State := setSeat i { seatOf s i with present := false } s

/-- One jack's sense against its last sense and the present field of its seat (R47). -/
def senseJack (i : SeatNo) (last plug : Bool) (s : State) : State :=
  if plug = last then
    if plug && !(seatOf s i).present then plugIn i s
    else if !plug && (seatOf s i).present then unplug i s
    else s
  else s

/-! ## Presses (R50, R51, R54) -/

/-- One advance of a language through the offered ones (R50). -/
def advanceLang (offered : List Lang) (l : Lang) : Lang :=
  match offered.find? fun k => decide (l < k) with
  | some k => k
  | none => offered.headD l

/-- A count of advances. -/
def advanceTimes (offered : List Lang) : Nat → Lang → Lang
  | 0, l => l
  | n + 1, l => advanceTimes offered n (advanceLang offered l)

/-- The volume step after u ups and d downs: v + u − d saturated to 0 to 15 (R51). -/
def pressVolume (v u d : Nat) : Nat := min 15 (v + u - d)

/-- Language and volume presses of a seat, taken when it is enabled and present (R50, R51). -/
def pressSeat (i : SeatNo) (langs ups downs : Nat) (s : State) : State :=
  let x := seatOf s i
  if x.enabled && x.present then
    setSeat i { x with lang := advanceTimes (offeredLangs s) langs x.lang, volume := pressVolume x.volume ups downs } s
  else s

/-- A stop press (R54): taken when the seat is enabled. The first one sets the latch, with its notice, the chime
request and the lamp start event; a later one marks its seat. The STOP_REQUEST notice comes before the ANNOUNCE_END of a
chime request that is refused (notes/assumptions/32.md). -/
def stopPress (i : SeatNo) (s : State) : State :=
  let x := seatOf s i
  if !x.enabled then s
  else
    let t := setSeat i { x with stopPressed := true } s
    match s.scc.latch with
    | some _ => t
    | none =>
      lampStopRequest (requestChime (pushNotice (.stopRequest i) { t with scc := { t.scc with latch := some i } }))

/-- A clear of the latch (R55): with every stop pressed and the lamp end event; a CLEAR latch changes nothing. -/
def clearLatch (s : State) : State :=
  match s.scc.latch with
  | none => s
  | some _ =>
    lampStopEnd { s with scc := { s.scc with
      latch := none, seats := mapTable (fun x => { x with stopPressed := false }) s.scc.seats } }

/-! ## Box replies (R44 to R46) -/

/-- A two-bit field of a word. -/
def field2 (w : Word16) (lo : Nat) : Nat := (w.extractLsb' lo 2).toNat

/-- A reply is good: marker, check word, and the polled box echoed (R44). -/
def goodReply (b : BoxNo) (r : Vector Word16 3) : Bool :=
  hiByte (r.get 0) == 0x3C && r.get 2 == r.get 0 + r.get 1 && (((r.get 0).extractLsb' 0 5).toNat == b.val)

/-- The presses of one jack in a good reply, whose fields start at the given bit of word 1 (R46). -/
def pressJack (i : SeatNo) (w : Word16) (lo : Nat) (s : State) : State :=
  let t := pressSeat i (field2 w lo) (field2 w (lo + 2)) (field2 w (lo + 4)) s
  if w.getLsbD (lo + 6) then stopPress i t else t

/-- A good reply (R45, R46): the box state, then jack A's and jack B's sense, then their presses. -/
def takeGood (b : BoxNo) (r : Vector Word16 3) (s : State) : State :=
  let x := boxOf s b
  let a := (r.get 0).getLsbD 5
  let c := (r.get 0).getLsbD 6
  let s1 := setBox b { online := true, miss := 0, senseA := a, senseB := c } s
  let s2 := if x.online then s1 else pushNotice (.boxState b true) s1
  let s3 := senseJack (seatB b) x.senseB c (senseJack (seatA b) x.senseA a s2)
  pressJack (seatB b) (r.get 1) 8 (pressJack (seatA b) (r.get 1) 0 s3)

/-- A miss of the polled box (R45): the third in a row takes an ONLINE box OFFLINE and unplugs both seats. -/
def takeMiss (b : BoxNo) (s : State) : State :=
  let x := boxOf s b
  if !x.online then s
  else if x.miss + 1 < Config.missLimit then setBox b { x with miss := x.miss + 1 } s
  else
    unplug (seatB b) (unplug (seatA b) (pushNotice (.boxState b false) (setBox b Reset.box s)))

/-- The reply to the poll of the period that has ended is judged (R44); a second one is discarded. -/
def takeReply (reply : Option (Vector Word16 3)) (s : State) : State :=
  match s.scc.awaited with
  | none => s
  | some b =>
    let t := { s with scc := { s.scc with awaited := none } }
    match reply with
    | some r => if goodReply b r then takeGood b r t else takeMiss b t
    | none => takeMiss b t

end Sys2Proof.Machine
end

