-- ==== Sys2Proof/Machine/Route.lean ====
section
/-! DEFINITION. RCE (06): cues, odometer steps, relocation, the route states. -/

namespace Sys2Proof.Machine

/-- RCE's record replaced. -/
def setRce (r : Rce) (s : State) : State := { s with rce := r }

/-- A cue entry, of index below 256. -/
def cueAt (s : State) (i : Nat) : Option Cue := s.rce.cues[i]?

/-- A cue entry's state written. -/
def markCue (i : Nat) (x : CueState) (s : State) : State :=
  match asFin 256 i with
  | none => s
  | some k => setRce { s.rce with cues := adjust s.rce.cues k fun c => { c with state := x } } s

/-- The quiet flag of a set of zones set or cleared (R80). -/
def setQuiet (mask : ZoneMask) (on : Bool) (s : State) : State :=
  { s with zou := { s.zou with
      zones := Vector.ofFn fun z =>
        if inMask mask z then { s.zou.zones.get z with quiet := on } else s.zou.zones.get z } }

/-- The block that owns a cue's action (R102); a MARK is RCE's own notice. -/
def CueAction.owner : CueAction → Option CueOwner
  | .announce _ _ _ _ _ => some .asq
  | .scene _ => some .lmc
  | .quietOn _ | .quietOff _ => some .zou
  | .stopReached => some .scc
  | .mark => none

/-- A delivery joins those that wait for their blocks (R102). -/
def hand (d : Delivery) (s : State) : State := setRce { s.rce with due := s.rce.due ++ [d] } s

/-- A block takes a delivery, as one event of its own (R81, R102, R103). -/
def takeDelivery (d : Delivery) (s : State) : State :=
  match d.action with
  | .announce p pr m rd ls => requestCue d.index p pr m rd ls d.stale s
  | .scene n => applyScene n s
  | .quietOn m => setQuiet m true s
  | .quietOff m => setQuiet m false s
  | .stopReached => clearLatch s
  | .mark => s

/-- A block takes the oldest delivery that waits for it (R102). -/
def takeNext (owner : CueOwner) (s : State) : State :=
  match takeFirst (fun d => d.action.owner == some owner) s.rce.due with
  | none => s
  | some (d, rest) => takeDelivery d (setRce { s.rce with due := rest } s)

/-- The deliveries for the blocks that `waits` does not name are taken, in index order (R102). -/
def takeDue (waits : CueOwner → Bool) (s : State) : State :=
  let held := fun d : Delivery => d.action.owner.any waits
  (s.rce.due.filter fun d => !held d).foldl (fun t d => takeDelivery d t) (setRce { s.rce with due := s.rce.due.filter held } s)

/-- Every delivery that waits is taken, in index order (R102). -/
def settle (s : State) : State := takeDue (fun _ => false) s

/-- A ROUTE_STATE notice of the state and cursor as they stand (R104). -/
def routeNotice (rewind : Bool) (s : State) : State :=
  pushNotice (.routeState s.rce.state s.rce.cursor rewind) s

/-- A change of the route state with its notice (R104). -/
def moveRoute (x : RouteState) (s : State) : State := routeNotice false (setRce { s.rce with state := x } s)

/-- The test of R92: trunk LOCKED, odometer valid, route tag equal to the armed tag. -/
def routeTest (s : State) : Bool :=
  s.tif.trunk == .locked && s.tif.drive.odoValid && s.tif.drive.tag == s.rce.armedTag

/-- A FIRED entry's action delivered to its owner at the moment the entry is handled (R102, R103); `mask` is a quiet entry's
mask, reduced in a relocation (R99). A MARK is its notice. The block takes its delivery as an event of its own after RCE's
(`takeDelivery`), so that an ANNOUNCE_END which ASQ then queues joins after the notices of the whole step; R33 lets it join
among them (notes/assumptions/32.md). -/
def deliver (i : Nat) (c : Cue) (mask : ZoneMask) (s : State) : State :=
  match c.action with
  | .announce _ _ _ _ _ | .scene _ | .stopReached => hand { index := i, action := c.action, stale := c.latest } s
  | .quietOn _ => hand { index := i, action := .quietOn mask, stale := c.latest } s
  | .quietOff _ => hand { index := i, action := .quietOff mask, stale := c.latest } s
  | .mark => pushNotice (.cueMark i) s

/-- The mask of a quiet entry, no zone for other kinds. -/
def quietMask (c : Cue) : ZoneMask :=
  match c.action with
  | .quietOn m => m
  | .quietOff m => m
  | _ => 0

/-- A cue has a zone mask of the quiet kinds. -/
def isQuiet (c : Cue) : Bool :=
  match c.action with
  | .quietOn _ | .quietOff _ => true
  | _ => false

/-- A cue is a SCENE. -/
def isScene (c : Cue) : Bool := match c.action with | .scene _ => true | _ => false

/-- A cue is a STOP_REACHED. -/
def isStop (c : Cue) : Bool := match c.action with | .stopReached => true | _ => false

/-- The end of a step (R94, R96): the last processed odometer becomes N, and the cursor at the count completes the
route. -/
def endStep (n : Nat) (s : State) : State :=
  let t := setRce { s.rce with lastOdo := n } s
  if t.rce.count ≤ t.rce.cursor then moveRoute .complete t else t

/-- A normal step's entries, from the cursor while their triggers are not above N (R97). The first argument bounds the
entries handled. -/
def handleDue (n : Nat) : Nat → State → State
  | 0, s => s
  | k + 1, s =>
    if s.rce.count ≤ s.rce.cursor then s
    else match cueAt s s.rce.cursor with
      | none => s
      | some c =>
        if n < c.trigger then s
        else
          let i := s.rce.cursor
          let missed := match c.latest with | none => false | some l => decide (l < n)
          let t := if missed then markCue i .missed s else deliver i c (quietMask c) (markCue i .fired s)
          handleDue n k (setRce { t.rce with cursor := i + 1 } t)

/-- A normal forward step (R97). -/
def normalStep (n : Nat) (s : State) : State := endStep n (handleDue n (s.rce.count - s.rce.cursor) s)

/-- The relocation set: the run of entries from the cursor whose triggers are not above N (R98). -/
def relocationSet (s : State) (n : Nat) : List (Nat × Cue) :=
  ((List.range (s.rce.count - s.rce.cursor)).filterMap fun j =>
    (cueAt s (s.rce.cursor + j)).map fun c => (s.rce.cursor + j, c)).takeWhile fun e => decide (e.2.trigger ≤ n)

/-- The zones of a quiet entry that no later entry of the set touches (R99). -/
def lastZones (c : Cue) (later : List (Nat × Cue)) : ZoneMask :=
  later.foldl (fun m e => m &&& ~~~(quietMask e.2)) (quietMask c)

/-- An entry of a relocation set is FIRED, given the entries of the set after it (R98, R99). -/
def relocates (o n : Nat) (c : Cue) (later : List (Nat × Cue)) : Bool :=
  match c.action with
  | .announce _ _ _ _ _ =>
    match c.latest with
    | some l => decide (n ≤ l)
    | none => decide (o < c.trigger)
  | .scene _ => !(later.any fun e => isScene e.2)
  | .quietOn _ | .quietOff _ => lastZones c later != 0
  | .stopReached => !(later.any fun e => isStop e.2)
  | .mark => false

/-- The entries of a relocation set marked FIRED or SKIPPED (R98, R99). -/
def markRelocated (o n : Nat) : List (Nat × Cue) → State → State
  | [], s => s
  | (i, c) :: later, s =>
    markRelocated o n later (markCue i (if relocates o n c later then .fired else .skipped) s)

/-- The FIRED entries' actions delivered in index order, each quiet entry with its reduced mask (R100). -/
def deliverRelocated (o n : Nat) : List (Nat × Cue) → State → State
  | [], s => s
  | (i, c) :: later, s =>
    deliverRelocated o n later (if relocates o n c later then deliver i c (lastZones c later) s else s)

/-- The number of entries of a relocation set that become SKIPPED (R100). -/
def skippedCount (o n : Nat) : List (Nat × Cue) → Nat
  | [] => 0
  | (_, c) :: later => (if relocates o n c later then 0 else 1) + skippedCount o n later

/-- A relocation (R98 to R100): the set decided and the cursor moved past it, the deliveries, the notice, the last
processed odometer, and the completion. -/
def relocate (n : Nat) (s : State) : State :=
  let o := s.rce.lastOdo
  let set := relocationSet s n
  let t := markRelocated o n set s
  let t2 := setRce { t.rce with cursor := s.rce.cursor + set.length } t
  let t3 := deliverRelocated o n set t2
  endStep n (pushNotice (.relocation o n (skippedCount o n set)) t3)

/-- A backward step (R101). -/
def backwardStep (n : Nat) (s : State) : State :=
  let t := if s.cth.settings.jump < s.rce.lastOdo - n then routeNotice true s else s
  setRce { t.rce with lastOdo := n } t

/-- One odometer step from the last processed odometer to N (R96): backward, normal or a relocation. -/
def odometerStep (n : Nat) (s : State) : State :=
  if n < s.rce.lastOdo then backwardStep n s
  else if n - s.rce.lastOdo ≤ s.cth.settings.jump then normalStep n s
  else relocate n s

/-- In ARMED with the test passing: RUNNING and a step from 0, also where N is 0 (R92). -/
def tryStart (s : State) : State :=
  if s.rce.state = .armed ∧ routeTest s = true then odometerStep s.tif.drive.odometer (moveRoute .running s) else s

/-- RCE takes one combined change by its route state (R96). -/
def routeChange (s : State) : State :=
  match s.rce.state with
  | .idle => s
  | .armed => tryStart s
  | .running =>
    if routeTest s then
      if s.tif.drive.odometer = s.rce.lastOdo then s else odometerStep s.tif.drive.odometer s
    else moveRoute .held s
  | .held =>
    if routeTest s then
      let t := moveRoute .running s
      if t.tif.drive.odometer = t.rce.lastOdo then t else odometerStep t.tif.drive.odometer t
    else s
  | .complete => if routeTest s then setRce { s.rce with lastOdo := s.tif.drive.odometer } s else s

/-- Triggers do not decrease (R91). -/
def nonDecreasing : List Nat → Bool
  | [] => true
  | [_] => true
  | a :: b :: rest => decide (a ≤ b) && nonDecreasing (b :: rest)

/-- Every entry's state set to PENDING (R91, R107). -/
def allPending (s : State) : State :=
  setRce { s.rce with cues := mapTable (fun c => { c with state := .pending }) s.rce.cues } s

/-- ROUTE_ARM (R91). The deliveries of a step it starts wait for their blocks (R102). -/
def armRoute (count tag : Nat) (s : State) : State × Answer :=
  if s.rce.state ≠ .idle then (s, answer .wrongState)
  else if 256 < count then (s, answer .badValue)
  else if !nonDecreasing ((s.rce.cues.toList.take count).map Cue.trigger) then (s, answer .badValue)
  else
    let t := allPending s
    (tryStart (moveRoute .armed (setRce { t.rce with count := count, armedTag := tag, cursor := 0, lastOdo := 0 } t)),
      answer .done)

/-- ROUTE_DISARM (R95). -/
def disarmRoute (s : State) : State := if s.rce.state = .idle then s else moveRoute .idle s

/-- RCE at a deck reset (R107). -/
def deckResetRce (s : State) : State :=
  let t := allPending s
  let t2 := setRce { t.rce with cursor := 0, lastOdo := 0, state := .idle } t
  if s.rce.state = .idle then t2 else routeNotice false t2

end Sys2Proof.Machine
end

