-- ==== Sys2Proof/Machine/Flags.lean ====
section
/-! DEFINITION. What the chip reports of itself: the codes of its states, its counts and the state record (R32). -/

namespace Sys2Proof.Machine

/-- The code of a trunk state (R32). -/
def TrunkState.code : TrunkState → Byte
  | .seeking => 0
  | .locked => 1
  | .lost => 2

/-- The code of a route state (R32). -/
def RouteState.code : RouteState → Byte
  | .idle => 0
  | .armed => 1
  | .running => 2
  | .held => 3
  | .complete => 4

/-- The code of a reset cause (R32). -/
def ResetCause.code : ResetCause → Byte
  | .power => 0
  | .line => 1
  | .deck => 2

/-- The code of a port state (R32). -/
def PortState.code : PortState → Byte
  | .ready => 0
  | .fetching => 1
  | .erasing => 2
  | .programming => 3
  | .reading => 4

/-- The code of an override state (R32). -/
def Override.code : Override → Byte
  | .clear => 0
  | .active => 1
  | .releasing => 2

/-- The code of an announcement's outcome (R34). -/
def AnnOutcome.code : AnnOutcome → Byte
  | .completed => 0
  | .cut => 1
  | .stale => 2
  | .displaced => 3
  | .refused => 4
  | .lapsed => 5
  | .failed => 6

/-- Voices not IDLE (R32). -/
def busyVoices (s : State) : Nat := (allVoices.filter fun v => (voiceOf s v).state != .idle).length

/-- A cache sector is VALID. -/
def Line.isValid : Line → Bool
  | .valid _ _ => true
  | _ => false

/-- Cache sectors VALID (R32). -/
def validCount (s : State) : Nat := (allLines.filter fun i => (lineOf s i).isValid).length

/-- The bit of one box in its byte of the online mask (R32). -/
def onlineBit (s : State) (b j : Nat) : Nat :=
  match asFin 32 b with
  | some k => if (boxOf s k).online then 2 ^ j else 0
  | none => 0

/-- A byte of the box online mask: boxes 8k to 8k + 7, the lowest in bit 0 (R32). -/
def onlineByte (s : State) (k : Nat) : Byte :=
  byte ((List.range 8).foldl (fun n j => n + onlineBit s (8 * k + j) j) 0)

/-- The 25 bytes of the state record (R32). -/
def stateRecord (s : State) : List Byte :=
  [0x28, 1, byte s.tif.node.toNat, s.cth.cause.code, s.tif.trunk.code, s.rce.state.code] ++
    bytes16 s.rce.cursor ++ bytes16 s.rce.lastOdo ++
    (match s.asq.current with | none => [0, 0xFF] | some a => [byte a.id, byte a.priority.val]) ++
    [byte s.asq.queue.length, byte s.asq.stack.length, byte (busyVoices s), byte (validCount s),
      byte s.ccc.locks.length, (portState s).code, s.lmc.supply.code, s.lmc.override.code,
      yesByte s.scc.latch.isSome, onlineByte s 3, onlineByte s 2, onlineByte s 1, onlineByte s 0]

/-! ## Lines derived from the state -/

/-- The lamp supply enable line (R180), removed in warm-up (R188). -/
def enableLine (s : State) : Bool := s.power.running && (s.lmc.supply == .ramp || s.lmc.supply == .ready)

/-- The clip memory port's select line is driven for an operation (R154), inactive in warm-up (R163). -/
def selectLine (s : State) : Bool := s.power.running && portState s != .ready

end Sys2Proof.Machine
end

