-- ==== Sys2Proof/Machine/Operands.lean ====
section
/-! DEFINITION. The operand forms of requests: record fields decoded with their clamps and refusals, and encoded for a
reading (R27 and the record tables of the owning chapters). A decoder answers none where BAD_VALUE is the result. -/

namespace Sys2Proof.Machine

/-! ## Field types (R27) -/

/-- A number clamped to a range. -/
def clamp (lo hi n : Nat) : Nat := max lo (min hi n)

/-- A set of zones: a bit above zone 3 is refused. -/
def decodeMask (b : Byte) : Option ZoneMask := if b.toNat < 16 then some (BitVec.ofNat 4 b.toNat) else none

/-- A set of zones as a byte. -/
def maskByte (m : ZoneMask) : Byte := byte m.toNat

/-- A rendering code 0 to 2. -/
def decodeRendering (b : Byte) : Option Rendering :=
  match b.toNat with
  | 0 => some .speakers
  | 1 => some .headsets
  | 2 => some .both
  | _ => none

/-- A rendering's code. -/
def Rendering.code : Rendering → Byte
  | .speakers => 0
  | .headsets => 1
  | .both => 2

/-- A pattern mode code 0 to 4 (R167). -/
def decodeMode (b : Byte) : Option Mode :=
  match b.toNat with
  | 0 => some .off
  | 1 => some .steady
  | 2 => some .blink
  | 3 => some .pulses
  | 4 => some .fade
  | _ => none

/-- A mode's code. -/
def Mode.code : Mode → Byte
  | .off => 0
  | .steady => 1
  | .blink => 2
  | .pulses => 3
  | .fade => 4

/-- A selection with none: absent, or a present index below a bound, refused at or above it. -/
def decodeOpt (n : Nat) (present value : Byte) : Option (Option (Fin n)) :=
  if yes present then (asFin n value.toNat).map some else some none

/-- A selection as a presence byte and a value, 0 when none. -/
def optBytes {n : Nat} (x : Option (Fin n)) : List Byte :=
  match x with
  | none => [0, 0]
  | some k => [1, byte k.val]

/-- The listed languages of a list of up to 4: each below 12, positions beyond the count ignored. -/
def decodeLangs (count : Nat) (bs : List Byte) : Option (List Lang) :=
  (bs.take count).mapM fun b => asFin 12 b.toNat

/-- A list of up to 4 languages as its count and 4 positions. -/
def langBytes (ls : List Lang) : List Byte :=
  byte ls.length :: ((ls.map fun l => byte l.val) ++ List.replicate (4 - ls.length) 0)

/-- A length or count of 1 to 255: 0 is written as 1 (R167, R175). -/
def atLeast1 (b : Byte) : Nat := if b.toNat = 0 then 1 else b.toNat

/-! ## Records -/

/-- The writable fields of a seat record (R38, R39). -/
structure SeatWrite where
  zone : Zone
  enabled : Bool
  lang : Lang
  volume : Nat
  defVolume : Nat
  cap : Nat
deriving DecidableEq, Repr

/-- A seat record (R38). -/
def decodeSeat : List Byte → Option SeatWrite
  | [z, e, _, l, v, d, c, _] =>
    match asFin 4 z.toNat, asFin 12 l.toNat with
    | some zone, some lang =>
      some { zone := zone, enabled := yes e, lang := lang, volume := min 15 v.toNat, defVolume := min 15 d.toNat,
             cap := min 24 c.toNat }
    | _, _ => none
  | _ => none

/-- A seat record as read (R38). -/
def seatBytes (x : Seat) : List Byte :=
  [byte x.zone.val, yesByte x.enabled, yesByte x.present, byte x.lang.val, byte x.volume, byte x.defVolume,
    byte x.cap, yesByte x.stopPressed]

/-- The writable fields of a zone record (R76). -/
structure ZoneWrite where
  channel : Fin 4
  boost : Nat
  defLang : Lang
  trim : Nat
  program : Option Lang
deriving DecidableEq, Repr

/-- A zone record (R76). -/
def decodeZone : List Byte → Option ZoneWrite
  | [c, b, l, t, p, v, _, _] =>
    match asFin 4 c.toNat, asFin 12 l.toNat, decodeOpt 12 p v with
    | some ch, some lang, some prog =>
      some { channel := ch, boost := min 12 b.toNat, defLang := lang, trim := min 60 t.toNat, program := prog }
    | _, _, _ => none
  | _ => none

/-- A zone record as read (R76). -/
def zoneBytes (z : ZoneRec) : List Byte :=
  [byte z.channel.val, byte z.boost, byte z.defLang.val, byte z.trim] ++ optBytes z.program ++
    [yesByte z.quiet, byte z.duck]

/-- A language record of the given index; a fallback equal to the index is stored as none (R41). -/
def decodeLanguage (own : Lang) : List Byte → Option Language
  | [o, p, f, _] =>
    match decodeOpt 12 p f with
    | some fb => some { offered := yes o, fallback := if fb = some own then none else fb }
    | none => none
  | _ => none

/-- A language record as read, with its live flag (R41, R42). -/
def languageBytes (x : Language) (live : Bool) : List Byte :=
  yesByte x.offered :: (optBytes x.fallback ++ [yesByte live])

/-- The points of a curve of speed and boost byte pairs, boosts clamped to 24 (R60). -/
def decodePoints : List Byte → List CurvePoint
  | s :: b :: rest => { speed := s.toNat, boost := min 24 b.toNat } :: decodePoints rest
  | _ => []

/-- Speeds do not decrease (R60). -/
def risingSpeeds : List CurvePoint → Bool
  | a :: b :: rest => decide (a.speed ≤ b.speed) && risingSpeeds (b :: rest)
  | _ => true

/-- The noise curve record (R60). -/
def decodeCurve (bs : List Byte) : Option (Vector CurvePoint 8) :=
  let ps := decodePoints (bs.take 16)
  if bs.length = 17 && risingSpeeds ps then
    some (Vector.ofFn fun i => ps.getD i.val { speed := 0, boost := 0 })
  else none

/-- The noise curve record as read, with the current boost (R60). -/
def curveBytes (c : Vector CurvePoint 8) (boost : Nat) : List Byte :=
  (c.toList.flatMap fun p => [byte p.speed, byte p.boost]) ++ [byte boost]

/-- The action of a cue from its kind and parameter bytes; the fields a kind does not use are not checked (R90). -/
def decodeCueAction (kind phrase prio mask rend cnt : Byte) (langs : List Byte) (scene : Byte) : Option CueAction :=
  match kind.toNat with
  | 0 =>
    if 4 < cnt.toNat then none
    else
      match asFin 128 phrase.toNat, asFin 4 prio.toNat, decodeMask mask, decodeRendering rend,
          decodeLangs cnt.toNat langs with
      | some p, some pr, some m, some r, some ls => some (.announce p pr m r ls)
      | _, _, _, _, _ => none
  | 1 => (asFin 16 scene.toNat).map .scene
  | 2 => (decodeMask mask).map .quietOn
  | 3 => (decodeMask mask).map .quietOff
  | 4 => some .stopReached
  | 5 => some .mark
  | _ => none

/-- A cue entry (R89, R90); its state becomes PENDING. -/
def decodeCue : List Byte → Option Cue
  | [t1, t0, lp, l1, l0, kind, phrase, prio, mask, rend, cnt, a, b, c, d, scene, _] =>
    let trigger := be16 t1 t0
    if yes lp && decide (be16 l1 l0 < trigger) then none
    else
      match decodeCueAction kind phrase prio mask rend cnt [a, b, c, d] scene with
      | some act =>
        some { trigger := trigger, latest := if yes lp then some (be16 l1 l0) else none, action := act, state := .pending }
      | none => none
  | _ => none

/-- A cue state's code (R89). -/
def CueState.code : CueState → Byte
  | .pending => 0
  | .fired => 1
  | .missed => 2
  | .skipped => 3

/-- The kind and parameters of a cue as read, 0 in every unused field (R90). -/
def cueActionBytes : CueAction → List Byte
  | .announce p pr m r ls =>
    [0, byte p.val, byte pr.val, maskByte m, r.code] ++ langBytes ls ++ [0]
  | .scene n => [1, 0, 0, 0, 0, 0, 0, 0, 0, 0, byte n.val]
  | .quietOn m => [2, 0, 0, maskByte m, 0, 0, 0, 0, 0, 0, 0]
  | .quietOff m => [3, 0, 0, maskByte m, 0, 0, 0, 0, 0, 0, 0]
  | .stopReached => [4, 0, 0, 0, 0, 0, 0, 0, 0, 0, 0]
  | .mark => [5, 0, 0, 0, 0, 0, 0, 0, 0, 0, 0]

/-- A cue entry as read (R89, R90). -/
def cueBytes (c : Cue) : List Byte :=
  bytes16 c.trigger ++ (match c.latest with | none => [0, 0, 0] | some l => 1 :: bytes16 l) ++
    cueActionBytes c.action ++ [c.state.code]

/-- The items of a phrase, each family at most 1,023 (R108). -/
def decodeItems : Nat → List Byte → Option (List Item)
  | 0, _ => some []
  | n + 1, h :: l :: f :: rest =>
    if 1023 < be16 h l then none
    else (decodeItems n rest).map ({ family := be16 h l, neutral := yes f } :: ·)
  | _ + 1, _ => none

/-- A phrase record (R108). -/
def decodePhrase : List Byte → Option (List Item)
  | cnt :: items => if 8 < cnt.toNat then none else decodeItems cnt.toNat items
  | [] => none

/-- A phrase record as read (R108). -/
def phraseBytes (is : List Item) : List Byte :=
  byte is.length :: ((is.flatMap fun i => bytes16 i.family ++ [yesByte i.neutral]) ++
    List.replicate (3 * (8 - is.length)) 0)

/-- A clip directory record (R146); family unused is always accepted. -/
def decodeClip : List Byte → Option (Option Clip)
  | [p, f1, f0, l, s1, s0, n2, n1, n0] =>
    let c : Clip := { family := be16 f1 f0, language := l.toNat, first := be16 s1 s0, length := be24 n2 n1 n0 }
    if !yes p then some none
    else if c.family ≤ 1023 ∧ (c.language ≤ 11 ∨ c.language = 15) ∧ c.first ≤ 4095 ∧ 1 ≤ c.length ∧
        c.length ≤ 524288 ∧ c.first + (c.length + 2047) / 2048 - 1 ≤ 4095 then some (some c)
    else none
  | _ => none

/-- A clip directory record as read (R146). -/
def clipBytesOf : Option Clip → List Byte
  | none => List.replicate 9 0
  | some c => 1 :: (bytes16 c.family ++ [byte c.language] ++ bytes16 c.first ++ bytes24 c.length)

/-- The seven pattern fields (R175): mode refused above 4, levels clamped to 63, 0 written as 1 in the rest. -/
def decodePattern (m on off onLen offLen pulses fade : Byte) : Option Pattern :=
  (decodeMode m).map fun mode =>
    { mode := mode, levelOn := min 63 on.toNat, levelOff := min 63 off.toNat, onLen := atLeast1 onLen,
      offLen := atLeast1 offLen, pulseCount := atLeast1 pulses, fadeStep := atLeast1 fade }

/-- A preset record (R175). -/
def decodePreset : List Byte → Option Pattern
  | [m, on, off, a, b, p, f] => decodePattern m on off a b p f
  | _ => none

/-- A preset record as read (R175). -/
def patternBytes (p : Pattern) : List Byte :=
  [p.mode.code, byte p.levelOn, byte p.levelOff, byte p.onLen, byte p.offLen, byte p.pulseCount, byte p.fadeStep]

/-- A start source with the parameters kept for it; those of other sources are not checked (R167). -/
def decodeSource (src mask threshold chain : Byte) : Option StartSource :=
  match src.toNat with
  | 0 => some .none
  | 1 => some .stopRequest
  | 2 =>
    match decodeMask mask, asFin 4 threshold.toNat with
    | some m, some t => some (.announce m t)
    | _, _ => Option.none
  | 3 => some .alarm
  | 4 => (asFin 24 chain.toNat).map .chain
  | _ => Option.none

/-- The configuration fields of a lamp group (R167). -/
structure GroupWrite where
  pat : Pattern
  pending : Option (Nat × Nat)
  source : StartSource
  follow : Bool
  hold : Bool
  safety : Bool
deriving DecidableEq, Repr

/-- A lamp group's configuration record (R167). -/
def decodeGroup : List Byte → Option GroupWrite
  | [m, on, off, a, b, pp, pa, pb, pulses, fade, src, mask, thr, chain, fo, ho, sa] =>
    match decodePattern m on off a b pulses fade, decodeSource src mask thr chain with
    | some pat, some source =>
      some { pat := pat, pending := if yes pp then some (atLeast1 pa, atLeast1 pb) else none, source := source,
             follow := yes fo, hold := yes ho, safety := yes sa }
    | _, _ => none
  | _ => none

/-- A start source with its parameters as read, 0 where it has none (R167). -/
def sourceBytes : StartSource → List Byte
  | .none => [0, 0, 0, 0]
  | .stopRequest => [1, 0, 0, 0]
  | .announce m t => [2, maskByte m, byte t.val, 0]
  | .alarm => [3, 0, 0, 0]
  | .chain g => [4, 0, 0, byte g.val]

/-- An ignition state's code (R167). -/
def Ignition.code : Ignition → Byte
  | .dark => 0
  | .waiting => 1
  | .lit => 2

/-- A lamp group as read: 17 configuration bytes and 7 dynamic bytes (R167). -/
def groupBytes (x : Group) : List Byte :=
  [x.pat.mode.code, byte x.pat.levelOn, byte x.pat.levelOff, byte x.pat.onLen, byte x.pat.offLen] ++
    (match x.pending with | none => [0, 0, 0] | some (a, b) => [1, byte a, byte b]) ++
    [byte x.pat.pulseCount, byte x.pat.fadeStep] ++ sourceBytes x.source ++
    [yesByte x.follow, yesByte x.hold, yesByte x.safety,
      yesByte x.running, yesByte (!x.phaseOn), yesByte x.begun, byte x.framesLeft, byte x.pulsesLeft, byte x.level,
      x.ign.code]

/-- A scene's setting byte (R176). -/
def decodeSetting (b : Byte) : Option SceneSetting :=
  match b.toNat with
  | 0 => some .leave
  | 1 => some .stop
  | n + 2 => (asFin 32 n).map .load

/-- A scene's setting as read (R176). -/
def settingByte : SceneSetting → Byte
  | .leave => 0
  | .stop => 1
  | .load p => byte (p.val + 2)

/-- A scene record (R176). -/
def decodeScene (bs : List Byte) : Option (Vector SceneSetting 24) :=
  if bs.length ≠ 24 then none
  else (bs.mapM decodeSetting).map fun l => Vector.ofFn fun i => l.getD i.val .leave

/-- The settings record (R31): scan rows other than 4, 6, 8, phrases above 127, a rendering above 2 and a bad speaker
list are refused, the rest clamped. -/
def decodeSettings : List Byte → Option Settings
  | [t, d0, d1, d2, d3, h1, h0, g1, g0, j1, j0, r1, r0, rows, cp, cv, cr, ap, av, n, a, b, c, d] =>
    if rows.toNat ≠ 4 ∧ rows.toNat ≠ 6 ∧ rows.toNat ≠ 8 then none
    else if n.toNat < 1 ∨ 4 < n.toNat then none
    else
      match decodeOpt 128 cp cv, decodeRendering cr, decodeOpt 128 ap av, decodeLangs n.toNat [a, b, c, d] with
      | some chime, some rend, some alarm, some langs =>
        some { trim := min 24 t.toNat,
               duck := #v[min 121 d0.toNat, min 121 d1.toNat, min 121 d2.toNat, min 121 d3.toNat],
               hang := min 1000 (be16 h1 h0), gap := min 2000 (be16 g1 g0), jump := clamp 10 1000 (be16 j1 j0),
               ramp := clamp 16 1000 (be16 r1 r0), rows := rows.toNat, chime := chime, chimeRendering := rend,
               alarm := alarm, speakers := langs }
      | _, _, _, _ => none
  | _ => none

/-- The settings record as read (R31). -/
def settingsBytes (x : Settings) : List Byte :=
  [byte x.trim] ++ (x.duck.toList.map byte) ++ bytes16 x.hang ++ bytes16 x.gap ++ bytes16 x.jump ++ bytes16 x.ramp ++
    [byte x.rows] ++ optBytes x.chime ++ [x.chimeRendering.code] ++ optBytes x.alarm ++ langBytes x.speakers

/-! ## Action parameters -/

/-- The parameters of ANNOUNCE (R111). -/
structure AnnounceParams where
  phrase : Fin 128
  priority : Fin 4
  mask : ZoneMask
  rendering : Rendering
  langs : List Lang
  stale : Option Nat
deriving DecidableEq, Repr

/-- ANNOUNCE's 12 parameter bytes (R111). -/
def decodeAnnounce : List Byte → Option AnnounceParams
  | [p, pr, m, r, n, a, b, c, d, sp, s1, s0] =>
    if 4 < n.toNat then none
    else
      match asFin 128 p.toNat, asFin 4 pr.toNat, decodeMask m, decodeRendering r, decodeLangs n.toNat [a, b, c, d] with
      | some phrase, some prio, some mask, some rend, some langs =>
        some { phrase := phrase, priority := prio, mask := mask, rendering := rend, langs := langs,
               stale := if yes sp then some (be16 s1 s0) else none }
      | _, _, _, _, _ => none
  | _ => none

/-- The parameters of SEAT (R53). -/
structure SeatParams where
  seat : SeatNo
  lang : Option Lang
  volume : Option Nat
  enabled : Option Bool
deriving DecidableEq, Repr

/-- SEAT's 7 parameter bytes (R53). -/
def decodeSeatParams : List Byte → Option SeatParams
  | [i, lp, l, vp, v, ep, e] =>
    match asFin 64 i.toNat, decodeOpt 12 lp l with
    | some seat, some lang =>
      some { seat := seat, lang := lang, volume := if yes vp then some (min 15 v.toNat) else none,
             enabled := if yes ep then some (yes e) else none }
    | _, _ => none
  | _ => none

/-- A clip's family and language as CLIP_LOCK and CLIP_UNLOCK check them (R156). -/
def clipName (family : Nat) (language : Byte) : Option (Nat × Nat) :=
  if family ≤ 1023 ∧ (language.toNat ≤ 11 ∨ language.toNat = 15) then some (family, language.toNat) else none

end Sys2Proof.Machine
end

