-- ==== Sys2Proof/Machine/Tables.lean ====
section
/-! DEFINITION. The twelve tables of ENTRY_WRITE and ENTRY_READ (section 2.3, R28, R29) with each owner's write. -/

namespace Sys2Proof.Machine

/-- The tables by id (section 2.3). -/
inductive Table where
  | seat | zone | language | curve | cue | phrase | clip | cell | group | preset | scene | settings
deriving DecidableEq, Repr

/-- The table of an id 1 to 12. -/
def Table.ofId (b : Byte) : Option Table :=
  match b.toNat with
  | 1 => some .seat
  | 2 => some .zone
  | 3 => some .language
  | 4 => some .curve
  | 5 => some .cue
  | 6 => some .phrase
  | 7 => some .clip
  | 8 => some .cell
  | 9 => some .group
  | 10 => some .preset
  | 11 => some .scene
  | 12 => some .settings
  | _ => none

/-- Entries of a table (section 2.3). -/
def Table.entries : Table → Nat
  | .seat => 64
  | .zone => 4
  | .language => 12
  | .curve => 1
  | .cue => 256
  | .phrase => 128
  | .clip => 512
  | .cell => 192
  | .group => 24
  | .preset => 32
  | .scene => 16
  | .settings => 1

/-- Bytes of a written record: R38, R76, R41, R60, R89, R108, R146, R166, R167, R175, R176, R31. -/
def Table.size : Table → Nat
  | .seat => 8
  | .zone => 8
  | .language => 4
  | .curve => 17
  | .cue => 17
  | .phrase => 25
  | .clip => 9
  | .cell => 2
  | .group => 17
  | .preset => 7
  | .scene => 24
  | .settings => 24

/-! ## Owners' writes -/

/-- A seat record written (R39, R40), with HMX's lift to the cap (R67). -/
def storeSeat (i : SeatNo) (w : SeatWrite) (s : State) : State :=
  let x := seatOf s i
  liftToCap i w.cap (setSeat i (writeEnabled w.enabled
    { x with zone := w.zone, lang := w.lang, volume := w.volume, defVolume := w.defVolume, cap := w.cap }) s)

/-- A zone record written: the five writable fields (R76). -/
def storeZone (z : Zone) (w : ZoneWrite) (s : State) : State :=
  { s with zou := { s.zou with
      zones := adjust s.zou.zones z fun x =>
        { x with channel := w.channel, boost := w.boost, defLang := w.defLang, trim := w.trim,
                 program := w.program } } }

/-- A language record written (R41). -/
def storeLanguage (l : Lang) (x : Language) (s : State) : State :=
  { s with scc := { s.scc with languages := put s.scc.languages l x } }

/-- The noise curve written (R60). -/
def storeCurve (c : Vector CurvePoint 8) (s : State) : State := { s with hmx := { s.hmx with curve := c } }

/-- A cue entry written (R90). -/
def storeCue (i : Fin 256) (c : Cue) (s : State) : State := setRce { s.rce with cues := put s.rce.cues i c } s

/-- A phrase written (R108). -/
def storePhrase (p : Fin 128) (is : List Item) (s : State) : State :=
  setAsq { s.asq with phrases := put s.asq.phrases p is } s

/-- A clip directory entry written (R146). -/
def storeClip (i : Fin 512) (c : Option Clip) (s : State) : State :=
  { s with ccc := { s.ccc with directory := put s.ccc.directory i c } }

/-- A cell map entry written (R166). -/
def storeCell (i : Fin 192) (g : Option GroupNo) (s : State) : State :=
  { s with lmc := { s.lmc with cells := put s.lmc.cells i g } }

/-- While the override stands over a READY supply a changed safety flag sets what the group shows, and its ignition
state with it (R181, R185; notes/assumptions/15.md). `before` is the flag before the write. -/
def overrideSafety (g : GroupNo) (before : Bool) (s : State) : State :=
  if s.lmc.supply = .ready ∧ s.lmc.override ≠ .clear ∧ (groupOf s g).safety ≠ before then
    setGroup g { groupOf s g with ign := if (groupOf s g).safety then .lit else .dark } s
  else s

/-- A lamp group's configuration written (R167, R168): the fields, what a changed safety flag shows, what a changed mode
brings, and the pending pair (R173), absent where the write leaves it out. -/
def storeGroup (g : GroupNo) (w : GroupWrite) (s : State) : State :=
  let x := groupOf s g
  let t := modeEffect g x.pat.mode (overrideSafety g x.safety
    (setGroup g { x with pat := w.pat, pending := none, source := w.source, follow := w.follow, hold := w.hold,
                         safety := w.safety } s))
  match w.pending with
  | none => t
  | some (a, b) => writePending g a b t

/-- A preset written (R175). -/
def storePreset (p : Fin 32) (x : Pattern) (s : State) : State :=
  { s with lmc := { s.lmc with presets := put s.lmc.presets p x } }

/-- A scene written (R176). -/
def storeScene (n : Fin 16) (x : Vector SceneSetting 24) (s : State) : State :=
  { s with lmc := { s.lmc with scenes := put s.lmc.scenes n x } }

/-- The settings record written (R31). -/
def storeSettings (x : Settings) (s : State) : State := { s with cth := { s.cth with settings := x } }

/-- A record stored where its index and its fields decode: DONE, else BAD_VALUE with nothing changed (R28). -/
def storeIf {ι α : Type} (i : Option ι) (w : Option α) (store : ι → α → State → State) (s : State) :
    State × Answer :=
  match i, w with
  | some i, some w => (store i w s, answer .done)
  | _, _ => (s, answer .badValue)

/-- A language record decoded for its own index (R41). -/
def decodeLanguageAt (index : Nat) (r : List Byte) : Option Language := (asFin 12 index).bind fun l => decodeLanguage l r

/-- The cell map record: presence and group (R166). -/
def decodeCell : List Byte → Option (Option GroupNo)
  | [p, g] => decodeOpt 24 p g
  | _ => none

/-- A record of the right length written at its owner: the owner's state, then its fields (R28, last two checks). -/
def Table.write (t : Table) (i : Nat) (r : List Byte) (s : State) : State × Answer :=
  match t with
  | .seat => storeIf (asFin 64 i) (decodeSeat r) storeSeat s
  | .zone => storeIf (asFin 4 i) (decodeZone r) storeZone s
  | .language => storeIf (asFin 12 i) (decodeLanguageAt i r) storeLanguage s
  | .curve => storeIf (some ()) (decodeCurve r) (fun _ => storeCurve) s
  | .cue =>
    if s.rce.state ≠ .idle then (s, answer .wrongState) else storeIf (asFin 256 i) (decodeCue r) storeCue s
  | .phrase => storeIf (asFin 128 i) (decodePhrase r) storePhrase s
  | .clip => storeIf (asFin 512 i) (decodeClip r) storeClip s
  | .cell => storeIf (asFin 192 i) (decodeCell r) storeCell s
  | .group => storeIf (asFin 24 i) (decodeGroup r) storeGroup s
  | .preset => storeIf (asFin 32 i) (decodePreset r) storePreset s
  | .scene => storeIf (asFin 16 i) (decodeScene r) storeScene s
  | .settings => storeIf (some ()) (decodeSettings r) (fun _ => storeSettings) s

/-- ENTRY_WRITE (R28): table id, index, length, then the owner. -/
def entryWriteOp (table : Byte) (index : Nat) (record : List Byte) (s : State) : State × Answer :=
  match Table.ofId table with
  | none => (s, answer .badTable)
  | some t =>
    if t.entries ≤ index then (s, answer .badIndex)
    else if record.length ≠ t.size then (s, answer .badValue)
    else t.write index record s

/-! ## Readings -/

/-- The bytes of an indexed entry, none beyond the table. -/
def entryBytes {n : Nat} (i : Nat) (f : Fin n → List Byte) : List Byte :=
  match asFin n i with
  | some k => f k
  | none => []

/-- A record as it stands (R27, R29). -/
def Table.read (t : Table) (i : Nat) (s : State) : List Byte :=
  match t with
  | .seat => entryBytes i fun k => seatBytes (seatOf s k)
  | .zone => entryBytes i fun k => zoneBytes (s.zou.zones.get k)
  | .language => entryBytes i fun k => languageBytes (s.scc.languages.get k) (s.tif.live.getLsbD k.val)
  | .curve => curveBytes s.hmx.curve s.hmx.boost
  | .cue => entryBytes i fun k => cueBytes (s.rce.cues.get k)
  | .phrase => entryBytes i fun k => phraseBytes (s.asq.phrases.get k)
  | .clip => entryBytes i fun k => clipBytesOf (s.ccc.directory.get k)
  | .cell => entryBytes i fun k => optBytes (s.lmc.cells.get k)
  | .group => entryBytes i fun k => groupBytes (groupOf s k)
  | .preset => entryBytes i fun k => patternBytes (s.lmc.presets.get k)
  | .scene => entryBytes i fun k => (s.lmc.scenes.get k).toList.map settingByte
  | .settings => settingsBytes s.cth.settings

/-- ENTRY_READ (R29): DONE, the table id, the index and the record. -/
def entryReadOp (table : Byte) (index : Nat) (s : State) : State × Answer :=
  match Table.ofId table with
  | none => (s, answer .badTable)
  | some t =>
    if t.entries ≤ index then (s, answer .badIndex)
    else (s, answerWith .done (table :: (bytes16 index ++ t.read index s)))

end Sys2Proof.Machine
end

