-- ==== Sys2Proof/Machine/Actions.lean ====
section
/-! DEFINITION. The actions (R30) as their owners take them: each answers the state and the reply. -/

namespace Sys2Proof.Machine

/-- A change with a plain DONE. -/
def doneWith (t : State) : State × Answer := (t, answer .done)

/-- ANNOUNCE (R111): the parameters checked, an id issued, the announcement placed; DONE or FULL with the id. -/
def announceOp (params : List Byte) (s : State) : State × Answer :=
  match decodeAnnounce params with
  | none => (s, answer .badValue)
  | some p =>
    if (s.asq.phrases.get p.phrase).isEmpty then (s, answer .badValue)
    else
      let x := newAnnouncement s p.phrase p.priority p.mask p.rendering p.langs p.stale .command
      let r := placeNew x s
      (r.1, answerWith (if r.2 then .done else .full) [byte x.id])

/-- CUT with its mode decided (R121, R122). -/
def cutOp (id : Byte) (hard : Bool) (s : State) : State × Answer :=
  let r := cut id.toNat hard s
  (r.1, answer r.2)

/-- SCENE (R176). -/
def sceneOp (n : Byte) (s : State) : State × Answer :=
  match asFin 16 n.toNat with
  | none => (s, answer .badValue)
  | some k => doneWith (applyScene k s)

/-- A GROUP operation on a group 0 to 23 (R177). -/
def onGroup (group : Byte) (f : GroupNo → State × Answer) (s : State) : State × Answer :=
  match asFin 24 group.toNat with
  | none => (s, answer .badValue)
  | some g => f g

/-- Start after load (R177). -/
def startAfter (start : Byte) (g : GroupNo) (s : State) : State := if yes start then startGroup g s else s

/-- GROUP PRESET (R175, R177). -/
def groupPresetOp (group preset start : Byte) (s : State) : State × Answer :=
  onGroup group (fun g =>
    match asFin 32 preset.toNat with
    | none => (s, answer .badValue)
    | some p => doneWith (startAfter start g (loadPreset g p s))) s

/-- GROUP FIELDS (R168, R177). -/
def groupFieldsOp (group mode levelOn levelOff onLen offLen pulses fadeStep start : Byte) (s : State) :
    State × Answer :=
  onGroup group (fun g =>
    match decodePattern mode levelOn levelOff onLen offLen pulses fadeStep with
    | none => (s, answer .badValue)
    | some p => doneWith (startAfter start g (writePattern g p s))) s

/-- GROUP START (R169, R177). -/
def groupStartOp (group : Byte) (s : State) : State × Answer := onGroup group (fun g => doneWith (startGroup g s)) s

/-- GROUP STOP (R169, R177). -/
def groupStopOp (group : Byte) (s : State) : State × Answer := onGroup group (fun g => doneWith (stopGroup g s)) s

/-- GROUP PENDING (R173, R177). -/
def groupPendingOp (group onLen offLen : Byte) (s : State) : State × Answer :=
  onGroup group (fun g => doneWith (writePending g (atLeast1 onLen) (atLeast1 offLen) s)) s

/-- GROUP HOLD (R177). -/
def groupHoldOp (group hold : Byte) (s : State) : State × Answer :=
  onGroup group (fun g => doneWith (setGroup g { groupOf s g with hold := yes hold } s)) s

/-- A GROUP action's 12 parameter bytes by its operation (R177). -/
def groupOp (params : List Byte) (s : State) : State × Answer :=
  match params with
  | [g, op, preset, mode, on, off, onLen, offLen, pulses, fade, start, hold] =>
    match op.toNat with
    | 0 => groupPresetOp g preset start s
    | 1 => groupFieldsOp g mode on off onLen offLen pulses fade start s
    | 2 => groupStartOp g s
    | 3 => groupStopOp g s
    | 4 => groupPendingOp g onLen offLen s
    | 5 => groupHoldOp g hold s
    | _ => (s, answer .badValue)
  | _ => (s, answer .badValue)

/-- The reply of a SUPPLY action: DONE and the supply state after it (R180). -/
def supplyAnswer (t : State) : State × Answer := (t, answerWith .done [t.lmc.supply.code])

/-- SUPPLY on (R180). -/
def supplyOnAction (s : State) : State × Answer := supplyAnswer (supplyOnOp s)

/-- SUPPLY off (R180, R184). -/
def supplyOffAction (s : State) : State × Answer := supplyAnswer (supplyOffOp s)

/-- ROUTE_ARM (R91). -/
def routeArmOp (count : Nat) (tag : Byte) (s : State) : State × Answer := armRoute count tag.toNat s

/-- ROUTE_DISARM (R95). -/
def routeDisarmOp (s : State) : State × Answer := doneWith (disarmRoute s)

/-- STOP_CLEAR (R55). -/
def stopClearOp (s : State) : State × Answer := doneWith (clearLatch s)

/-- The present parameters of SEAT in a seat record (R53, R40). -/
def applySeatParams (p : SeatParams) (x : Seat) : Seat :=
  let y := { x with lang := p.lang.getD x.lang, volume := p.volume.getD x.volume }
  match p.enabled with
  | none => y
  | some e => writeEnabled e y

/-- SEAT (R53). -/
def seatOp (params : List Byte) (s : State) : State × Answer :=
  match decodeSeatParams params with
  | none => (s, answer .badValue)
  | some p => doneWith (setSeat p.seat (applySeatParams p (seatOf s p.seat)) s)

/-- QUIET (R80). -/
def quietOp (zones on : Byte) (s : State) : State × Answer :=
  match decodeMask zones with
  | none => (s, answer .badValue)
  | some m => doneWith (setQuiet m (yes on) s)

/-- DONE with the number of sectors in the lock table (R156, R157). -/
def lockAnswer (t : State) : State × Answer := (t, answerWith .done [byte t.ccc.locks.length])

/-- The clip of a family and language, in range and found, or the result that refuses it (R156). -/
def findClip (family : Nat) (language : Byte) (s : State) : Except Result Clip :=
  match clipName family language with
  | none => .error .badValue
  | some (f, l) =>
    match lookup s f l with
    | none => .error .notFound
    | some c => .ok c

/-- CLIP_LOCK (R156), with the arbiter at its end (R154). -/
def clipLockOp (family : Nat) (language : Byte) (s : State) : State × Answer :=
  match findClip family language s with
  | .error r => (s, answer r)
  | .ok c =>
    if Config.lockLimit < (lockUnion s.ccc.locks c.sectors).length then (s, answer .full)
    else lockAnswer (arbiter (lockSectors c.sectors s))

/-- CLIP_UNLOCK (R157), with the arbiter at its end (R154). -/
def clipUnlockOp (present : Byte) (family : Nat) (language : Byte) (s : State) : State × Answer :=
  if !yes present then lockAnswer (arbiter (unlockSectors s.ccc.locks s))
  else
    match findClip family language s with
    | .error r => (s, answer r)
    | .ok c => lockAnswer (arbiter (unlockSectors c.sectors s))

/-- CACHE_FLUSH (R158), with the arbiter at its end (R154). -/
def cacheFlushOp (s : State) : State × Answer :=
  let r := flushCache s
  (arbiter r.1, answerWith .done [byte r.2])

/-- The action codes of R30. -/
def actionCodes : List Nat := [0x01, 0x02, 0x10, 0x11, 0x12, 0x20, 0x21, 0x30, 0x31, 0x40, 0x50, 0x51, 0x52]

/-- A code the action table does not name (R30). -/
def unknownCode (code : Byte) : Bool := !actionCodes.contains code.toNat

/-- An ACTION of an unknown code (R30). -/
def unknownActionOp (_code : Byte) (s : State) : State × Answer := (s, answer .badValue)

/-! ## An action by its code and parameter bytes; a wrong count of parameters is BAD_VALUE (R30) -/

/-- Parameters of the wrong number (R30). -/
def badParams (s : State) : State × Answer := (s, answer .badValue)

/-- An action without parameters (R30). -/
def bareAction (f : State → State × Answer) (params : List Byte) (s : State) : State × Answer :=
  if params.isEmpty then f s else badParams s

/-- CUT: id and mode, SOFT 0 or HARD 1 (R121, R122). -/
def cutAction (params : List Byte) (s : State) : State × Answer :=
  match params with
  | [id, mode] => if mode = 0 then cutOp id false s else if mode = 1 then cutOp id true s else badParams s
  | _ => badParams s

/-- SCENE: the scene (R176). -/
def sceneAction (params : List Byte) (s : State) : State × Answer :=
  match params with
  | [n] => sceneOp n s
  | _ => badParams s

/-- SUPPLY: on or off (R180). -/
def supplyAction (params : List Byte) (s : State) : State × Answer :=
  match params with
  | [on] => if yes on then supplyOnAction s else supplyOffAction s
  | _ => badParams s

/-- ROUTE_ARM: count and tag (R91). -/
def routeArmAction (params : List Byte) (s : State) : State × Answer :=
  match params with
  | [c1, c0, tag] => routeArmOp (be16 c1 c0) tag s
  | _ => badParams s

/-- QUIET: zones and on (R80). -/
def quietAction (params : List Byte) (s : State) : State × Answer :=
  match params with
  | [zones, on] => quietOp zones on s
  | _ => badParams s

/-- CLIP_LOCK: family and language (R156). -/
def clipLockAction (params : List Byte) (s : State) : State × Answer :=
  match params with
  | [f1, f0, l] => clipLockOp (be16 f1 f0) l s
  | _ => badParams s

/-- CLIP_UNLOCK: clip present, family and language (R157). -/
def clipUnlockAction (params : List Byte) (s : State) : State × Answer :=
  match params with
  | [p, f1, f0, l] => clipUnlockOp p (be16 f1 f0) l s
  | _ => badParams s

/-- The owner of an action by its code; an unknown code is BAD_VALUE (R30). -/
def actionOp (code : Byte) (params : List Byte) (s : State) : State × Answer :=
  match code.toNat with
  | 0x01 => announceOp params s
  | 0x02 => cutAction params s
  | 0x10 => sceneAction params s
  | 0x11 => groupOp params s
  | 0x12 => supplyAction params s
  | 0x20 => routeArmAction params s
  | 0x21 => bareAction routeDisarmOp params s
  | 0x30 => bareAction stopClearOp params s
  | 0x31 => seatOp params s
  | 0x40 => quietAction params s
  | 0x50 => clipLockAction params s
  | 0x51 => clipUnlockAction params s
  | 0x52 => bareAction cacheFlushOp params s
  | _ => unknownActionOp code s

end Sys2Proof.Machine
end

