-- ==== Sys2Proof/Machine/ActionCommands.lean ====
section
/-! DEFINITION. The actions (R30) as commands: each is the arrival of an ACTION's check byte at CTH, addressed or by
broadcast (R23). -/

namespace Sys2Proof.Machine

/-- An ACTION taken at CTH (R23, R30). -/
def takeAction (bc : Bool) (act : State → State × Answer) (s : State) : Host.Outcome State Fault Refusal :=
  whenLocked (takeRequest bc replyAction act) s

/-- ANNOUNCE (R111). -/
def execAnnounce (bc : Bool) (params : List Byte) (s : State) : Host.Outcome State Fault Refusal :=
  takeAction bc (announceOp params) s

/-- CUT_SOFT (R122). -/
def execCutSoft (bc : Bool) (id : Byte) (s : State) : Host.Outcome State Fault Refusal :=
  takeAction bc (cutOp id false) s

/-- CUT_HARD (R121). -/
def execCutHard (bc : Bool) (id : Byte) (s : State) : Host.Outcome State Fault Refusal :=
  takeAction bc (cutOp id true) s

/-- SCENE (R176). -/
def execScene (bc : Bool) (scene : Byte) (s : State) : Host.Outcome State Fault Refusal :=
  takeAction bc (sceneOp scene) s

/-- GROUP_PRESET (R175, R177). -/
def execGroupPreset (bc : Bool) (group preset start : Byte) (s : State) : Host.Outcome State Fault Refusal :=
  takeAction bc (groupPresetOp group preset start) s

/-- GROUP_FIELDS (R168, R177). -/
def execGroupFields (bc : Bool) (group mode levelOn levelOff onLen offLen pulses fadeStep start : Byte) (s : State) :
    Host.Outcome State Fault Refusal :=
  takeAction bc (groupFieldsOp group mode levelOn levelOff onLen offLen pulses fadeStep start) s

/-- GROUP_START (R169, R177). -/
def execGroupStart (bc : Bool) (group : Byte) (s : State) : Host.Outcome State Fault Refusal :=
  takeAction bc (groupStartOp group) s

/-- GROUP_STOP (R169, R177). -/
def execGroupStop (bc : Bool) (group : Byte) (s : State) : Host.Outcome State Fault Refusal :=
  takeAction bc (groupStopOp group) s

/-- GROUP_PENDING (R173, R177). -/
def execGroupPending (bc : Bool) (group onLen offLen : Byte) (s : State) : Host.Outcome State Fault Refusal :=
  takeAction bc (groupPendingOp group onLen offLen) s

/-- GROUP_HOLD (R177). -/
def execGroupHold (bc : Bool) (group hold : Byte) (s : State) : Host.Outcome State Fault Refusal :=
  takeAction bc (groupHoldOp group hold) s

/-- SUPPLY_ON (R180). -/
def execSupplyOn (bc : Bool) (s : State) : Host.Outcome State Fault Refusal := takeAction bc supplyOnAction s

/-- SUPPLY_OFF (R180, R184). -/
def execSupplyOff (bc : Bool) (s : State) : Host.Outcome State Fault Refusal := takeAction bc supplyOffAction s

/-- ROUTE_ARM (R91). What the step of a route that starts at once delivers is then taken (R92, R102). -/
def execRouteArm (bc : Bool) (count : Word16) (tag : Byte) (s : State) : Host.Outcome State Fault Refusal :=
  whenLocked (fun s => settle (takeRequest bc replyAction (routeArmOp count.toNat tag) s)) s

/-- ROUTE_DISARM (R95). -/
def execRouteDisarm (bc : Bool) (s : State) : Host.Outcome State Fault Refusal := takeAction bc routeDisarmOp s

/-- STOP_CLEAR (R55). -/
def execStopClear (bc : Bool) (s : State) : Host.Outcome State Fault Refusal := takeAction bc stopClearOp s

/-- SEAT (R53). -/
def execSeat (bc : Bool) (params : List Byte) (s : State) : Host.Outcome State Fault Refusal :=
  takeAction bc (seatOp params) s

/-- QUIET (R80). -/
def execQuiet (bc : Bool) (zones on : Byte) (s : State) : Host.Outcome State Fault Refusal :=
  takeAction bc (quietOp zones on) s

/-- CLIP_LOCK (R156). -/
def execClipLock (bc : Bool) (family : Word16) (language : Byte) (s : State) : Host.Outcome State Fault Refusal :=
  takeAction bc (clipLockOp family.toNat language) s

/-- CLIP_UNLOCK (R157). -/
def execClipUnlock (bc : Bool) (present : Byte) (family : Word16) (language : Byte) (s : State) :
    Host.Outcome State Fault Refusal :=
  takeAction bc (clipUnlockOp present family.toNat language) s

/-- CACHE_FLUSH (R158). -/
def execCacheFlush (bc : Bool) (s : State) : Host.Outcome State Fault Refusal := takeAction bc cacheFlushOp s

end Sys2Proof.Machine
end

