-- ==== Sys2Proof/Machine/Maintenance.lean ====
section
/-! DEFINITION. CMP's maintenance operations (R159 to R161): requests, the memory's ready indication, the timeout. -/

namespace Sys2Proof.Machine

/-- The sector an erase or program touches; a read has none (R159). -/
def MaintOp.tag : MaintOp → Option Nat
  | .erase k => some k
  | .program a _ => some (a / Config.sectorBytes)
  | .read _ _ => none

/-- A checked request: BUSY with an operation pending or in progress, else accepted, its reply deferred, and the
arbiter runs (R159). -/
def acceptMaint (op : MaintOp) (s : State) : State × Answer :=
  if s.cmp.maint.isSome then (s, answer .busy)
  else (arbiter { s with cmp := { s.cmp with maint := some { op := op, stage := .pending, ticks := 0 } } }, .deferred)

/-- CLIP_ERASE (R159). -/
def clipEraseOp (sector : Nat) (s : State) : State × Answer :=
  if Config.sectors ≤ sector then (s, answer .badValue) else acceptMaint (.erase sector) s

/-- CLIP_PROGRAM (R24, R159): 1 to 48 bytes within one page of 256. -/
def clipProgramOp (addr : Nat) (data : List Byte) (s : State) : State × Answer :=
  if data.length < 1 ∨ 48 < data.length ∨ 256 < addr % 256 + data.length then (s, answer .badValue)
  else acceptMaint (.program addr data) s

/-- CLIP_READ (R159): 1 to 48 bytes within clip memory. -/
def clipReadOp (addr count : Nat) (s : State) : State × Answer :=
  if count = 0 ∨ 48 < count ∨ Config.clipBytes < addr + count then (s, answer .badValue)
  else acceptMaint (.read addr count) s

/-- A maintenance operation ends with an outcome (R160): it is none, the outcome goes to CTH, an erase or program
invalidates its tag (R161), and the arbiter runs. -/
def endMaint (op : MaintOp) (payload : List Byte) (s : State) : State :=
  let t := deferredReply payload { s with cmp := { s.cmp with maint := none } }
  arbiter (match op.tag with
    | some k => invalidateTag k t
    | none => t)

/-- The device reports ready: what it was running has completed (R145). -/
def finishDevice (s : State) : State := { s with dev := s.dev.finish }

/-- The outcome of an operation that ends DONE: a read's has the bytes as clip memory holds them (R160, R26). -/
def MaintOp.outcome (d : Device) : MaintOp → List Byte
  | .read a n => Result.done.code :: Memory.bytes d.bytes a n
  | .erase _ | .program _ _ => [Result.done.code]

/-- MEMORY_READY (R160): the operation in the port moves to its transfer, or ends DONE: an erase or program that was sent has
completed, and the bytes of a read have come (notes/assumptions/25.md). With no operation started, an operation that a reset
abandoned (R163) or the chip gave up (R160) completes inside the memory. -/
def memoryReady (s : State) : State :=
  let t := finishDevice s
  match t.cmp.maint with
  | none => t
  | some m =>
    match m.stage with
    | .pending => t
    | .waitReady => transfer m t
    | .sent => endMaint m.op (m.op.outcome t.dev) t

/-- MAINTENANCE_TIMEOUT (R160): a started operation whose tick count has reached 3,000 ends FAILED; where it had been
sent, what the memory makes of it is the memory's own. -/
def maintenanceTimesOut (s : State) : State :=
  match s.cmp.maint with
  | none => s
  | some m =>
    if m.stage = .pending ∨ m.ticks < Config.maintenanceLimit then s
    else endMaint m.op [Result.failed.code] (if m.stage = .sent then { s with dev := s.dev.giveUp } else s)

/-- A started maintenance operation's tick count rises, up to the count that ends it (R160). -/
def tickCmp (s : State) : State :=
  match s.cmp.maint with
  | none => s
  | some m =>
    if m.stage = .pending then s
    else { s with cmp := { s.cmp with
        maint := some { m with ticks := min (m.ticks + 1) Config.maintenanceLimit } } }

/-- CCC and CMP at a deck reset (R163): the queue emptied, each locked sector not cached preloaded in sector
order (R153), a maintenance operation not started dropped. The pins are VPL's, released with its voices. -/
def deckResetCache (s : State) : State :=
  let t := { s with
    ccc := { s.ccc with queue := [] },
    cmp := { s.cmp with maint := if maintWaits s then none else s.cmp.maint } }
  arbiter (t.ccc.locks.foldl preload t)

end Sys2Proof.Machine
end

