-- ==== Sys2Proof/Machine/EventCommands.lean ====
section
/-! DEFINITION. The commands of the seat chain, of expiries, of the clip memory port and of the lamps. -/

namespace Sys2Proof.Machine

/-- BOX_REPLY (R44). -/
def execBoxReply (reply : Option (Vector Word16 3)) (s : State) : Host.Outcome State Fault Refusal :=
  whenRunning (takeReply reply) s

/-- TALK_HANG_EXPIRY (R123). -/
def execTalkHangExpiry (s : State) : Host.Outcome State Fault Refusal := whenRunning hangExpires s

/-- VOICES_FINISHED (R120). -/
def execVoicesFinished (s : State) : Host.Outcome State Fault Refusal := whenRunning takeReport s

/-- GAP_EXPIRY (R133). -/
def execGapExpiry (voice : VoiceNo) (s : State) : Host.Outcome State Fault Refusal := whenRunning (gapExpires voice) s

/-- CLIP_STALL (R137). -/
def execClipStall (voice : VoiceNo) (s : State) : Host.Outcome State Fault Refusal := whenRunning (clipStalls voice) s

/-- FADE_END (R139). -/
def execFadeEnd (voice : VoiceNo) (s : State) : Host.Outcome State Fault Refusal := whenRunning (fadeEnds voice) s

/-- FETCH_COMPLETE (R155). -/
def execFetchComplete (s : State) : Host.Outcome State Fault Refusal := whenRunning fetchCompletes s

/-- MEMORY_READY (R160). In warm-up no port operation stands, and the device alone completes what it runs (R163). -/
def execMemoryReady (s : State) : Host.Outcome State Fault Refusal :=
  .next (if s.power.running then memoryReady s else finishDevice s)

/-- MAINTENANCE_TIMEOUT (R160). -/
def execMaintenanceTimeout (s : State) : Host.Outcome State Fault Refusal := whenRunning maintenanceTimesOut s

/-- SCAN_FRAME_BOUNDARY (R170). -/
def execScanFrameBoundary (s : State) : Host.Outcome State Fault Refusal := whenRunning boundary s

/-- SUPPLY_RAMP_DONE (R180). -/
def execSupplyRampDone (s : State) : Host.Outcome State Fault Refusal := whenRunning rampDone s

/-- SUPPLY_RAMP_TIMEOUT (R180). -/
def execSupplyRampTimeout (s : State) : Host.Outcome State Fault Refusal := whenRunning rampTimeout s

/-- SUPPLY_GOOD_LOST (R180). -/
def execSupplyGoodLost (s : State) : Host.Outcome State Fault Refusal := whenRunning goodLost s

/-- DECK_ALARM_INPUT (R184). -/
def execDeckAlarmInput (low : Bool) (s : State) : Host.Outcome State Fault Refusal := whenRunning (alarmLine low) s

/-- OVERRIDE_CLEAR (R184). -/
def execOverrideClear (s : State) : Host.Outcome State Fault Refusal := whenRunning overrideClears s

end Sys2Proof.Machine
end

