-- ==== Sys2Proof/Machine/Control.lean ====
section
/-! DEFINITION. CTH (02): requests by kind, packet assembly, the return slot arbiter, and the deck reset. -/

namespace Sys2Proof.Machine

/-! ## Deck reset (R36) -/

/-- CTH at a deck reset (R36): queues and flags cleared, the packet in transmission and the settings kept. -/
def deckResetCth (s : State) : State :=
  { s with cth := { s.cth with
      assembly := none, replies := [], notices := [], lost := false, deckPending := false, deckDue := false,
      cause := .deck } }

/-- VPL at a deck reset (R144). -/
def deckResetVpl (s : State) : State := { s with vpl := Reset.vpl }

/-- ZOU's quiet flags at a deck reset (R88). -/
def deckResetZou (s : State) : State := setQuiet 0xF false s

/-- A deck reset takes effect (R36): CTH first, then RCE (R107), ASQ (R127), VPL (R144), ZOU (R88), CCC and CMP
(R163). TIF, SCC, HMX and LMC keep their state (R20, R57, R75, R179, R187). -/
def deckReset (s : State) : State :=
  deckResetCache (deckResetZou (deckResetVpl (deckResetAsq (deckResetRce (deckResetCth s)))))

/-- DECK_RESET (R36): a broadcast takes effect at once; an addressed one is DONE and pending. -/
def deckResetOp (bc : Bool) (s : State) : State × Answer :=
  if bc then (deckReset s, answer .done) else ({ s with cth := { s.cth with deckPending := true } }, .resetDone)

/-- DECK_RESET_EFFECT (R36): the DONE of an addressed DECK_RESET has been sent to its last slot. -/
def deckResetEffect (s : State) : State := if s.cth.deckDue then deckReset s else s

/-! ## Requests (R22 to R24) -/

/-- A request of unknown kind (R24). -/
def badKindOp (kind : Byte) (s : State) : State × Answer := (s, answerWith .badKind [kind])

/-- STATE_READ (R32). -/
def stateReadOp (s : State) : State × Answer := (s, answerWith .done (stateRecord s))

/-- A known kind whose payload length does not fit (R24). -/
def badLength (s : State) : State × Answer := (s, answer .badValue)

/-- An ENTRY_WRITE's payload (R28). -/
def entryWritePayload (payload : List Byte) (s : State) : State × Answer :=
  match payload with
  | t :: i1 :: i0 :: record => entryWriteOp t (be16 i1 i0) record s
  | _ => badLength s

/-- An ENTRY_READ's payload (R29). -/
def entryReadPayload (payload : List Byte) (s : State) : State × Answer :=
  match payload with
  | [t, i1, i0] => entryReadOp t (be16 i1 i0) s
  | _ => badLength s

/-- An ACTION's payload (R30). -/
def actionPayload (payload : List Byte) (s : State) : State × Answer :=
  match payload with
  | code :: params => actionOp code params s
  | [] => badLength s

/-- A payload that must be empty. -/
def emptyPayload (payload : List Byte) (f : State → State × Answer) (s : State) : State × Answer :=
  if payload.isEmpty then f s else badLength s

/-- A CLIP_ERASE's payload (R159). -/
def clipErasePayload (payload : List Byte) (s : State) : State × Answer :=
  match payload with
  | [k1, k0] => clipEraseOp (be16 k1 k0) s
  | _ => badLength s

/-- A CLIP_PROGRAM's payload (R159). -/
def clipProgramPayload (payload : List Byte) (s : State) : State × Answer :=
  match payload with
  | a2 :: a1 :: a0 :: data => clipProgramOp (be24 a2 a1 a0) data s
  | _ => badLength s

/-- A CLIP_READ's payload (R159). -/
def clipReadPayload (payload : List Byte) (s : State) : State × Answer :=
  match payload with
  | [a2, a1, a0, n] => clipReadOp (be24 a2 a1 a0) n.toNat s
  | _ => badLength s

/-- The reply kind of a request kind (section 2.1). -/
def replyKindOf (kind : Byte) : Byte := if 1 ≤ kind.toNat ∧ kind.toNat ≤ 8 then kind ||| 0x80 else replyUnknown

/-- The owner of a request by its kind (R24). -/
def ownerOf (bc : Bool) (kind : Byte) (payload : List Byte) (s : State) : State × Answer :=
  match kind.toNat with
  | 1 => entryWritePayload payload s
  | 2 => entryReadPayload payload s
  | 3 => actionPayload payload s
  | 4 => emptyPayload payload stateReadOp s
  | 5 => clipErasePayload payload s
  | 6 => clipProgramPayload payload s
  | 7 => clipReadPayload payload s
  | 8 => emptyPayload payload (deckResetOp bc) s
  | _ => badKindOp kind s

/-- A request taken or discarded at its check byte (R23, R24). -/
def handleRequest (bc : Bool) (kind : Byte) (payload : List Byte) (s : State) : State :=
  takeRequest bc (replyKindOf kind) (ownerOf bc kind payload) s

/-- A packet of start byte, address, kind, length and the rest with its check byte, sorted (R22). -/
def sortPacket (bs : List Byte) (s : State) : State :=
  if sumBytes bs.tail ≠ 0 then s
  else
    match bs with
    | _ :: addr :: kind :: _ :: rest =>
      if addr = 15 then (if kind = 3 ∨ kind = 8 then handleRequest true kind rest.dropLast s else s)
      else if addr.toNat = s.tif.node.toNat then handleRequest false kind rest.dropLast s
      else s
    | _ => s

/-! ## Assembly (R21) -/

/-- The assembly state replaced. -/
def setAssembly (a : Option Assembly) (s : State) : State := { s with cth := { s.cth with assembly := a } }

/-- The four bytes of a control slot (R21). -/
def takeSlot (t : Slot) (s : State) : State :=
  match s.cth.assembly with
  | none =>
    if t.b0 = 0xC5 ∧ t.b3.toNat ≤ 56 then setAssembly (some { buffer := t.bytes, total := 5 + t.b3.toNat }) s else s
  | some a =>
    let buf := a.buffer ++ t.bytes
    if a.total ≤ buf.length then sortPacket (buf.take a.total) (setAssembly none s)
    else setAssembly (some { a with buffer := buf }) s

/-- The discard signal: a packet under assembly is abandoned (R21). -/
def discardSlot (s : State) : State := setAssembly none s

/-! ## Sending (R34, R35) -/

/-- A packet: start byte, address, kind, length, payload, check byte (section 2.1). -/
def packet (node : BitVec 2) (kind : Byte) (payload : List Byte) : List Byte :=
  let body := byte node.toNat :: kind :: byte payload.length :: payload
  0xC5 :: (body ++ [0 - sumBytes body])

/-- The kind byte and data of a notice (R34). -/
def noticeBytes : Notice → List Byte
  | .stopRequest seat => [1, byte seat.val]
  | .announceEnd id o => [2, byte id, o.code]
  | .cueMark i => [3, byte i]
  | .routeState st cursor rewind => [4, st.code] ++ bytes16 cursor ++ [yesByte rewind]
  | .relocation o n k => 5 :: (bytes16 o ++ bytes16 n ++ bytes16 k)
  | .boxState b on => [6, byte b.val, yesByte on]
  | .supplyState x => [7, x.code]
  | .alarm on => [8, yesByte on]
  | .clipStall v f => [9, byte v.val] ++ bytes16 f
  | .trunkLost => [10]
  | .trunkRegained => [11]

/-- The payload of a notice that begins to be sent with the given notices-lost flag (R34). -/
def noticePayload (lost : Bool) (n : Notice) : List Byte := yesByte lost :: noticeBytes n

/-- Slot k of a packet, filled with zero. -/
def slotOf (bs : List Byte) (k : Nat) : Slot := Slot.ofBytes (bs.drop (4 * k))

/-- The transmitter after one more slot: the packet goes on, or it has ended, a reply's place is freed and the DONE of a
DECK_RESET brings the deck reset (R35, R36). -/
def afterSlot (tx : Transmission) (s : State) : State :=
  if tx.packet.length ≤ 4 * (tx.sent + 1) then
    { s with cth := { s.cth with
        tx := none,
        replies := if tx.reply then s.cth.replies.filter (·.state != .sending) else s.cth.replies,
        deckDue := s.cth.deckDue || tx.resetsDeck } }
  else { s with cth := { s.cth with tx := some { tx with sent := tx.sent + 1 } } }

/-- The oldest READY place becomes SENDING (R35); answers it. -/
def beginReply : List Place → Option (Place × List Place)
  | [] => none
  | p :: rest =>
    if p.state = .ready then some (p, { p with state := .sending } :: rest)
    else match beginReply rest with
      | none => none
      | some (q, ps) => some (q, p :: ps)

/-- The transmission of a packet from its first slot. -/
def newTransmission (bs : List Byte) (reply resetsDeck : Bool) : Transmission :=
  { packet := bs, sent := 0, reply := reply, resetsDeck := resetsDeck }

/-- The return slot arbiter at an own turn (R35): the next slot of the packet in transmission, else of the oldest READY
reply, else of the oldest notice, else nothing. -/
def returnTurn (s : State) : State × Slot :=
  match s.cth.tx with
  | some tx => (afterSlot tx s, slotOf tx.packet tx.sent)
  | none =>
    match beginReply s.cth.replies with
    | some (p, ps) =>
      let tx := newTransmission (packet s.tif.node p.kind p.payload) true p.resetsDeck
      (afterSlot tx { s with cth := { s.cth with replies := ps } }, slotOf tx.packet 0)
    | none =>
      match s.cth.notices with
      | n :: rest =>
        let tx := newTransmission (packet s.tif.node 0x90 (noticePayload s.cth.lost n)) false false
        (afterSlot tx { s with cth := { s.cth with notices := rest, lost := false } }, slotOf tx.packet 0)
      | [] => (s, Slot.zero)

end Sys2Proof.Machine
end

