-- ==== Sys2Proof/Machine/Frame.lean ====
section
/-! DEFINITION. The frames of the deck trunk and the return lane: their validity, their words, and the receiver's search. -/

namespace Sys2Proof.Machine

/-! ## Frames (section 1.1) -/

/-- A trunk frame is valid (R2). -/
def frameValid (f : Vector Word16 21) : Bool := f.get 0 == 0xB1E6 && f.get 20 == sumWords (f.toList.take 20)

/-- A return frame is valid (R2). -/
def returnValid (f : Vector Word16 5) : Bool := f.get 0 == 0xB1E7 && f.get 4 == sumWords (f.toList.take 4)

/-- The next n word times of a line where none of them is a gap. -/
def wordsOf : Nat → TrunkWords → Option (List Word16)
  | 0, _ => some []
  | n + 1, some w :: rest => (wordsOf n rest).map (w :: ·)
  | _ + 1, _ => none

/-- The valid trunk frame that begins a line's words, if one does (R2). -/
def frameAtHead (ws : TrunkWords) : Option (Vector Word16 21) :=
  match wordsOf 21 ws with
  | none => none
  | some l =>
    let f := Vector.ofFn fun i : Fin 21 => l.getD i.val 0
    if frameValid f then some f else none

/-- EXPECTING (R3): the valid frame whose sync word begins within one word time of the start of the period. -/
def frameInWindow (ws : TrunkWords) : Option (Vector Word16 21) :=
  match frameAtHead ws with
  | some f => some f
  | none => frameAtHead ws.tail

/-- HUNTING (R3): every word is tested as the start of a candidate. Answers the first valid one. -/
def huntFrame : TrunkWords → Option (Vector Word16 21)
  | [] => none
  | w :: rest =>
    match frameAtHead (w :: rest) with
    | some f => some f
    | none => huntFrame rest

/-- The four control slot bytes of two words. -/
def slotWords (a b : Word16) : Slot := { b0 := hiByte a, b1 := loByte a, b2 := hiByte b, b3 := loByte b }

/-- The 13 samples of a trunk frame, words 5 to 17. -/
def frameSamples (f : Vector Word16 21) : Samples :=
  { lang := Vector.ofFn fun l : Fin 12 => f.get ⟨l.val + 5, by omega⟩, talk := f.get 17 }

/-- The five words of a return frame (section 1.1, R16). -/
def returnWords (counter : Byte) (t : Slot) : List Word16 :=
  let ws := [0xB1E7, word 0 counter, word t.b0 t.b1, word t.b2 t.b3]
  ws ++ [sumWords ws]

end Sys2Proof.Machine
end

