-- ==== Sys2Proof/Machine/Ends.lean ====
section
/-! DEFINITION. The events of the chip's clock, counts and ports past the end of warm-up, each as one effect: the tick, and
the events that meet a slot's own at one slot end. -/

namespace Sys2Proof.Machine

/-- The blocks that take a tick, in the order in which a TICK of its own drives them. -/
def tickBlocks : List TickBlock := [.hmx, .zou, .asq, .vpl, .cmp, .lmc]

/-- What a tick drives in a block: HMX (R63), ZOU (R83), the talk hang (R123), the voices' counts (R133, R137), the
maintenance count (R160), LMC's counts, scan and row (R164, R165, R180, R182, R184). -/
def tickOf : TickBlock → State → State
  | .hmx => tickHmx
  | .zou => tickZou
  | .asq => tickHang
  | .vpl => tickVoices
  | .cmp => tickCmp
  | .lmc => tickLmc

/-- A block takes the tick, where the sixteenth period start has come and the block has not yet taken its tick (R5). -/
def tickAt (b : TickBlock) (s : State) : State :=
  if s.tif.tickFor.contains b then
    tickOf b { s with tif := { s.tif with tickFor := s.tif.tickFor.filter (· != b) } }
  else s

/-- A tick ends for every block that has still to take it (R5). -/
def tickEnds (s : State) : State := tickBlocks.foldl (fun s b => tickAt b s) s

/-- A return frame from downstream (R18). -/
def takeDownstream (f : Vector Word16 5) (s : State) : State :=
  if returnValid f then { s with tif := { s.tif with downstream := some (slotWords (f.get 2) (f.get 3)) } } else s

/-- An event of the clock, the counts or the ports takes effect. -/
def takeEvent : EndEvent → State → State
  | .tick => tickEnds
  | .tickAt b => tickAt b
  | .downstreamReturnFrame f => takeDownstream f
  | .boxReply r => takeReply r
  | .deckResetEffect => deckResetEffect
  | .talkHangExpiry => hangExpires
  | .voicesFinished => takeReport
  | .gapExpiry v => gapExpires v
  | .clipStall v => clipStalls v
  | .fadeEnd v => fadeEnds v
  | .fetchComplete => fetchCompletes
  | .memoryReady => memoryReady
  | .maintenanceTimeout => maintenanceTimesOut
  | .scanFrameBoundary => boundary
  | .supplyRampDone => rampDone
  | .supplyRampTimeout => rampTimeout
  | .supplyGoodLost => goodLost
  | .deckAlarmInput low => alarmLine low
  | .overrideClear => overrideClears

end Sys2Proof.Machine
end

