-- ==== Sys2Proof/Machine/Power.lean ====
section
/-! DEFINITION. Power-on, the reset line and warm-up (R188, R189), and the tick (R5). -/

namespace Sys2Proof.Machine

/-- Every block stops at once (R188): the chip is in warm-up, its clip memory port operation is abandoned (R163) and its
outputs take their warm-up values. An erase or program already sent goes on in the device. -/
def stopAll (s : State) : State :=
  { s with power := { s.power with running := false }, cmp := Reset.cmp, out := Reset.quietPorts }

/-- POWER_ON (R188): the supply has risen, and a power-on warm-up begins. -/
def powerRises (s : State) : State :=
  let t := stopAll s
  { t with power := { t.power with supplyUp := true, powerLeft := Config.powerOnTicks, risen := true } }

/-- POWER_FAIL (R188): held at the start of warm-up until the supply rises. -/
def powerFalls (s : State) : State :=
  let t := stopAll s
  { t with power := { t.power with supplyUp := false, powerLeft := Config.powerOnTicks } }

/-- RESET_LINE_ASSERT (R188): held at the start of warm-up; a power-on count runs on. -/
def lineFalls (s : State) : State :=
  let t := stopAll s
  { t with power := { t.power with resetLow := true, lineLeft := Config.resetLineTicks } }

/-- RESET_LINE_RELEASE (R188): a warm-up of 4 ticks starts, or starts again. -/
def lineRises (s : State) : State :=
  let t := stopAll s
  { t with power := { t.power with resetLow := false, lineLeft := Config.resetLineTicks } }

/-- One tick of warm-up on the free running clock (R188): the power-on count runs while the supply is up, the line count
while the line is also released. -/
def tickWarmUp (p : Power) : Power :=
  { p with
    powerLeft := if p.supplyUp then p.powerLeft - 1 else p.powerLeft,
    lineLeft := if p.supplyUp && !p.resetLow then p.lineLeft - 1 else p.lineLeft }

/-- Warm-up has run both its counts with the supply up and the reset line released (R188). -/
def warmUpDue (p : Power) : Bool :=
  !p.running && p.supplyUp && !p.resetLow && p.powerLeft == 0 && p.lineLeft == 0

/-- The chip at the end of warm-up (R189): every block as after its reset, the device as it stands. -/
def freshChip (adr : BitVec 2) (cause : ResetCause) (s : State) : State :=
  { pending := s.pending, power := { s.power with running := true, risen := false },
    tif := Reset.tif adr, cth := Reset.cth cause, scc := Reset.scc, hmx := Reset.hmx, zou := Reset.zou,
    rce := Reset.rce, asq := Reset.asq, vpl := Reset.vpl, ccc := Reset.ccc, cmp := Reset.cmp, lmc := Reset.lmc,
    dev := s.dev, out := Reset.firstPorts }

/-- WARM_UP_END (R188, R189). -/
def warmUpEnds (adr : BitVec 2) (s : State) : State :=
  if warmUpDue s.power then freshChip adr (if s.power.risen then .power else .line) s else s

/-- TICK: in warm-up its counts, past its end everything the tick drives. -/
def tickAll (s : State) : State :=
  if s.power.running then tickEnds s else { s with power := tickWarmUp s.power }

end Sys2Proof.Machine
end

