-- ==== Sys2Proof/Machine/PowerCommands.lean ====
section
/-! DEFINITION. The commands of power, the reset line, warm-up and the tick. -/

namespace Sys2Proof.Machine

/-- POWER_ON (R188). -/
def execPowerOn (s : State) : Host.Outcome State Fault Refusal := .next (powerRises s)

/-- RESET_LINE_ASSERT (R188). -/
def execResetLineAssert (s : State) : Host.Outcome State Fault Refusal := .next (lineFalls s)

/-- RESET_LINE_RELEASE (R188). -/
def execResetLineRelease (s : State) : Host.Outcome State Fault Refusal := .next (lineRises s)

/-- WARM_UP_END (R189). -/
def execWarmUpEnd (adr : BitVec 2) (s : State) : Host.Outcome State Fault Refusal := .next (warmUpEnds adr s)

/-- POWER_FAIL (R188). -/
def execPowerFail (s : State) : Host.Outcome State Fault Refusal := .next (powerFalls s)

/-- TICK (R5). -/
def execTick (s : State) : Host.Outcome State Fault Refusal := .next (tickAll s)

end Sys2Proof.Machine
end

