-- ==== Sys2Proof/Machine/RequestCommands.lean ====
section
/-! DEFINITION. The requests to CTH that are no actions, and the deck reset's effect. Each command is the arrival of a
request's check byte at CTH (R23). -/

namespace Sys2Proof.Machine

/-- BAD_KIND (R24). -/
def execBadKind (kind : Byte) (s : State) : Host.Outcome State Fault Refusal :=
  whenLocked (takeRequest false replyUnknown (badKindOp kind)) s

/-- ENTRY_WRITE (R28). -/
def execEntryWrite (table : Byte) (index : Word16) (record : List Byte) (s : State) :
    Host.Outcome State Fault Refusal :=
  whenLocked (takeRequest false replyEntryWrite (entryWriteOp table index.toNat record)) s

/-- ENTRY_READ (R29). -/
def execEntryRead (table : Byte) (index : Word16) (s : State) : Host.Outcome State Fault Refusal :=
  whenLocked (takeRequest false replyEntryRead (entryReadOp table index.toNat)) s

/-- STATE_READ (R32). -/
def execStateRead (s : State) : Host.Outcome State Fault Refusal :=
  whenLocked (takeRequest false replyStateRead stateReadOp) s

/-- CLIP_ERASE (R159). -/
def execClipErase (sector : Word16) (s : State) : Host.Outcome State Fault Refusal :=
  whenLocked (takeRequest false replyClipErase (clipEraseOp sector.toNat)) s

/-- CLIP_PROGRAM (R159). -/
def execClipProgram (addr : BitVec 24) (data : List Byte) (s : State) : Host.Outcome State Fault Refusal :=
  whenLocked (takeRequest false replyClipProgram (clipProgramOp addr.toNat data)) s

/-- CLIP_READ (R159). -/
def execClipRead (addr : BitVec 24) (count : Byte) (s : State) : Host.Outcome State Fault Refusal :=
  whenLocked (takeRequest false replyClipRead (clipReadOp addr.toNat count.toNat)) s

/-- DECK_RESET (R36). -/
def execDeckReset (bc : Bool) (s : State) : Host.Outcome State Fault Refusal :=
  whenLocked (takeRequest bc replyDeckReset (deckResetOp bc)) s

/-- DECK_RESET_EFFECT (R36). -/
def execDeckResetEffect (s : State) : Host.Outcome State Fault Refusal := whenRunning deckResetEffect s

/-- UNKNOWN_ACTION (R30): an ACTION whose code the action table does not name is answered BAD_VALUE. The code is not
read again: `unknownCode` says which codes the command stands for. -/
def execUnknownAction (bc : Bool) (code : Byte) (s : State) : Host.Outcome State Fault Refusal :=
  whenLocked (takeRequest bc replyAction (unknownActionOp code)) s

end Sys2Proof.Machine
end

