-- ==== Sys2Proof/Machine/Mixing.lean ====
section
/-! DEFINITION. The samples of one period: seats (R58, R59, R71 to R73), zones (R82, R84 to R86), channels (R87). `s` is
the state at the start of the period, `live` and `d` what TIF delivers at its end, `outs` what the voices give in it. -/

namespace Sys2Proof.Machine

/-- The stream a language uses: its own if live, else its fallback if that is live, else none (R58, R82). -/
def streamFor (languages : Vector Language 12) (live : BitVec 12) (l : Lang) : Option Lang :=
  if live.getLsbD l.val then some l
  else
    match (languages.get l).fallback with
    | none => none
    | some f => if live.getLsbD f.val then some f else none

/-- The delivered sample of a stream, zero without one. -/
def streamSample (d : Samples) : Option Lang → Int
  | none => 0
  | some l => (d.lang.get l).toInt

/-- A seat's output follows HMX: present and enabled (R43). -/
def sounds (x : Seat) : Bool := x.present && x.enabled

/-- What a period gives a seat's sample: the commentary source and the announcement input, with the applied indexes and
the enabled field of the seat, all but the sources' own samples as they stood at the period's start (R58, R59, R65, R71,
R72). -/
def seatPaths (s : State) (live : BitVec 12) (d : Samples) (outs : List VoiceOut) (i : SeatNo) : SeatPaths :=
  let x := s.scc.seats.get i
  let g := s.hmx.gains.get i
  { commentary := streamSample d (streamFor s.scc.languages live x.lang), announcement := announcementInput s outs d.talk i,
    gc := g.gc, ga := g.ga, enabled := x.enabled }

/-- The seat sample of the period that has ended (R72): present is judged once the box reply of that period has been
taken, enabled at its start. -/
def seatSample (s : State) (i : SeatNo) : Sample :=
  let p := s.hmx.formed.get i
  if (s.scc.seats.get i).present && p.enabled then toSample (mixPaths p.commentary p.gc p.announcement p.ga) else 0

/-- The seat chain frame of the period in progress: the poll word, the 64 audio words with 0 for a seat that is not present
or not enabled, and the check word (R43, R73, section 3.3); nothing in warm-up. It is computed, because the events of a slot
end that come after its slot command still belong to it (notes/assumptions/14.md). -/
def seatFrame (s : State) : List Word16 :=
  if s.power.running then
    let ws := word 0x5E (byte s.scc.poll.val) ::
      allSeats.map fun i => if sounds (s.scc.seats.get i) then seatSample s i else 0
    ws ++ [sumWords ws]
  else []

/-- A contribution to the loudspeakers: zone mask, priority and sample (R84). -/
structure Contribution where
  mask : ZoneMask
  priority : Fin 4
  sample : Int
deriving DecidableEq, Repr

/-- The contribution of a SPEAKER voice that sounds: in PLAYING with its announcement's mask and priority, in ENDING with
its fade mask and priority; a voice that waits gives zero, a HEADSET voice nothing (R84). -/
def voiceContribution (s : State) (outs : List VoiceOut) (v : VoiceNo) : List Contribution :=
  let x := s.vpl.voices.get v
  if x.role ≠ .speaker then []
  else
    match outOf outs v with
    | .playing y => (s.vpl.rendering.map fun r => { mask := r.mask, priority := r.priority, sample := y }).toList
    | .fading y => (x.fadeZones.map fun m => { mask := m.1, priority := m.2, sample := y }).toList
    | _ => []

/-- The contribution of the talk sample while the current summary marks a TALK announcement (R84). -/
def talkContribution (s : State) (talk : Sample) : List Contribution :=
  match s.zou.summary with
  | none => []
  | some m => if m.talk then [{ mask := m.mask, priority := 2, sample := talk.toInt }] else []

/-- The contributions of a period. -/
def contributions (s : State) (outs : List VoiceOut) (talk : Sample) : List Contribution :=
  allVoices.flatMap (voiceContribution s outs) ++ talkContribution s talk

/-- A contribution reaches a zone: the zone is in its mask, and quiet does not silence it (R84, R85). -/
def reaches (z : Zone) (quiet : Bool) (c : Contribution) : Bool := inMask c.mask z && (!quiet || c.priority == 3)

/-- The speaker announcement input of a zone (R84, R85). -/
def speakerInput (cs : List Contribution) (z : Zone) (quiet : Bool) : Int :=
  saturate ((cs.filter (reaches z quiet)).foldl (fun n c => n + c.sample) 0)

/-- The speaker program source's sample of a zone (R82, R85). -/
def programInput (s : State) (live : BitVec 12) (d : Samples) (x : ZoneRec) : Int :=
  if x.quiet then 0
  else
    match x.program with
    | none => 0
    | some l => streamSample d (streamFor s.scc.languages live l)

/-- A zone sample (R86). -/
def zoneSample (s : State) (live : BitVec 12) (d : Samples) (cs : List Contribution) (z : Zone) : Int :=
  let x := s.zou.zones.get z
  mixPaths (programInput s live d x) x.gp (speakerInput cs z x.quiet) x.gs

/-- A channel sample (R87): the saturated sum of the zone samples of the zones that name the channel. -/
def channelSample (s : State) (zs : Zone → Int) (c : Fin 4) : Sample :=
  toSample (saturate (((List.finRange 4).filter fun z => (s.zou.zones.get z).channel == c).foldl
    (fun n z => n + zs z) 0))

/-- The four channel samples of a period (R87). -/
def channelSamples (s : State) (live : BitVec 12) (d : Samples) (outs : List VoiceOut) : Vector Sample 4 :=
  let cs := contributions s outs d.talk
  Vector.ofFn (channelSample s (zoneSample s live d cs))

end Sys2Proof.Machine
end

