-- ==== Sys2Proof/Machine/Trunk.lean ====
section
/-! DEFINITION. TIF (01): frames, the trunk state, the return lane, and the two slot commands with all they hold. -/

namespace Sys2Proof.Machine

/-! ## The drive record (R10) -/

/-- The drive record with a valid frame's fields taken (R10): the odometer only where bit 8 of word 1 is set. -/
def frameDrive (d : Drive) (f : Vector Word16 21) : Drive :=
  let w := f.get 1
  { odometer := if w.getLsbD 8 then (f.get 2).toNat else d.odometer, odoValid := w.getLsbD 8,
    speed := (loByte (f.get 3)).toNat, tag := (hiByte (f.get 3)).toNat, alarm := w.getLsbD 9, talk := w.getLsbD 10 }

/-! ## The trunk state (R4, R6 to R10) -/

/-- A valid frame's fields taken in LOCKED (R7, R10). -/
def takeFrame (f : Vector Word16 21) (t : Tif) : Tif :=
  { t with invalidRun := 0, drive := frameDrive t.drive f, live := (f.get 4).extractLsb' 0 12,
           last := frameSamples f, delivered := frameSamples f }

/-- TIF at a VALID slot: the counter (R4), the receiver (R3) and the trunk state (R6, R7, R9). -/
def validTif (f : Vector Word16 21) (t : Tif) : Tif :=
  let u := { t with counter := loByte (f.get 1), receiver := .expecting }
  match t.trunk with
  | .locked => takeFrame f u
  | _ =>
    if Config.lockRun ≤ t.validRun + 1 then takeFrame f { u with trunk := .locked, validRun := 0 }
    else { u with validRun := t.validRun + 1, delivered := Reset.samples }

/-- The drive record at entry to LOST (R9). -/
def lostDrive (d : Drive) : Drive := { d with odoValid := false, talk := false }

/-- TIF at an INVALID slot (R4, R6, R8, R9). -/
def invalidTif (t : Tif) : Tif :=
  let u := { t with counter := t.counter + 1 }
  match t.trunk with
  | .locked =>
    if Config.lostRun ≤ t.invalidRun + 1 then
      { u with trunk := .lost, invalidRun := 0, validRun := 0, receiver := .hunting, live := 0,
               drive := lostDrive t.drive, delivered := Reset.samples }
    else
      { u with invalidRun := t.invalidRun + 1, delivered := if t.invalidRun = 0 then t.last else Reset.samples }
  | _ => { u with validRun := 0, receiver := .hunting, delivered := Reset.samples }

/-! ## The return lane (R16 to R18) -/

/-- The counter's turn is this node's (R17). -/
def ownTurn (node : BitVec 2) (counter : Byte) : Bool := counter.toNat % 4 == node.toNat

/-- The return frame of a period, of the given counter (R17): an own turn offered to CTH where `offered`, else zeros;
another node's turn forwards the pending downstream slot. The pending slot is none after it (R17, R18). -/
def sendReturn (counter : Byte) (offered : Bool) (s : State) : State :=
  let r : State × Slot :=
    if ownTurn s.tif.node counter then (if offered then returnTurn s else (s, Slot.zero))
    else (s, s.tif.downstream.getD Slot.zero)
  { r.1 with tif := { r.1.tif with downstream := none },
             out := { r.1.out with returnFrame := returnWords counter r.2 } }

/-! ## The events of a slot end (R11, R14, R19) -/

/-- What one slot end hands the blocks: the control slot, the discard signal, or nothing (R14). -/
inductive ControlEvent where
  | slot (t : Slot)
  | discard
  | nothing
deriving DecidableEq, Repr

/-- The fields RCE follows, as they stand in a TIF record (R11). -/
def routeFields (t : Tif) : Nat × Bool × Nat × TrunkState := (t.drive.odometer, t.drive.odoValid, t.drive.tag, t.trunk)

/-- The drive record's three route fields replaced by those of another (R11). -/
def withRouteFields (d e : Drive) : Drive := { d with odometer := e.odometer, odoValid := e.odoValid, tag := e.tag }

/-- One event of a slot end, from TIF's record before and after the slot. The drive record shows RCE's fields from the
event that hands them to RCE (R106); a field that did not change is not signalled (R11). What a step delivers is taken right
after the event that makes the step, but for the blocks that wait for a `delivery` event (R102). A talk flag that reads
pressed in the first frame taken after warm-up is no rise (R127, notes/assumptions/24.md). A ROUTE_ARM and a change meet by
R92, R93 and R101 in either order, also where those two orders end in different route states, cursors or odometers, which
R106 says they do not (notes/assumptions/40.md). -/
def slotEvent (old new : Tif) (c : ControlEvent) (waits : CueOwner → Bool) (s : State) : SlotEvent → State
  | .trunkNotice =>
    if old.trunk = .locked ∧ new.trunk = .lost then pushNotice .trunkLost s
    else if old.trunk = .lost ∧ new.trunk = .locked then pushNotice .trunkRegained s
    else s
  | .control =>
    match c with
    | .slot t => takeDue waits (takeSlot t s)
    | .discard => discardSlot s
    | .nothing => s
  | .route =>
    let t := { s with tif := { s.tif with drive := withRouteFields s.tif.drive new.drive } }
    takeDue waits (if routeFields old = routeFields new then t else routeChange t)
  | .talk =>
    if !old.drive.talk && new.drive.talk then (if old.trunk = .seeking then s else talkRise s)
    else if old.drive.talk && !new.drive.talk then talkFall s
    else s
  | .alarm => if old.drive.alarm = new.drive.alarm then s else alarmFlag new.drive.alarm s
  | .voice v => followSample v s
  | .delivery b => takeNext b s
  | .also e => takeEvent e s

/-- The slot's own events in a default order. -/
def allEvents : List SlotEvent := allVoices.map .voice ++ [.trunkNotice, .control, .route, .talk, .alarm]

/-- The events the command lists, in its order, then the slot's own that it leaves out. One of the slot's own that it names
again is passed over. -/
def fullOrder (order : List SlotEvent) : List SlotEvent :=
  (order ++ allEvents).foldl (fun acc e => if e.own && acc.contains e then acc else acc ++ [e]) []

/-- The events of a slot end, in the order the command gives (R11, R14, R19). A block that the order names for a
delivery waits for it, and takes what still waits at the end (R102, notes/assumptions/7.md). -/
def takeEvents (old new : Tif) (c : ControlEvent) (order : List SlotEvent) (s : State) : State :=
  settle ((fullOrder order).foldl (slotEvent old new c fun b => order.contains (.delivery b)) s)

/-! ## Slots (R7, R8, R13) -/

/-- TIF counts the start of a period; at the sixteenth a tick is due to every block (R5). -/
def countStart (t : Tif) : Tif :=
  { t with periodStarts := (t.periodStarts + 1) % 16,
           tickFor := if (t.periodStarts + 1) % 16 = 0 then tickBlocks else t.tickFor }

/-- A period ends and the next starts, given TIF's record after it, the control event and whether CTH is offered an own
turn. The return frame and the samples come first, from the records as they stood at the start of the period (R35, R59,
R65, R82, R85, R136); the polled box's reply is then awaited (R43, R44), and the events of the slot end follow.
-/
def endPeriod (new : Tif) (offered : Bool) (c : ControlEvent) (order : List SlotEvent) (s : State) : State :=
  let sent := sendReturn new.counter offered s
  let played := playVoices sent
  let t := played.1
  takeEvents s.tif new c order { t with
    tif := countStart { new with downstream := none, drive := withRouteFields new.drive s.tif.drive },
    scc := { t.scc with poll := s.scc.poll + 1, awaited := some s.scc.poll },
    hmx := { t.hmx with formed := Vector.ofFn (seatPaths s new.live new.delivered played.2) },
    out := { t.out with channels := channelSamples s new.live new.delivered played.2 } }

/-- CTH is offered an own turn of a slot: LOCKED before and after it (R17, notes/assumptions/9.md). -/
def turnOffered (old new : Tif) : Bool := old.trunk == .locked && new.trunk == .locked

/-- A VALID slot (R7). -/
def validSlot (f : Vector Word16 21) (order : List SlotEvent) (s : State) : State :=
  let new := validTif f s.tif
  endPeriod new (turnOffered s.tif new)
    (if new.trunk = .locked then .slot (slotWords (f.get 18) (f.get 19)) else .nothing) order s

/-- An INVALID slot (R8). -/
def invalidSlot (order : List SlotEvent) (s : State) : State :=
  let new := invalidTif s.tif
  endPeriod new (turnOffered s.tif new) (if s.tif.trunk = .locked then .discard else .nothing) order s

/-- The period in progress ends at once in HUNTING, classified neither way (R3, notes/assumptions/11.md): it still gives
its return frame, its samples and its seat chain frame (R16, R43, R73), its samples zero as HUNTING is out of LOCKED. -/
def shortPeriod (order : List SlotEvent) (s : State) : State :=
  endPeriod { s.tif with counter := s.tif.counter + 1, delivered := Reset.samples } false .nothing order s

/-- The frames that the shortened period and the start of the next sent (R3, R16, R43, R87). -/
def shortFrames (s : State) : ShortFrames :=
  { returnFrame := s.out.returnFrame, seatFrame := seatFrame s, channels := s.out.channels }

/-- The words received since the last slot command go out on trunk-out (R15); `short` is what a shortened period sent. -/
def forward (ws : TrunkWords) (short : Option ShortFrames) (s : State) : State :=
  { s with out := { s.out with trunkOut := ws, short := short } }

/-- A valid frame found by hunting ends the period in progress at once, and the period that starts at its sync word is a
VALID slot (R3). DESIGN CHOICE, unsafe: also where the sync word is the first word of the period in progress, which R3
leaves open, a period of no length is ended and counted, with its own return frame, poll and period start
(notes/assumptions/45.md). -/
def huntedSlot (f : Vector Word16 21) (ws : TrunkWords) (short order : List SlotEvent) (s : State) : State :=
  let t := shortPeriod short s
  forward ws (some (shortFrames t)) (validSlot f order t)

/-- A slot ends, classified by the receiver from what trunk-in carried (R3). -/
def slotEnds (ws : TrunkWords) (short order : List SlotEvent) (s : State) : State :=
  match s.tif.receiver with
  | .expecting =>
    match frameInWindow ws with
    | some f => forward ws none (validSlot f order s)
    | none => forward ws none (invalidSlot order s)
  | .hunting =>
    match huntFrame ws with
    | some f => huntedSlot f ws short order s
    | none => forward ws none (invalidSlot order s)

end Sys2Proof.Machine
end

