-- ==== Sys2Proof/Machine/TrunkCommands.lean ====
section
/-! DEFINITION. The commands of the deck trunk. -/

namespace Sys2Proof.Machine

/-- VALID_SLOT (R7): the slot of a period whose words hold the frame. The receiver judges it by those words (R2, R3): a
frame that is not valid, or in EXPECTING comes outside the one-word window, makes the slot INVALID
(notes/assumptions/10.md). -/
def execValidSlot (words : FramedWords) (short order : List SlotEvent) (s : State) : Host.Outcome State Fault Refusal :=
  whenRunning (slotEnds words.all short order) s

/-- INVALID_SLOT (R8): the slot of a period whose words hold no frame at its place. -/
def execInvalidSlot (words : TrunkWords) (order : List SlotEvent) (s : State) : Host.Outcome State Fault Refusal :=
  whenRunning (slotEnds words [] order) s

/-- DOWNSTREAM_RETURN_FRAME (R18). -/
def execDownstreamReturnFrame (frame : Vector Word16 5) (s : State) : Host.Outcome State Fault Refusal :=
  whenRunning (takeDownstream frame) s

end Sys2Proof.Machine
end

