-- ==== Sys2Proof/Machine/Dispatch.lean ====
section
/-! DEFINITION. Dispatch: one arm per command, each one call of its meaning. -/

namespace Sys2Proof.Machine

def exec (i : Instr) (s : State) : Host.Outcome State Fault Refusal :=
  match i with
  | .powerOn => Sys2Proof.Machine.execPowerOn s
  | .resetLineAssert => Sys2Proof.Machine.execResetLineAssert s
  | .resetLineRelease => Sys2Proof.Machine.execResetLineRelease s
  | .warmUpEnd adr => Sys2Proof.Machine.execWarmUpEnd adr s
  | .validSlot words short order => Sys2Proof.Machine.execValidSlot words short order s
  | .invalidSlot words order => Sys2Proof.Machine.execInvalidSlot words order s
  | .downstreamReturnFrame frame => Sys2Proof.Machine.execDownstreamReturnFrame frame s
  | .badKind kind => Sys2Proof.Machine.execBadKind kind s
  | .entryWrite table index record => Sys2Proof.Machine.execEntryWrite table index record s
  | .entryRead table index => Sys2Proof.Machine.execEntryRead table index s
  | .stateRead => Sys2Proof.Machine.execStateRead s
  | .clipErase sector => Sys2Proof.Machine.execClipErase sector s
  | .clipProgram addr data => Sys2Proof.Machine.execClipProgram addr data s
  | .clipRead addr count => Sys2Proof.Machine.execClipRead addr count s
  | .deckReset bc => Sys2Proof.Machine.execDeckReset bc s
  | .deckResetEffect => Sys2Proof.Machine.execDeckResetEffect s
  | .unknownAction bc code => Sys2Proof.Machine.execUnknownAction bc code s
  | .announce bc params => Sys2Proof.Machine.execAnnounce bc params s
  | .cutSoft bc id => Sys2Proof.Machine.execCutSoft bc id s
  | .cutHard bc id => Sys2Proof.Machine.execCutHard bc id s
  | .scene bc scene => Sys2Proof.Machine.execScene bc scene s
  | .groupPreset bc group preset start => Sys2Proof.Machine.execGroupPreset bc group preset start s
  | .groupFields bc group mode levelOn levelOff onLen offLen pulses fadeStep start => Sys2Proof.Machine.execGroupFields bc group mode levelOn levelOff onLen offLen pulses fadeStep start s
  | .groupStart bc group => Sys2Proof.Machine.execGroupStart bc group s
  | .groupStop bc group => Sys2Proof.Machine.execGroupStop bc group s
  | .groupPending bc group onLen offLen => Sys2Proof.Machine.execGroupPending bc group onLen offLen s
  | .groupHold bc group hold => Sys2Proof.Machine.execGroupHold bc group hold s
  | .supplyOn bc => Sys2Proof.Machine.execSupplyOn bc s
  | .supplyOff bc => Sys2Proof.Machine.execSupplyOff bc s
  | .routeArm bc count tag => Sys2Proof.Machine.execRouteArm bc count tag s
  | .routeDisarm bc => Sys2Proof.Machine.execRouteDisarm bc s
  | .stopClear bc => Sys2Proof.Machine.execStopClear bc s
  | .seat bc params => Sys2Proof.Machine.execSeat bc params s
  | .quiet bc zones on => Sys2Proof.Machine.execQuiet bc zones on s
  | .clipLock bc family language => Sys2Proof.Machine.execClipLock bc family language s
  | .clipUnlock bc present family language => Sys2Proof.Machine.execClipUnlock bc present family language s
  | .cacheFlush bc => Sys2Proof.Machine.execCacheFlush bc s
  | .tick => Sys2Proof.Machine.execTick s
  | .boxReply reply => Sys2Proof.Machine.execBoxReply reply s
  | .talkHangExpiry => Sys2Proof.Machine.execTalkHangExpiry s
  | .voicesFinished => Sys2Proof.Machine.execVoicesFinished s
  | .gapExpiry voice => Sys2Proof.Machine.execGapExpiry voice s
  | .clipStall voice => Sys2Proof.Machine.execClipStall voice s
  | .fadeEnd voice => Sys2Proof.Machine.execFadeEnd voice s
  | .fetchComplete => Sys2Proof.Machine.execFetchComplete s
  | .memoryReady => Sys2Proof.Machine.execMemoryReady s
  | .maintenanceTimeout => Sys2Proof.Machine.execMaintenanceTimeout s
  | .scanFrameBoundary => Sys2Proof.Machine.execScanFrameBoundary s
  | .supplyRampDone => Sys2Proof.Machine.execSupplyRampDone s
  | .supplyRampTimeout => Sys2Proof.Machine.execSupplyRampTimeout s
  | .supplyGoodLost => Sys2Proof.Machine.execSupplyGoodLost s
  | .deckAlarmInput low => Sys2Proof.Machine.execDeckAlarmInput low s
  | .overrideClear => Sys2Proof.Machine.execOverrideClear s
  | .powerFail => Sys2Proof.Machine.execPowerFail s

end Sys2Proof.Machine
end

