-- ==== Sys2Proof/WellFormed.lean ====
section
/-! DEFINITION. Well-formed commands: the operands stand for an event or a request that its row describes. The meaning of
an ill-formed one is total all the same. -/

namespace Sys2Proof

open Sys2Proof.Machine

/-- The parameter bytes an ACTION can carry: a payload of 1 to 56 bytes with its code (R24). -/
def shortParams (ps : List Byte) : Bool := decide (ps.length ≤ 55)

/-- An order names none of the slot's own events twice. -/
def orderFit (order : List SlotEvent) : Bool := decide (order.filter SlotEvent.own).Nodup

/-- A command is well-formed: a VALID slot's frame passes R2 and its orders name no event of the slot itself twice, as
an INVALID slot's does not; an unknown kind is none of the eight (R24) and an unknown action none of R30's codes;
record, parameter and data bytes fit a packet's 56 payload bytes (section 2.1). -/
def Instr.wellFormed : Instr → Bool
  | .validSlot words short order => frameValid words.frame && orderFit short && orderFit order
  | .invalidSlot _ order => orderFit order
  | .badKind kind => decide (kind.toNat < 1 ∨ 8 < kind.toNat)
  | .entryWrite _ _ record => decide (record.length ≤ 53)
  | .clipProgram _ data => decide (data.length ≤ 53)
  | .unknownAction _ code => unknownCode code
  | .announce _ params => shortParams params
  | .seat _ params => shortParams params
  | .powerOn | .resetLineAssert | .resetLineRelease | .warmUpEnd _ | .downstreamReturnFrame _ | .entryRead _ _
  | .stateRead | .clipErase _ | .clipRead _ _ | .deckReset _ | .deckResetEffect | .cutSoft _ _ | .cutHard _ _
  | .scene _ _ | .groupPreset _ _ _ _ | .groupFields _ _ _ _ _ _ _ _ _ _ | .groupStart _ _ | .groupStop _ _
  | .groupPending _ _ _ _ | .groupHold _ _ _ | .supplyOn _ | .supplyOff _ | .routeArm _ _ _ | .routeDisarm _
  | .stopClear _ | .quiet _ _ _ | .clipLock _ _ _ | .clipUnlock _ _ _ _ | .cacheFlush _ | .tick | .boxReply _
  | .talkHangExpiry | .voicesFinished | .gapExpiry _ | .clipStall _ | .fadeEnd _ | .fetchComplete | .memoryReady
  | .maintenanceTimeout | .scanFrameBoundary | .supplyRampDone | .supplyRampTimeout | .supplyGoodLost
  | .deckAlarmInput _ | .overrideClear | .powerFail => true

end Sys2Proof
end

