-- ==== Sys2Proof/Safety.lean ====
section
/-! DEFINITION. What counts as a well-timed command: the sender gives an event only when the spec's clock and counts make
it due (notes/assumptions/1.md, notes/assumptions/2.md). The meanings do not ask for it; statements about runs may. -/

namespace Sys2Proof.Machine

/-- A request can reach CTH (R14, R21): the trunk is LOCKED. -/
def requestDue (s : State) : Bool := s.tif.trunk == .locked

/-- The command is an event the state makes possible. -/
def wellTimed (s : State) : Instr → Bool
  | .tick => !s.power.running || !s.tif.tickFor.isEmpty
  | .scanFrameBoundary => s.lmc.boundaryDue
  | .warmUpEnd _ => warmUpDue s.power
  | .powerOn => !s.power.supplyUp
  | .powerFail => s.power.supplyUp
  | .resetLineAssert => !s.power.resetLow
  | .resetLineRelease => s.power.resetLow
  | .deckResetEffect => s.cth.deckDue
  | .boxReply _ => s.scc.awaited.isSome
  | .voicesFinished => s.asq.report.isSome
  | .fetchComplete => s.cmp.fetch.isSome
  | .memoryReady => s.dev.busy.isSome || s.cmp.maint.any fun m => m.stage == .sent
  | .badKind _ | .entryWrite _ _ _ | .entryRead _ _ | .stateRead | .clipErase _ | .clipProgram _ _ | .clipRead _ _
  | .deckReset _ | .unknownAction _ _ | .announce _ _ | .cutSoft _ _ | .cutHard _ _ | .scene _ _
  | .groupPreset _ _ _ _ | .groupFields _ _ _ _ _ _ _ _ _ _ | .groupStart _ _ | .groupStop _ _ | .groupPending _ _ _ _
  | .groupHold _ _ _ | .supplyOn _ | .supplyOff _ | .routeArm _ _ _ | .routeDisarm _ | .stopClear _ | .seat _ _
  | .quiet _ _ _ | .clipLock _ _ _ | .clipUnlock _ _ _ _ | .cacheFlush _ => requestDue s
  | .validSlot _ _ _ | .invalidSlot _ _ | .downstreamReturnFrame _ | .talkHangExpiry | .gapExpiry _ | .clipStall _
  | .fadeEnd _ | .maintenanceTimeout | .supplyRampDone | .supplyRampTimeout | .supplyGoodLost
  | .deckAlarmInput _ | .overrideClear => true

/-- A step is safe: it answers a next state. -/
def stepsOn (s : State) : Prop := ∃ t, step s = .next t

end Sys2Proof.Machine
end

