-- ==== Sys2Proof/Claims.lean ====
section
/-! DEFINITION. The terms the statements are written in: a request taken and its reply, a lamp group after a start or a
stop, an announcement's end, and the properties every step keeps. -/

namespace Sys2Proof.Machine

/-! ## Requests (R23) -/

/-- A request is taken: past warm-up with the trunk LOCKED (R14, R189), no deck reset pending, and a free reply place unless
it is a broadcast (R23). -/
def takes (bc : Bool) (s : State) : Prop :=
  s.power.running = true ∧ s.tif.trunk = .locked ∧ s.cth.deckPending = false ∧ (bc = false → s.cth.replies.length < 4)

/-- A state with a READY reply at the tail of the reply queue; a broadcast gets none (R23). -/
def withReply (bc : Bool) (kind : Byte) (payload : List Byte) (s : State) : State :=
  if bc then s
  else { s with cth := { s.cth with
      replies := s.cth.replies ++ [{ state := .ready, kind := kind, payload := payload, resetsDeck := false }] } }

/-- The request commands, each with whether it came by broadcast. -/
def requestOf : Instr → Option Bool
  | .badKind _ | .entryWrite _ _ _ | .entryRead _ _ | .stateRead | .clipErase _ | .clipProgram _ _ | .clipRead _ _ =>
    some false
  | .deckReset bc | .unknownAction bc _ | .announce bc _ | .cutSoft bc _ | .cutHard bc _ | .scene bc _
  | .groupPreset bc _ _ _ | .groupFields bc _ _ _ _ _ _ _ _ _ | .groupStart bc _ | .groupStop bc _
  | .groupPending bc _ _ _ | .groupHold bc _ _ | .supplyOn bc | .supplyOff bc | .routeArm bc _ _ | .routeDisarm bc
  | .stopClear bc | .seat bc _ | .quiet bc _ _ | .clipLock bc _ _ | .clipUnlock bc _ _ _ | .cacheFlush bc => some bc
  | .powerOn | .resetLineAssert | .resetLineRelease | .warmUpEnd _ | .validSlot _ _ _ | .invalidSlot _ _
  | .downstreamReturnFrame _ | .deckResetEffect | .tick | .boxReply _ | .talkHangExpiry | .voicesFinished | .gapExpiry _
  | .clipStall _ | .fadeEnd _ | .fetchComplete | .memoryReady | .maintenanceTimeout | .scanFrameBoundary
  | .supplyRampDone | .supplyRampTimeout | .supplyGoodLost | .deckAlarmInput _ | .overrideClear | .powerFail => none

/-- The commands that act in warm-up: the power and reset lines, the end of warm-up, the tick, and the clip memory's
ready indication (R188, R163). -/
def actsInWarmUp : Instr → Bool
  | .powerOn | .powerFail | .resetLineAssert | .resetLineRelease | .warmUpEnd _ | .tick | .memoryReady => true
  | _ => false

/-- A notice is in the queue, or was dropped with the lost flag set (R33). -/
def noticed (n : Notice) (t : State) : Prop := n ∈ t.cth.notices ∨ t.cth.lost = true

/-! ## Slots (R3, R7, R8) -/

/-- The command that an event of a slot end is by itself; a block's tick is a part of TICK. -/
def rowOf : EndEvent → Instr
  | .tick | .tickAt _ => .tick
  | .downstreamReturnFrame f => .downstreamReturnFrame f
  | .boxReply r => .boxReply r
  | .deckResetEffect => .deckResetEffect
  | .talkHangExpiry => .talkHangExpiry
  | .voicesFinished => .voicesFinished
  | .gapExpiry v => .gapExpiry v
  | .clipStall v => .clipStall v
  | .fadeEnd v => .fadeEnd v
  | .fetchComplete => .fetchComplete
  | .memoryReady => .memoryReady
  | .maintenanceTimeout => .maintenanceTimeout
  | .scanFrameBoundary => .scanFrameBoundary
  | .supplyRampDone => .supplyRampDone
  | .supplyRampTimeout => .supplyRampTimeout
  | .supplyGoodLost => .supplyGoodLost
  | .deckAlarmInput low => .deckAlarmInput low
  | .overrideClear => .overrideClear

/-- What a command makes of a state. -/
def rowEffect (c : Instr) (s : State) : State := match exec c s with | .next t => t | _ => s

/-- What an event of a slot end makes of a state: what its command does; a block's tick does what TICK does with the
tick due to that block alone, and leaves it due to the others. -/
def eventEffect (e : EndEvent) (s : State) : State :=
  match e with
  | .tickAt b =>
    let t := rowEffect .tick { s with tif := { s.tif with tickFor := s.tif.tickFor.filter (· == b) } }
    { t with tif := { t.tif with tickFor := s.tif.tickFor.filter (· != b) } }
  | _ => rowEffect (rowOf e) s

/-- The command ends a slot whose period trunk-in filled with `ws`, and the receiver finds the frame `f` in it, or none
(R3): the slot is VALID with a frame and INVALID without. A frame found by hunting is not meant, as it shortens a period. -/
def slotHas (c : Instr) (ws : TrunkWords) (f : Option (Vector Word16 21)) (order : List SlotEvent) (s : State) : Prop :=
  ((∃ lead g trail short, c = .validSlot ⟨lead, g, trail⟩ short order ∧ ws = lead ++ g.toList.map some ++ trail) ∨
    c = .invalidSlot ws order) ∧
  ((s.tif.receiver = .expecting ∧ frameInWindow ws = f) ∨
    (s.tif.receiver = .hunting ∧ huntFrame ws = none ∧ f = none))

/-- No event but the slot's own is taken inside the slot command. -/
def ownEvents (order : List SlotEvent) : Prop := ∀ e, SlotEvent.also e ∉ order

/-- What the voices give in the period that a slot command ends, with the state after it (R136, R139). It is made from
the state, the return frame sent. -/
def voicesStep (s : State) (p : State × List VoiceOut) : Prop :=
  ∃ sent : State, { sent with cth := s.cth, tif := s.tif, out := s.out } = s ∧ sent.cth.settings = s.cth.settings ∧
    p = playVoices sent

/-! ## Presses (R50, R51) -/

/-- A language after one press: the lowest offered above it, else the lowest offered, else itself (R50). -/
def nextLang (offered : List Lang) (l : Lang) : Lang := (offered.filter (fun k => decide (l < k)) ++ offered).headD l

/-- A seat after the language and volume presses of a reply, whose fields start at the given bit of its second word
(R46, R50, R51): they count where it is enabled and present. -/
def pressedSeat (offered : List Lang) (w : Word16) (lo : Nat) (x : Seat) : Seat :=
  let field := fun n : Nat => (w.extractLsb' (lo + n) 2).toNat
  if x.enabled = true ∧ x.present = true then
    { x with
      lang := match field 0 with
        | 0 => x.lang
        | 1 => nextLang offered x.lang
        | 2 => nextLang offered (nextLang offered x.lang)
        | _ => nextLang offered (nextLang offered (nextLang offered x.lang)),
      volume := min 15 (x.volume + field 2 - field 4) }
  else x

/-! ## Lamp groups (R169) -/

/-- A group after a stop (R169). -/
def afterStop (x : Group) : Group :=
  if x.running then
    { x with running := false, phaseOn := true, begun := false, framesLeft := 0, pulsesLeft := 0, level := 0,
             ign := .dark, stands := false }
  else x

/-- A group after a start (R169). -/
def afterStart (x : Group) : Group :=
  if x.pat.mode = .off then afterStop x
  else { x with running := true, phaseOn := true, begun := false, framesLeft := 0, pulsesLeft := x.pat.pulseCount,
                stands := false }

/-- A group after one write of its seven pattern fields (R168). -/
def afterPattern (p : Pattern) (x : Group) : Group :=
  let y : Group := { x with pat := p }
  if x.running ∧ p.mode = .off then afterStop y
  else if x.running ∧ p.mode ≠ x.pat.mode then afterStart y
  else y

/-- The groups a change reaches take their new records, and the ones it leaves not running leave the ignition queue. -/
def withGroups (f : GroupNo → Group → Group) (s : State) : State :=
  { s with lmc := { s.lmc with
      groups := Vector.ofFn fun g => f g (s.lmc.groups.get g),
      ignQueue := s.lmc.ignQueue.filter fun g =>
        !((s.lmc.groups.get g).running && !(f g (s.lmc.groups.get g)).running) } }

/-- One group changed, the others as they were. -/
def onlyGroup (g : GroupNo) (f : Group → Group) : GroupNo → Group → Group := fun k x => if k = g then f x else x

/-- A group whose phase begins at a boundary, with its length and level; an ON phase adopts a pending pair first
(R170, R173). -/
def newPhase (x : Group) : Group :=
  let pair := if x.phaseOn then x.pending.getD (x.pat.onLen, x.pat.offLen) else (x.pat.onLen, x.pat.offLen)
  let y : Group :=
    { x with pat := { x.pat with onLen := pair.1, offLen := pair.2 }, pending := if x.phaseOn then none else x.pending,
             begun := true }
  match x.pat.mode with
  | .off => x
  | .steady => { y with framesLeft := 0, level := x.pat.levelOn }
  | .blink | .pulses =>
    { y with framesLeft := if x.phaseOn then pair.1 else pair.2,
             level := if x.phaseOn then x.pat.levelOn else x.pat.levelOff }
  | .fade => { y with framesLeft := x.pat.fadeStep }

/-- The boundary ends a PULSES group's last burst (R172). -/
def lastBurst (x : Group) : Bool :=
  x.begun && !x.stands && x.pat.mode == .pulses && decide (x.framesLeft ≤ 1) && !x.phaseOn && decide (x.pulsesLeft ≤ 1)

/-- A running group at a boundary (R170 to R172): first as it stands where its rise from level 0 is held, then as it is
where the advance is made. -/
def counted (x : Group) : Group × Group :=
  let whole := fun y : Group => (y, y)
  if x.stands then whole { x with stands := false }
  else if x.begun = false then (x, newPhase x)
  else if lastBurst x then whole (afterStop x)
  else match x.pat.mode with
    | .off => whole x
    | .steady => (x, { x with level := x.pat.levelOn })
    | .blink | .pulses =>
      if 1 < x.framesLeft then
        (x, { x with framesLeft := x.framesLeft - 1, level := if x.phaseOn then x.pat.levelOn else x.pat.levelOff })
      else
        let y : Group :=
          { x with phaseOn := !x.phaseOn, begun := false, framesLeft := 0,
                   pulsesLeft := if x.pat.mode = .pulses ∧ x.phaseOn = false then x.pulsesLeft - 1 else x.pulsesLeft }
        (y, newPhase y)
    | .fade =>
      if x.level = x.pat.levelOn then whole { x with framesLeft := 0 }
      else if 1 < x.framesLeft then whole { x with framesLeft := x.framesLeft - 1 }
      else
        ({ x with framesLeft := 0 },
         { x with level := if x.level < x.pat.levelOn then x.level + 1 else x.level - 1, framesLeft := x.pat.fadeStep })

/-- A WAITING group with its held change made at its grant (R183): its phase begins, or it shows the level it was queued
with, or its held count is made. That a group queued above level 0 with its phase not begun begins it is the model's
(notes/assumptions/46.md). -/
def grantedGroup (x : Group) : Group :=
  if x.begun = false then newPhase x else if 0 < x.level then x else (counted x).2

/-- A group when an announcement becomes current: started where its start source qualifies (R125, R174). -/
def lampStarts (a : Announcement) : GroupNo → Group → Group := fun _ x =>
  match x.source with
  | .announce m k => if (m &&& a.mask) ≠ 0 ∧ k ≤ a.priority then afterStart x else x
  | _ => x

/-- A group when an announcement is no longer current: stopped where its start source qualifies and it follows (R125,
R174). -/
def lampEnds (a : Announcement) : GroupNo → Group → Group := fun _ x =>
  match x.source with
  | .announce m k => if (m &&& a.mask) ≠ 0 ∧ k ≤ a.priority ∧ x.follow = true then afterStop x else x
  | _ => x

/-! ## Voices (R130 to R132, R138 to R140) -/

/-- A cache sector is VALID with a sector of clip memory (R148). -/
def sectorValid (s : State) (k : Nat) : Bool :=
  (List.finRange 32).any fun i => match s.ccc.lines.get i with
    | .valid j _ => j == k
    | .filling _ | .invalid => false

/-- The first of some items that resolves in a language (R134), with the number of items passed over before it. -/
def firstClip (s : State) (items : List Item) (l : Lang) : Option (Nat × Clip) :=
  (List.range items.length).findSome? fun n => items[n]?.bind fun it => (resolveItem s it l).map fun c => (n, c)

/-- The language of a role, that of a SPEAKER by its round (R134). -/
def roleLang (role : Role) (langs : List Lang) (round : Nat) : Lang :=
  match role with
  | .headset l => l
  | .speaker => langs.getD round 0

/-- A speaker progress after its voice has finished some more items; a HEADSET voice's items do not count (R133). -/
def progressed (role : Role) (n : Nat) (p : Progress) : Progress :=
  match role with
  | .headset _ => p
  | .speaker => { p with items := p.items + n }

/-- A voice that starts an item with its clip: it plays at once where the clip's first sector is VALID (R135). -/
def startsClip (s : State) (c : Clip) (x : Voice) : Voice :=
  { x with state := if sectorValid s c.first then .playing else .priming, clip := some c, position := 0, cur := some c.first,
           next := none, stall := 0 }

/-- What a voice comes to where no item that remains of its round resolves (R133, R134, R138): it starts an item of a later
round with its clip, rests in GAP after a round, or finishes with a round. -/
inductive Onward where
  | starts (round item : Nat) (clip : Clip)
  | rests (round : Nat)
  | finishes (round : Nat)
deriving DecidableEq, Repr

/-- The languages of the rounds after one: a HEADSET voice plays one round (R133). -/
def laterLangs (role : Role) (langs : List Lang) (round : Nat) : List Lang :=
  match role with
  | .headset _ => []
  | .speaker => langs.drop (round + 1)

/-- A round is passed, with the languages of the rounds after it: the voice rests in GAP, or with round gap 0 the next
round is gone through in the same event, and after the last it finishes (R133, R134, R138). -/
def afterRound (s : State) (items : List Item) : Nat → List Lang → Onward
  | round, [] => .finishes round
  | round, l :: later =>
    if 0 < s.cth.settings.gap then .rests round
    else match firstClip s items l with
      | some (n, c) => .starts (round + 1) n c
      | none => afterRound s items (round + 1) later

/-- The voice there: on its item, in GAP on the last item of its round, or IDLE (R133, R135, R138). -/
def onwardVoice (s : State) (items : List Item) (x : Voice) : Onward → Voice
  | .starts round item c => startsClip s c { x with round := round, item := item }
  | .rests round =>
    { x with state := .gap, round := round, item := items.length - 1, clip := none, position := 0, cur := none, next := none,
             gap := 0, gapKept := s.cth.settings.gap }
  | .finishes _ => Reset.voice

/-- The speaker progress there, `p` being the one with the items of the first round gone through: a later round's items
passed over before the one started, or all of them (R133). -/
def onwardProgress (items : List Item) (round : Nat) (p : Progress) : Onward → Progress
  | .starts k n _ => { round := k, items := n }
  | .rests k | .finishes k => if k = round then p else { round := k, items := items.length }

/-- The voice renders an announcement, in a state that a stop sends to ENDING (R139). -/
def sounding (owner : Nat) (x : Voice) : Bool :=
  x.owner == some owner && (x.state == .priming || x.state == .playing || x.state == .starved || x.state == .gap)

/-- A voice that a map names is still ENDING for the map's announcement (R132). -/
def fades (voices : Vector Voice 8) (p : PrevMap) : Bool :=
  (List.finRange 64).any fun i => match p.map.get i with
    | some (.voice v) => decide ((voices.get v).state = .ending) && decide ((voices.get v).owner = some p.owner)
    | _ => false

/-- VPL's end report (R138): made, with the played flag, where every voice of the current announcement has finished, a voice
claimed in ENDING not having finished; a TALK has none. -/
def reported (s t : State) : Prop :=
  let waits := fun (owner : Nat) (x : Voice) => x.state == .ending && x.claim.any fun c => c.owner == owner
  t.asq.report = match t.vpl.rendering with
    | none => s.asq.report
    | some r =>
      if r.talk = false ∧ ∀ v, sounding r.owner (t.vpl.voices.get v) = false ∧ waits r.owner (t.vpl.voices.get v) = false then
        some (r.owner, r.played)
      else s.asq.report

/-- The rendering of the current announcement stops (R132, R139, R140): its voices enter ENDING with its mask and
priority as their fade's, every claim is dropped, the record is discarded, and its map is the previous map where a voice
enters ENDING, kept while one it names is ENDING; a report of its end not yet taken is dropped. The fetch queue and the
port follow. -/
def silenced (s u : State) : Prop :=
  (match s.vpl.rendering with
   | none => u.vpl = s.vpl
   | some r =>
     (∀ v, u.vpl.voices.get v =
       let x := s.vpl.voices.get v
       if sounding r.owner x then
         { x with state := .ending, next := none, fade := 0, claim := none, fadeZones := some (r.mask, r.priority),
                  fadeSilent := decide (x.state ≠ .playing) }
       else { x with claim := none }) ∧
     u.vpl.rendering = none ∧
     u.vpl.prev = ((if ∃ v, sounding r.owner (s.vpl.voices.get v) = true then some { owner := r.owner, map := r.map }
       else s.vpl.prev).filter (fades u.vpl.voices))) ∧
  (s.ccc.queue = [] → u.ccc.lines = s.ccc.lines) ∧
  { u.ccc with lines := s.ccc.lines, lru := s.ccc.lru, queue := s.ccc.queue } = s.ccc ∧
  { u with asq := s.asq, vpl := s.vpl, ccc := s.ccc, cmp := s.cmp } = s ∧ u.asq = { s.asq with report := none }

/-- An announcement that starts or resumes takes voices (R119, R130, R140) and makes its seat map (R131): one for the
speakers unless it is for the headsets, from round 0, or at a resume from the interrupted round or the one after a
finished one, where there is one; one for its primary language unless it is for the speakers, then one for each other
language of the seats that count, by their number and then by language; the IDLE voices first and then those in ENDING,
lowest number first. An IDLE voice starts the first item that resolves, those before it passed over; with none in its round
it is in GAP after it, or with round gap 0 goes on to the next, or finishes (R133, R134, R138); one in ENDING takes a claim;
every other claim is dropped. A TALK takes no voice, and every seat of its mask hears the talk sample. -/
def rendered (a : Announcement) (resumed : Bool) (u t : State) : Prop :=
  t.vpl.prev = u.vpl.prev ∧
  match a.source with
  | .talk =>
    t.asq.report = u.asq.report ∧
    t.vpl.voices = mapTable (fun x => { x with claim := none }) u.vpl.voices ∧
    t.vpl.rendering = some
      { owner := a.id, priority := a.priority, mask := a.mask, rendering := a.rendering, items := [], langs := a.langs,
        progress := { round := 0, items := 0 }, played := a.played, softCut := false, talk := true,
        map := Vector.ofFn fun i => if a.mask.getLsbD (u.scc.seats.get i).zone.val then some .talk else none }
  | .phrase p =>
    let items := u.asq.phrases.get p
    let primary := if a.rendering = .speakers then none else a.langs.head?
    let round : Option Nat :=
      if a.rendering = .headsets then none
      else if resumed = false then some 0
      else if a.resume.items < items.length then some a.resume.round
      else if a.resume.round + 1 < a.langs.length then some (a.resume.round + 1)
      else none
    let counts := fun i : SeatNo =>
      let x := u.scc.seats.get i
      x.present && x.enabled && a.mask.getLsbD x.zone.val
    let number := fun l : Lang =>
      ((List.finRange 64).filter fun i => counts i && decide ((u.scc.seats.get i).lang = l)).length
    let free := (List.finRange 8).filter (fun v => decide ((u.vpl.voices.get v).state = .idle)) ++
      (List.finRange 8).filter (fun v => decide ((u.vpl.voices.get v).state = .ending))
    let first := fun role : Role => firstClip u items (roleLang role a.langs (round.getD 0))
    ∃ others r,
      (if a.rendering = .speakers then others = []
       else others.Nodup ∧ (∀ l, l ∈ others ↔ 0 < number l ∧ a.langs.head? ≠ some l) ∧
         others.Pairwise fun k l => number l < number k ∨ (number k = number l ∧ k < l)) ∧
      let roles := round.toList.map (fun _ => Role.speaker) ++ primary.toList.map Role.headset ++ others.map Role.headset
      let taken := free.zip roles
      let served := fun role : Role => (taken.find? fun q => decide (q.2 = role)).map Prod.fst
      let begins := fun role : Role => if role = .speaker then round.getD 0 else 0
      (∀ q ∈ taken, (u.vpl.voices.get q.1).state = .ending → t.vpl.voices.get q.1 =
        { u.vpl.voices.get q.1 with claim := some { owner := a.id, role := q.2, round := begins q.2 } }) ∧
      let taking := fun role : Role => { Reset.voice with owner := some a.id, role := role, round := begins role }
      let passed := fun role : Role => afterRound u items (begins role) (laterLangs role a.langs (begins role))
      (∀ q ∈ taken, ∀ n c, (u.vpl.voices.get q.1).state = .idle → first q.2 = some (n, c) →
        t.vpl.voices.get q.1 = startsClip u c { taking q.2 with item := n }) ∧
      (∀ q ∈ taken, (u.vpl.voices.get q.1).state = .idle → first q.2 = none → items ≠ [] →
        t.vpl.voices.get q.1 = onwardVoice u items (taking q.2) (passed q.2)) ∧
      (∀ v, (∀ q ∈ taken, q.1 ≠ v) → t.vpl.voices.get v = { u.vpl.voices.get v with claim := none }) ∧
      t.vpl.rendering = some r ∧ reported u t ∧
      (let starts := taken.any fun q => decide (q.2 = .speaker) && decide ((u.vpl.voices.get q.1).state = .idle)
       (round = none → r.progress = a.resume) ∧
       ∀ k, round = some k →
         (starts = false → r.progress = { round := k, items := 0 }) ∧
         (starts = true →
           (∀ n c, first .speaker = some (n, c) → r.progress = { round := k, items := n }) ∧
           (first .speaker = none → items ≠ [] →
             r.progress = onwardProgress items k { round := k, items := items.length } (passed .speaker)))) ∧
      { r with progress := a.resume } =
        { owner := a.id, priority := a.priority, mask := a.mask, rendering := a.rendering, items := items, langs := a.langs,
          progress := a.resume, played := a.played, softCut := false, talk := false,
          map := Vector.ofFn fun i =>
            let x := u.scc.seats.get i
            let own := if a.rendering ≠ .speakers ∧ counts i = true then served (.headset x.lang) else none
            if a.mask.getLsbD x.zone.val then
              some (match own, served .speaker, primary.bind fun l => served (.headset l) with
                | some v, _, _ | none, some v, _ | none, none, some v => .voice v
                | none, none, none => .silent)
            else none }

/-- The sector that an ended erase or program touched is invalidated (R161): no cache sector is VALID with it, the one
that was leaves the use order, and a locked one is queued again or fetched. A voice PLAYING it is STARVED, one fading on
it gives 0 for the rest of its fade, and one that needs it asks for it again at its urgency, or has it fetched (R142).
With no cache sector VALID with it the voices go on. -/
def invalidated (k : Nat) (s t : State) : Prop :=
  let held := ∃ i data, s.ccc.lines.get i = .valid k data
  let fetched := ∃ i, t.ccc.lines.get i = .filling k
  (∀ i data, t.ccc.lines.get i ≠ .valid k data) ∧
  (∀ i data, s.ccc.lines.get i = .valid k data → i ∉ t.ccc.lru) ∧
  (¬held → t.vpl = s.vpl) ∧
  (held → { t.vpl with voices := s.vpl.voices } = s.vpl ∧
    (k ∈ s.ccc.locks → fetched ∨ ∃ e ∈ t.ccc.queue, e.sector = k) ∧
    ∀ v, let x := s.vpl.voices.get v
      t.vpl.voices.get v =
        (if x.cur = some k ∧ x.state = .ending then { x with fadeSilent := true }
         else if x.cur = some k ∧ x.state = .playing ∧ s.vpl.rendering.isSome = true then { x with state := .starved, stall := 0 }
         else x) ∧
      ∀ r, s.vpl.rendering = some r →
        ((x.cur = some k ∧ (x.state = .playing ∨ x.state = .priming ∨ x.state = .starved)) ∨
          (x.next = some k ∧ (x.state = .playing ∨ x.state = .starved))) →
        fetched ∨ ∃ e ∈ t.ccc.queue, e.sector = k ∧ v ∈ e.waiting ∧ r.priority.val + 1 ≤ e.urgency)

/-! ## Announcements (R114 to R118) -/

/-- x stands before y (R115): by priority, the highest first, and within a priority by arrival, the oldest first. -/
def goesBefore (x y : Announcement) : Bool :=
  decide (y.priority < x.priority) || (decide (x.priority = y.priority) && decide (x.arrival < y.arrival))

/-- The stale limit is passed (R105, R114): the route is RUNNING or COMPLETE and has been stepped above the limit. -/
def passedLimit (s : State) (a : Announcement) : Bool :=
  a.stale.any fun l =>
    (decide (s.rce.state = .running) || decide (s.rce.state = .complete)) && decide (l < s.rce.lastOdo)

/-- Why selection passes over a candidate (R118): STALE past its limit, FAILED with an empty phrase. -/
def refusal (s : State) (a : Announcement) : Option AnnOutcome :=
  if passedLimit s a then some .stale
  else match a.source with
    | .talk => none
    | .phrase p => if s.asq.phrases.get p = [] then some .failed else none

/-- What selection comes to: the announcement made current and whether it resumes, the stack and the queue left, and the
notices of the candidates passed over, in their order. -/
structure Selection where
  chosen : Option (Announcement × Bool)
  stack : List Announcement
  queue : List Announcement
  ends : List Notice

/-- Selection from a stack and a queue (R118): the stack's top and the queue's head are candidates, the higher priority wins
and on equal priorities the stack's top, and a candidate passed over ends with its notice and the next is judged. -/
def selected (s : State) : Nat → List Announcement → List Announcement → Selection
  | 0, stack, queue => { chosen := none, stack := stack, queue := queue, ends := [] }
  | n + 1, stack, queue =>
    let resumes := match stack.head?, queue.head? with
      | some x, some y => decide (y.priority ≤ x.priority)
      | some _, none => true
      | none, _ => false
    match (if resumes then stack else queue) with
    | [] => { chosen := none, stack := stack, queue := queue, ends := [] }
    | a :: rest =>
      let stack' := if resumes then rest else stack
      let queue' := if resumes then queue else rest
      match refusal s a with
      | none => { chosen := some (a, resumes), stack := stack', queue := queue', ends := [] }
      | some o =>
        let next := selected s n stack' queue'
        { next with ends := .announceEnd a.id o :: next.ends }

/-- Selection from the stack and queue of a state. -/
def chosen (s : State) : Selection :=
  selected s (s.asq.stack.length + s.asq.queue.length) s.asq.stack s.asq.queue

/-- The current announcement ended with an outcome and selection followed (R118, R124, R125): its notice is queued and then
those of the candidates passed over, its voices enter ENDING and its lamps stop, the chosen announcement is current, renders
and starts its lamps, and ZOU's summary and duck targets are its own. No block but ASQ, ZOU, VPL, CCC, CMP and LMC changed,
nor CTH but for its notices and, as `replies` gives, its replies. -/
def endedWith (c : Announcement) (o : AnnOutcome) (replies : List Place) (s t : State) : Prop :=
  let next := (chosen s).chosen.map Prod.fst
  t.cth = { ((.announceEnd c.id o :: (chosen s).ends).foldl (fun x n => pushNotice n x) s).cth with replies := replies } ∧
  { t.asq with report := none } =
    { s.asq with current := next, stack := (chosen s).stack, queue := (chosen s).queue, softCut := false, report := none } ∧
  { t.zou with zones := s.zou.zones } = { s.zou with summary := next.map fun a =>
    { mask := a.mask, priority := a.priority, talk := decide (a.source = .talk) } } ∧
  (∀ z, t.zou.zones.get z = { s.zou.zones.get z with duck := match next with
    | none => 0
    | some a => if a.mask.getLsbD z.val then s.cth.settings.duck.get a.priority else 0 }) ∧
  (∃ u, silenced s u ∧ match (chosen s).chosen with
    | none => t.vpl = u.vpl ∧ t.asq.report = none
    | some (a, resumed) => rendered a resumed u t) ∧
  t.lmc = (match next with
    | none => withGroups (lampEnds c) s
    | some a => withGroups (lampStarts a) (withGroups (lampEnds c) s)).lmc ∧
  { t with cth := s.cth, asq := s.asq, zou := s.zou, vpl := s.vpl, ccc := s.ccc, cmp := s.cmp, lmc := s.lmc } = s

/-- A queue with an announcement at the place that priority and arrival give it (R115). -/
def queuedIn (x : Announcement) (q : List Announcement) : List Announcement :=
  q.takeWhile (fun y => !goesBefore x y) ++ x :: q.dropWhile (fun y => !goesBefore x y)

/-- What the current announcement leaves when one preempts it: the stack, the queue and its notice (R116, R117). Under a
soft cut it ends CUT; a TALK returns to the queue, where a full queue displaces its last entry of a lower priority or
the TALK itself; any other goes on the stack with its resume point. -/
def givesWay (c : Announcement) (s : State) : List Announcement × List Announcement × Option Notice :=
  if s.asq.softCut then (s.asq.stack, s.asq.queue, some (.announceEnd c.id .cut))
  else if c.source = .talk then
    if s.asq.queue.length < 16 then (s.asq.stack, queuedIn c s.asq.queue, none)
    else match s.asq.queue.getLast? with
      | none => (s.asq.stack, s.asq.queue, none)
      | some y =>
        if y.priority < c.priority then
          (s.asq.stack, queuedIn c s.asq.queue.dropLast, some (.announceEnd y.id .displaced))
        else (s.asq.stack, s.asq.queue, some (.announceEnd c.id .displaced))
  else
    ({ c with
       resume := if c.rendering = .headsets then { round := 0, items := 0 }
         else match s.vpl.rendering with | some r => r.progress | none => { round := 0, items := 0 },
       played := match s.vpl.rendering with | some r => r.played | none => false } :: s.asq.stack, s.asq.queue, none)

/-- A notice queued, where there is one. -/
def told (n : Option Notice) (s : State) : State := match n with | none => s | some n => pushNotice n s

/-- A new announcement has become current, out of `c` where one was (R78, R114, R116, R125): its id and arrival are
issued, what `c` leaves is as `givesWay` says, `c`'s voices are in ENDING and its lamps stopped, the new one renders and
starts its lamps, and ZOU's summary and duck targets are its own. -/
def madeCurrent (x : Announcement) (c : Option Announcement) (s t : State) : Prop :=
  let left := match c with | none => (s.asq.stack, s.asq.queue, none) | some c => givesWay c s
  { t.asq with report := none } =
    { s.asq with current := some x, stack := left.1, queue := left.2.1, softCut := false, lastId := x.id,
                 nextArrival := s.asq.nextArrival + 1, report := none } ∧
  { t.zou with zones := s.zou.zones } = { s.zou with
    summary := some { mask := x.mask, priority := x.priority, talk := decide (x.source = .talk) } } ∧
  (∀ z, t.zou.zones.get z =
    { s.zou.zones.get z with duck := if x.mask.getLsbD z.val then s.cth.settings.duck.get x.priority else 0 }) ∧
  (match c with
   | none => rendered x false s t
   | some _ => ∃ u, silenced s u ∧ rendered x false u t) ∧
  t.lmc = (withGroups (lampStarts x) (match c with | none => s | some c => withGroups (lampEnds c) s)).lmc ∧
  { t with cth := s.cth, asq := s.asq, zou := s.zou, vpl := s.vpl, ccc := s.ccc, cmp := s.cmp, lmc := s.lmc } = s

/-- A new announcement is placed against the current one (R114): STALE where it would be heard past its limit; current
where none is, or where it has the higher priority; else into the queue by priority and arrival, where a full queue
displaces its last entry of a lower priority or refuses (R115). -/
def placed (x : Announcement) (s t : State) : Prop :=
  let issued : State := { s with asq := { s.asq with lastId := x.id, nextArrival := s.asq.nextArrival + 1 } }
  match s.asq.current with
  | none =>
    if passedLimit s x then t = pushNotice (.announceEnd x.id .stale) issued
    else madeCurrent x none s t ∧ t.cth = s.cth
  | some c =>
    if c.priority < x.priority then
      if passedLimit s x then t = pushNotice (.announceEnd x.id .stale) issued
      else madeCurrent x (some c) s t ∧ t.cth = (told (givesWay c s).2.2 s).cth
    else
      (s.asq.queue.length < 16 → t = { issued with asq := { issued.asq with queue := queuedIn x s.asq.queue } }) ∧
      ∀ rest y, s.asq.queue = rest ++ [y] → 16 ≤ s.asq.queue.length →
        t = if y.priority < x.priority then
            pushNotice (.announceEnd y.id .displaced) { issued with asq := { issued.asq with queue := queuedIn x rest } }
          else pushNotice (.announceEnd x.id .refused) issued

/-! ## What every step keeps -/

/-- The bounded queues and tables are within their places, and the route's counts within their ranges (R10, R23, R32,
R33, R91, R97, R156), the lock table rises and names no sector twice (R147), and a volume and a default volume are at
most 15 (R38, R51); the receiver hunts only out of LOCKED with no VALID slot counted (R3, R6, R8), no delivery waits for
its block between two commands (notes/assumptions/7.md), and the override's flag source is the deck alarm flag (R184).
-/
def Bounded (s : State) : Prop :=
  s.cth.replies.length ≤ 4 ∧ s.cth.notices.length ≤ 16 ∧ s.ccc.locks.length ≤ 16 ∧ s.tif.drive.odometer < 65536 ∧
    s.rce.lastOdo < 65536 ∧ s.rce.count ≤ 256 ∧ s.rce.cursor ≤ s.rce.count ∧
    (s.tif.receiver = .hunting → s.tif.trunk ≠ .locked ∧ s.tif.validRun = 0) ∧ s.rce.due = [] ∧
    s.lmc.flagSource = s.tif.drive.alarm ∧ s.ccc.locks.Pairwise (· < ·) ∧
    ∀ i, (s.scc.seats.get i).volume ≤ 15 ∧ (s.scc.seats.get i).defVolume ≤ 15

/-- Every applied index of a seat lies between its cap and mute, every cap is at most 24, and every applied index of a
zone is at most mute (R38, R64, R83). -/
def GainsHeld (s : State) : Prop :=
  (∀ i, (s.scc.seats.get i).cap ≤ 24 ∧ (s.scc.seats.get i).cap ≤ (s.hmx.gains.get i).gc ∧
    (s.hmx.gains.get i).gc ≤ 121 ∧ (s.scc.seats.get i).cap ≤ (s.hmx.gains.get i).ga ∧ (s.hmx.gains.get i).ga ≤ 121) ∧
  ∀ z, (s.zou.zones.get z).gp ≤ 121 ∧ (s.zou.zones.get z).gs ≤ 121

/-- The ignition queue names a group at most once and only while it is running and WAITING, every WAITING group is in it,
and it is empty unless the supply is READY and the override CLEAR; a group not running stands at level 0 and is not
WAITING, and one of mode OFF is not running (R168, R169, R178, R181, R185). -/
def IgnitionKept (s : State) : Prop :=
  s.lmc.ignQueue.Nodup ∧
  (∀ g, g ∈ s.lmc.ignQueue ↔ (s.lmc.groups.get g).ign = .waiting) ∧
  (∀ g, (s.lmc.groups.get g).ign = .waiting → (s.lmc.groups.get g).running = true) ∧
  (∀ g, (s.lmc.groups.get g).running = false → (s.lmc.groups.get g).level = 0) ∧
  (∀ g, (s.lmc.groups.get g).pat.mode = .off → (s.lmc.groups.get g).running = false) ∧
  (¬(s.lmc.supply = .ready ∧ s.lmc.override = .clear) → s.lmc.ignQueue = [])

/-- The clip memory is in canonical form, and so is the copy in every VALID cache sector (R145, R148). -/
def MemoryKept (s : State) : Prop :=
  s.dev.bytes.wf = true ∧ ∀ i k data, s.ccc.lines.get i = .valid k data → Memory.wf data = true

/-- No maintenance operation waits to start with the port READY: the arbiter at the end of each event has started it
(R154). -/
def PortSettled (s : State) : Prop := s.cmp.fetch = none → ∀ m, s.cmp.maint = some m → m.stage ≠ .pending

/-- The port and the memory agree (R154, R160, R161): an operation waits to start only while a fetch runs, a started one has
no fetch beside it and, while it waits for ready, a busy memory; once it is sent the memory runs that very operation, or
nothing where it is a read; in warm-up none stands (R163). Past warm-up at most one reply place is RESERVED, for the
operation that is pending or in progress (R26, R159). What the chip has given up the memory still runs, which is the
model's (notes/assumptions/5.md). -/
def PortKept (s : State) : Prop :=
  PortSettled s ∧ (s.power.running = false → s.cmp.maint = none) ∧ (s.dev.givenUp = true → s.dev.busy ≠ none) ∧
  (∀ a n, s.dev.busy ≠ some (.read a n)) ∧
  (s.power.running = true →
    (s.cth.replies.filter fun p => p.state == .reserved).length ≤ if s.cmp.maint.isSome then 1 else 0) ∧
  ∀ m, s.cmp.maint = some m → m.stage ≠ .pending →
    s.cmp.fetch = none ∧ (m.stage = .waitReady → s.dev.busy ≠ none) ∧
    (m.stage = .sent → s.dev.givenUp = false ∧ s.dev.busy = match m.op with | .read _ _ => none | op => some op)

/-- Past warm-up the cache holds no tag twice, the sector being fetched is FILLING and no other is, and the fetch queue
names each sector once and none that the cache holds (R148, R150, R153, R155). -/
def CacheKept (s : State) : Prop :=
  s.power.running = true →
  (∀ i j k, (s.ccc.lines.get i).tag = some k → (s.ccc.lines.get j).tag = some k → i = j) ∧
  (∀ i k, s.ccc.lines.get i = .filling k ↔ ∃ f, s.cmp.fetch = some f ∧ f.line = i ∧ f.sector = k) ∧
  (s.ccc.queue.map FetchEntry.sector).Nodup ∧
  ∀ e ∈ s.ccc.queue, ∀ i, (s.ccc.lines.get i).tag ≠ some e.sector

/-- The announcements are kept (R109, R110, R115, R116, R118): live ids are 1 to 255 and no two are equal, arrivals are
issued in order, the queue holds at most 16 in the order of R115, the priorities of the current announcement and the
stack below it strictly fall, and with none current the stack and the queue are empty. -/
def AnnouncementsKept (s : State) : Prop :=
  s.asq.lastId ≤ 255 ∧
  (∀ a ∈ liveAnnouncements s, 1 ≤ a.id ∧ a.id ≤ 255 ∧ a.arrival < s.asq.nextArrival) ∧
  (liveAnnouncements s).Pairwise (fun a b => a.id ≠ b.id ∧ a.arrival ≠ b.arrival) ∧
  s.asq.queue.length ≤ 16 ∧
  s.asq.queue.Pairwise (fun a b => goesBefore a b = true) ∧
  (s.asq.current.toList ++ s.asq.stack).Pairwise (fun a b => b.priority < a.priority) ∧
  (s.asq.current = none → s.asq.stack = [] ∧ s.asq.queue = [])

/-- The grant history holds at most 4 ticks in their order, none after the present one, and while groups ask for light a
running group above level 0 is LIT or WAITING (R181, R182). -/
def BudgetKept (s : State) : Prop :=
  s.lmc.history.length ≤ 4 ∧ s.lmc.history.Pairwise (· ≤ ·) ∧ (∀ n ∈ s.lmc.history, n ≤ s.lmc.ticks) ∧
  (s.lmc.supply = .ready → s.lmc.override = .clear → ∀ g, (s.lmc.groups.get g).running = true → 0 < (s.lmc.groups.get g).level →
    (s.lmc.groups.get g).ign ≠ .dark)

end Sys2Proof.Machine
end

