-- ==== Sys2Proof/Certificates/Slice0/Obligations.lean ====
section
/-! DEFINITION. The statements for the provers. Each names the rules it follows; a clause that rests on a choice of the
model names the log entry. -/

open Sys2Proof Sys2Proof.Machine

/-! ## The machine -/

/-- A step runs the command at the front of the queue with the queue's rest, and idles on an empty queue
(notes/assumptions/2.md for the idle step). -/
def Obligations.StepRunsFrontCommand : Prop :=
  (∀ (c : Instr) (rest : List Instr) (s : State), s.pending = c :: rest → step s = exec c { s with pending := rest }) ∧
  ∀ s : State, s.pending = [] → step s = .next s

/-- Every command answers a next state, in every state, and leaves the queue of waiting commands as it was. That no command
stops is the model's deduction: the spec gives the chip no state in which it stops (notes/assumptions/27.md). -/
def Obligations.EveryCommandAnswers : Prop :=
  ∀ (c : Instr) (s : State), ∃ t, exec c s = .next t ∧ t.pending = s.pending

/-- Power-on, power failure and the two edges of the reset line: every block stops, the port operation is abandoned,
the outputs are quiet, and the count of the warm-up stands at its length (R188). That these four act in every state, and
that the records of the blocks stand unchanged in warm-up, is the model's deduction (notes/assumptions/12.md). In warm-up
every other command but the end of warm-up, the tick and the clip memory's ready indication changes nothing; a tick changes
only the warm-up counts, and a ready indication only the clip memory, which finishes what it runs
(notes/assumptions/13.md). -/
def Obligations.PowerAndWarmUp : Prop :=
  (∀ s : State, s.power.running = false →
     (∀ c : Instr, actsInWarmUp c = false → exec c s = .next s) ∧
     exec .tick s = .next { s with power := { s.power with
       powerLeft := if s.power.supplyUp then s.power.powerLeft - 1 else s.power.powerLeft,
       lineLeft := if s.power.supplyUp ∧ s.power.resetLow = false then s.power.lineLeft - 1 else s.power.lineLeft } } ∧
     exec .memoryReady s = .next { s with dev := s.dev.finish }) ∧
  ∀ s : State,
    let stopped : State :=
      { s with cmp := { fetch := none, maint := none },
               out := { returnFrame := [], trunkOut := [], short := none, channels := Vector.replicate 4 0, row := none,
                        columns := Vector.replicate 24 0 } }
    exec .powerOn s = .next { stopped with
      power := { s.power with running := false, supplyUp := true, powerLeft := 64, risen := true } } ∧
    exec .powerFail s = .next { stopped with
      power := { s.power with running := false, supplyUp := false, powerLeft := 64 } } ∧
    exec .resetLineAssert s = .next { stopped with
      power := { s.power with running := false, resetLow := true, lineLeft := 4 } } ∧
    exec .resetLineRelease s = .next { stopped with
      power := { s.power with running := false, resetLow := false, lineLeft := 4 } }

/-- The end of warm-up, where both counts are out with the supply up and the reset line released: every block has the
values of its chapter (R20, R37, R57, R74, R88, R107, R127, R144, R163, R179, R187), with the node address of the pins
and the reset cause (R188). The values of the fields the spec gives none for, the kept ramp time 0, the priming values
of the seats' formed paths and the return frame not yet sent among them, are the model's (notes/assumptions/3.md), as is
the kept gap length 0 of the voices (notes/assumptions/19.md).
That before the counts are out the command changes nothing is the model's deduction (notes/assumptions/12.md). -/
def Obligations.WarmUpEndValues : Prop :=
  ∀ (adr : BitVec 2) (s : State),
    let silence : Samples := { lang := Vector.replicate 12 0, talk := 0 }
    let plain : Pattern :=
      { mode := .off, levelOn := 0, levelOff := 0, onLen := 1, offLen := 1, pulseCount := 1, fadeStep := 1 }
    (s.power.running = false → s.power.supplyUp = true → s.power.resetLow = false → s.power.powerLeft = 0 →
      s.power.lineLeft = 0 →
      exec (.warmUpEnd adr) s = .next
        { pending := s.pending
          power := { running := true, supplyUp := true, resetLow := false, powerLeft := 0, lineLeft := 0, risen := false }
          tif := { trunk := .seeking, receiver := .hunting, counter := 0, validRun := 0, invalidRun := 0,
                   drive := { odometer := 0, odoValid := false, speed := 0, tag := 0, alarm := false, talk := false },
                   live := 0, last := silence, delivered := silence, node := adr, downstream := none, periodStarts := 0,
                   tickFor := [] }
          cth := { assembly := none, replies := [], notices := [], lost := false, tx := none, deckPending := false,
                   deckDue := false, cause := if s.power.risen then .power else .line,
                   settings := { trim := 6, duck := #v[12, 24, 36, 121], hang := 200, gap := 300, jump := 150, ramp := 250,
                                 rows := 8, chime := none, chimeRendering := .speakers, alarm := none, speakers := [0] } }
          scc := { seats := Vector.ofFn fun i : SeatNo =>
                     { zone := ⟨i.val / 16, by omega⟩, enabled := true, present := false, lang := 0, volume := 8,
                       defVolume := 8, cap := 0, stopPressed := false },
                   languages := Vector.ofFn fun l : Lang => { offered := decide (l = 0), fallback := none },
                   boxes := Vector.replicate 32 { online := false, miss := 0, senseA := false, senseB := false },
                   poll := 0, latch := none, awaited := none }
          hmx := { curve := Vector.replicate 8 { speed := 0, boost := 0 }, boost := 0,
                   gains := Vector.replicate 64 { tc := 121, ta := 121, gc := 121, ga := 121 },
                   formed := Vector.replicate 64
                     { commentary := 0, announcement := 0, gc := 121, ga := 121, enabled := true } }
          zou := { zones := Vector.ofFn fun z : Zone =>
                     { channel := z, boost := 0, defLang := 0, trim := 24, program := none, quiet := false, duck := 0,
                       tp := 121, ts := 121, gp := 121, gs := 121 },
                   summary := none }
          rce := { cues := Vector.replicate 256 { trigger := 0, latest := none, action := .mark, state := .pending },
                   count := 0, state := .idle, armedTag := 0, cursor := 0, lastOdo := 0, due := [] }
          asq := { phrases := Vector.replicate 128 [], current := none, stack := [], queue := [], lastId := 0,
                   softCut := false, nextArrival := 0, report := none }
          vpl := { voices := Vector.replicate 8
                     { state := .idle, owner := none, role := .speaker, round := 0, item := 0, clip := none, position := 0,
                       cur := none, next := none, stall := 0, gap := 0, gapKept := 0, fade := 0, claim := none,
                       fadeZones := none, fadeSilent := false },
                   rendering := none, prev := none }
          ccc := { directory := Vector.replicate 512 none, lines := Vector.replicate 32 .invalid, lru := [], locks := [],
                   queue := [] }
          cmp := { fetch := none, maint := none }
          lmc := { ticks := 0, scanPos := 0, scanRows := 8, boundaryDue := false, cells := Vector.replicate 192 none,
                   groups := Vector.replicate 24
                     { pat := plain, pending := none, source := .none, follow := false, hold := false, safety := false,
                       running := false, phaseOn := true, begun := false, framesLeft := 0, pulsesLeft := 0, level := 0,
                       ign := .dark, stands := false },
                   presets := Vector.replicate 32 plain, scenes := Vector.replicate 16 (Vector.replicate 24 .leave),
                   supply := .off, rampCount := 0, rampKept := 0, history := [], ignQueue := [], override := .clear,
                   lineSource := false, flagSource := false, releaseCount := 0 }
          dev := s.dev
          out := { returnFrame := [], trunkOut := [], short := none, channels := Vector.replicate 4 0, row := some 0,
                   columns := Vector.replicate 24 0 } }) ∧
    (s.power.running = true ∨ s.power.supplyUp = false ∨ s.power.resetLow = true ∨ s.power.powerLeft ≠ 0 ∨
        s.power.lineLeft ≠ 0 →
      exec (.warmUpEnd adr) s = .next s)

/-! ## The deck trunk -/

/-- Frame validity: the sync word and the check word, and nothing else (R2). -/
def Obligations.FrameValidity : Prop :=
  (∀ f : Vector Word16 21, frameValid f = true ↔
    f.get 0 = 0xB1E6#16 ∧ (f.get 20).toNat = ((f.toList.take 20).map BitVec.toNat).sum % 65536) ∧
  (∀ f : Vector Word16 5, returnValid f = true ↔
    f.get 0 = 0xB1E7#16 ∧ (f.get 4).toNat = ((f.toList.take 4).map BitVec.toNat).sum % 65536)

/-- The receiver (R3). In EXPECTING a frame counts that is valid and begins at the start of the period's words or one word
after it; in HUNTING the first valid one counts, at whatever word it begins. A gap breaks a frame. That trunk-in's words
come with the slot commands and the receiver judges both slot rows by them is the model's (notes/assumptions/10.md). A frame
found by hunting ends the period in progress at once, and the period that starts at its sync word is a VALID slot: the
command acts as the two slots one after the other, what the first sent being kept beside (notes/assumptions/11.md), also
where the frame begins at the first word of the period in progress, which is the model's (notes/assumptions/45.md); the
receiver hunts only out of LOCKED with no VALID slot counted, as the kept property `Bounded` says. -/
def Obligations.ReceiverFindsFrames : Prop :=
  (∀ (ws : TrunkWords) (f : Vector Word16 21),
     let begins := fun (k : Nat) (g : Vector Word16 21) => (ws.drop k).take 21 = g.toList.map some ∧ frameValid g = true
     (frameInWindow ws = some f ↔ begins 0 f ∨ (begins 1 f ∧ ∀ g, ¬begins 0 g)) ∧
     (huntFrame ws = some f ↔ ∃ k, begins k f ∧ ∀ j, j < k → ∀ g, ¬begins j g)) ∧
  (∀ lead f trail short order s, (s.tif.receiver = .expecting ∨ short = []) →
     exec (.validSlot ⟨lead, f, trail⟩ short order) s = exec (.invalidSlot (lead ++ f.toList.map some ++ trail) order) s) ∧
  ∀ (lead trail ws : TrunkWords) (g f : Vector Word16 21) (short order : List SlotEvent) (s : State),
    s.power.running = true → s.tif.receiver = .hunting → s.tif.trunk ≠ .locked → s.tif.validRun = 0 →
    ws = lead ++ g.toList.map some ++ trail → huntFrame ws = some f →
    ∃ t u, exec (.invalidSlot [] short) s = .next t ∧
      exec (.validSlot ⟨[], f, []⟩ [] order) { t with tif := { t.tif with receiver := .expecting } } = .next u ∧
      exec (.validSlot ⟨lead, g, trail⟩ short order) s = .next { u with out := { u.out with
        trunkOut := ws,
        short := some { returnFrame := t.out.returnFrame, seatFrame := seatFrame t, channels := t.out.channels } } }

/-- A VALID slot in LOCKED: the counter takes the frame sequence (R4), the invalid run becomes 0, and the drive record,
the live flags and the samples are the frame's (R7, R10). The words of the period are what trunk-out carried (R15); that
they are those since the slot command before it is the model's (notes/assumptions/10.md). What its control slot, its
route fields and its flags bring is `SlotHandsEventsOn`. The clip memory's bytes stand. -/
def Obligations.LockedValidSlot : Prop :=
  ∀ (c : Instr) (ws : TrunkWords) (f : Vector Word16 21) (order : List SlotEvent) (s : State),
    s.power.running = true → s.tif.trunk = .locked → slotHas c ws (some f) order s → ownEvents order →
    let starts := (s.tif.periodStarts + 1) % 16
    let due := if starts = 0 then [TickBlock.hmx, .zou, .asq, .vpl, .cmp, .lmc] else s.tif.tickFor
    ∃ t, exec c s = .next t ∧
      t.tif = { s.tif with
        receiver := .expecting, counter := (f.get 1).extractLsb' 0 8, invalidRun := 0,
        drive := {
          odometer := if (f.get 1).getLsbD 8 then (f.get 2).toNat else s.tif.drive.odometer,
          odoValid := (f.get 1).getLsbD 8, speed := ((f.get 3).extractLsb' 0 8).toNat,
          tag := ((f.get 3).extractLsb' 8 8).toNat, alarm := (f.get 1).getLsbD 9, talk := (f.get 1).getLsbD 10 },
        live := (f.get 4).extractLsb' 0 12,
        last := { lang := #v[f.get 5, f.get 6, f.get 7, f.get 8, f.get 9, f.get 10, f.get 11, f.get 12, f.get 13, f.get 14,
                    f.get 15, f.get 16], talk := f.get 17 },
        delivered := { lang := #v[f.get 5, f.get 6, f.get 7, f.get 8, f.get 9, f.get 10, f.get 11, f.get 12, f.get 13,
                         f.get 14, f.get 15, f.get 16], talk := f.get 17 },
        downstream := none, periodStarts := starts, tickFor := due } ∧
      t.out.trunkOut = ws ∧ t.out.short = none ∧ t.scc.poll = s.scc.poll + 1 ∧ t.scc.awaited = some s.scc.poll ∧
      t.dev.bytes = s.dev.bytes ∧ t.dev.draws = s.dev.draws ∧ t.power = s.power ∧ t.pending = s.pending

/-- An INVALID slot in LOCKED: the counter advances, the invalid run rises, the last samples are repeated once and are
zero after that, the assembly of a packet is abandoned, and the 64th makes the trunk LOST with its notice (R4, R8, R9).
The period's words were carried on to trunk-out (R15, notes/assumptions/10.md). The clip memory's bytes stand, and where no
operation waits with the port READY, as `PortKept` says, nothing is sent to it. -/
def Obligations.LockedInvalidSlot : Prop :=
  ∀ (c : Instr) (ws : TrunkWords) (order : List SlotEvent) (s : State),
    s.power.running = true → s.tif.trunk = .locked → slotHas c ws none order s → ownEvents order →
    let starts := (s.tif.periodStarts + 1) % 16
    let due := if starts = 0 then [TickBlock.hmx, .zou, .asq, .vpl, .cmp, .lmc] else s.tif.tickFor
    ∃ t, exec c s = .next t ∧ t.cth.assembly = none ∧
      (s.tif.invalidRun + 1 < 64 →
        t.tif = { s.tif with
          counter := s.tif.counter + 1, invalidRun := s.tif.invalidRun + 1,
          delivered := if s.tif.invalidRun = 0 then s.tif.last else { lang := Vector.replicate 12 0, talk := 0 },
          downstream := none, periodStarts := starts, tickFor := due }) ∧
      (64 ≤ s.tif.invalidRun + 1 →
        t.tif = { s.tif with
          trunk := .lost, receiver := .hunting, counter := s.tif.counter + 1, validRun := 0, invalidRun := 0,
          drive := { s.tif.drive with odoValid := false, talk := false }, live := 0,
          delivered := { lang := Vector.replicate 12 0, talk := 0 },
          downstream := none, periodStarts := starts, tickFor := due } ∧
        noticed .trunkLost t) ∧
      t.out.trunkOut = ws ∧ t.out.short = none ∧ t.scc.poll = s.scc.poll + 1 ∧ t.scc.awaited = some s.scc.poll ∧
      t.dev.bytes = s.dev.bytes ∧ t.dev.draws = s.dev.draws ∧ (PortSettled s → t.dev = s.dev) ∧
      t.power = s.power ∧ t.pending = s.pending

/-- Slots out of LOCKED: VALID slots count toward lock and their fields are not taken, the sixteenth in a row locks and
is the first taken, an INVALID slot returns the run to 0, samples are zero and no control slot reaches CTH (R6, R9);
trunk-out carried the words the command gives (R15, notes/assumptions/10.md). The change from LOST to LOCKED queues
TRUNK_REGAINED, that from SEEKING to LOCKED queues nothing of its own (R9, R19): with the route IDLE, the alarm flag as
it was and the talk flag not pressed, the notices are those of before with that one or none, where no delivery waited
before, as the kept property `Bounded` says. -/
def Obligations.UnlockedSlots : Prop :=
  ∀ (c : Instr) (ws : TrunkWords) (order : List SlotEvent) (s : State), s.power.running = true → s.tif.trunk ≠ .locked →
    ownEvents order →
    let starts := (s.tif.periodStarts + 1) % 16
    let due := if starts = 0 then [TickBlock.hmx, .zou, .asq, .vpl, .cmp, .lmc] else s.tif.tickFor
    (∀ f : Vector Word16 21, slotHas c ws (some f) order s →
      ∃ t, exec c s = .next t ∧ t.out.trunkOut = ws ∧
        (s.tif.validRun + 1 < 16 →
          t.tif = { s.tif with
            receiver := .expecting, counter := (f.get 1).extractLsb' 0 8, validRun := s.tif.validRun + 1,
            delivered := { lang := Vector.replicate 12 0, talk := 0 },
            downstream := none, periodStarts := starts, tickFor := due } ∧
          t.cth.assembly = s.cth.assembly ∧ (s.rce.due = [] → t.cth.notices = s.cth.notices)) ∧
        (16 ≤ s.tif.validRun + 1 →
          t.tif = { s.tif with
            trunk := .locked, receiver := .expecting, counter := (f.get 1).extractLsb' 0 8, validRun := 0, invalidRun := 0,
            drive := {
              odometer := if (f.get 1).getLsbD 8 then (f.get 2).toNat else s.tif.drive.odometer,
              odoValid := (f.get 1).getLsbD 8, speed := ((f.get 3).extractLsb' 0 8).toNat,
              tag := ((f.get 3).extractLsb' 8 8).toNat, alarm := (f.get 1).getLsbD 9, talk := (f.get 1).getLsbD 10 },
            live := (f.get 4).extractLsb' 0 12, last := frameSamples f, delivered := frameSamples f, downstream := none,
            periodStarts := starts, tickFor := due } ∧
          (s.cth.assembly = none → s.tif.trunk = .lost → noticed .trunkRegained t) ∧
          (s.cth.assembly = none → s.rce.due = [] → s.rce.state = .idle → (f.get 1).getLsbD 9 = s.tif.drive.alarm →
            (f.get 1).getLsbD 10 = false → s.tif.drive.talk = false → s.cth.notices.length < 16 →
            t.cth.notices = s.cth.notices ++ if s.tif.trunk = .lost then [.trunkRegained] else []))) ∧
    (slotHas c ws none order s →
      ∃ t, exec c s = .next t ∧ t.out.trunkOut = ws ∧
        t.tif = { s.tif with
          receiver := .hunting, counter := s.tif.counter + 1, validRun := 0,
          delivered := { lang := Vector.replicate 12 0, talk := 0 },
          downstream := none, periodStarts := starts, tickFor := due } ∧
        t.cth.assembly = s.cth.assembly ∧ (s.rce.due = [] → t.cth.notices = s.cth.notices))

/-- What a slot hands on, in the order its command gives (R7, R8, R9, R11, R14, R19, R143): first the return frame is
sent and the voices give their samples; then what a sample brings to each voice (`VoicePeriods`); TIF's notice of a
trunk lost or regained; the control slot of a VALID slot in LOCKED to CTH, or the discard signal; RCE's fields, one
combined change where any of them changed; the talk flag's rise or fall, and the deck alarm flag's change, which moves
the override's flag source; the deliveries of cues, each with the event that makes its step or where the order names its
block; and the other events of the chip at the same slot end, each acting as the command it is by itself. That the order
is an operand, the last of these events its elements, and those of the slot's own that it leaves out taken after it, is
the model's (notes/assumptions/7.md), as is that an own turn is offered only where the trunk is LOCKED before and after
the slot (notes/assumptions/9.md) and that each voice's sample is an event of its own (notes/assumptions/42.md); a talk
flag that reads pressed in the first frame taken after warm-up is no rise (notes/assumptions/24.md). No maintenance
operation waits with the port READY, as the kept property `PortKept` says. -/
def Obligations.SlotHandsEventsOn : Prop :=
  ∀ (c : Instr) (ws : TrunkWords) (frame : Option (Vector Word16 21)) (order : List SlotEvent) (s : State),
    s.power.running = true → slotHas c ws frame order s → PortSettled s →
    (order.filter SlotEvent.own).Nodup →
    let own := (List.finRange 8).map SlotEvent.voice ++ [.trunkNotice, .control, .route, .talk, .alarm]
    let events := order ++ own.filter fun e => !order.contains e
    let waits := fun b : CueOwner => decide (SlotEvent.delivery b ∈ order)
    let old := s.tif
    let new := match frame with | some f => validTif f old | none => invalidTif old
    let starts := (old.periodStarts + 1) % 16
    let act := fun (x : State) (e : SlotEvent) => match e with
      | .voice v => followSample v x
      | .trunkNotice =>
        if old.trunk = .locked ∧ new.trunk = .lost then pushNotice .trunkLost x
        else if old.trunk = .lost ∧ new.trunk = .locked then pushNotice .trunkRegained x
        else x
      | .control => match frame with
        | some f => if new.trunk = .locked then
            takeDue waits (takeSlot
              { b0 := (f.get 18).extractLsb' 8 8, b1 := (f.get 18).extractLsb' 0 8,
                b2 := (f.get 19).extractLsb' 8 8, b3 := (f.get 19).extractLsb' 0 8 } x) else x
        | none => if old.trunk = .locked then { x with cth := { x.cth with assembly := none } } else x
      | .route =>
        let y : State := { x with tif := { x.tif with drive := { x.tif.drive with
          odometer := new.drive.odometer, odoValid := new.drive.odoValid, tag := new.drive.tag } } }
        takeDue waits (if old.drive.odometer = new.drive.odometer ∧ old.drive.odoValid = new.drive.odoValid ∧
            old.drive.tag = new.drive.tag ∧ old.trunk = new.trunk then y else routeChange y)
      | .talk =>
        if old.drive.talk = false ∧ new.drive.talk = true ∧ old.trunk ≠ .seeking then talkRise x
        else if old.drive.talk = true ∧ new.drive.talk = false then talkFall x
        else x
      | .alarm =>
        if old.drive.alarm = new.drive.alarm then x
        else overrideEvent { x with lmc := { x.lmc with flagSource := new.drive.alarm } }
      | .delivery b => takeNext b x
      | .also e => eventEffect e x
    ∃ u step, voicesStep s step ∧
      exec c s = .next { settle (events.foldl act u) with
        out := { (settle (events.foldl act u)).out with trunkOut := ws, short := none } } ∧
      u.tif = { new with
        drive := { new.drive with odometer := old.drive.odometer, odoValid := old.drive.odoValid, tag := old.drive.tag },
        downstream := none, periodStarts := starts,
        tickFor := if starts = 0 then [.hmx, .zou, .asq, .vpl, .cmp, .lmc] else old.tickFor } ∧
      u.cth = (if old.trunk = .locked ∧ new.trunk = .locked ∧ new.counter.toNat % 4 = old.node.toNat then
        (returnTurn s).1.cth else s.cth) ∧
      u.asq = step.1.asq ∧ u.vpl = step.1.vpl ∧ u.ccc = step.1.ccc ∧ u.cmp = step.1.cmp ∧
      u.scc = { s.scc with poll := s.scc.poll + 1, awaited := some s.scc.poll } ∧
      u.hmx = { s.hmx with formed := u.hmx.formed } ∧
      { u with tif := s.tif, cth := s.cth, scc := s.scc, hmx := s.hmx, asq := s.asq, vpl := s.vpl, ccc := s.ccc,
               cmp := s.cmp, out := s.out } = s

/-- A valid return frame from downstream replaces the pending slot, an invalid one is discarded (R18). -/
def Obligations.DownstreamFrameTaken : Prop :=
  ∀ (f : Vector Word16 5) (s : State), s.power.running = true →
    (returnValid f = true →
      exec (.downstreamReturnFrame f) s = .next { s with tif := { s.tif with
        downstream := some { b0 := (f.get 2).extractLsb' 8 8, b1 := (f.get 2).extractLsb' 0 8,
                             b2 := (f.get 3).extractLsb' 8 8, b3 := (f.get 3).extractLsb' 0 8 } } }) ∧
    (returnValid f = false → exec (.downstreamReturnFrame f) s = .next s)

/-- The return frame of a slot: sync, counter, four bytes and check word (R16); another node's turn forwards the pending
downstream slot, an own turn out of LOCKED carries zeros, an own turn in LOCKED the arbiter's bytes (R17). That a slot
which enters or leaves LOCKED is not offered is the model's (notes/assumptions/9.md). The return slot arbiter (R35): the
packet in transmission, else the oldest READY reply, else the oldest notice with the notices-lost flag (R34), else
zeros; RESERVED places are passed over. At a packet's last slot the transmitter is idle, a reply's place is free, and
the DONE of a DECK_RESET makes the deck reset due (R35, R36). A packet is the start byte, the node's address, the kind,
the length, the payload and the check byte that makes bytes 1 onward add up to 0 (R22), four bytes a slot with zeros
behind. A notice's payload is the flag, its code and its data (R34). A notice joins the queue's tail, and with 16 in the
queue it is dropped and the notices-lost flag set (R33). -/
def Obligations.ReturnFrameOfSlot : Prop :=
  (∀ (c : Instr) (ws : TrunkWords) (frame : Option (Vector Word16 21)) (order : List SlotEvent) (s : State),
     s.power.running = true → slotHas c ws frame order s →
     let n := match frame with | some f => (f.get 1).extractLsb' 0 8 | none => s.tif.counter + 1
     let offered := decide (s.tif.trunk = .locked) && (frame.isSome || decide (s.tif.invalidRun + 1 < 64))
     ∃ t, exec c s = .next t ∧
       ∃ b : Slot,
         t.out.returnFrame = [0xB1E7, n.setWidth 16, b.b0 ++ b.b1, b.b2 ++ b.b3,
           0xB1E7 + n.setWidth 16 + (b.b0 ++ b.b1) + (b.b2 ++ b.b3)] ∧
         (n.toNat % 4 ≠ s.tif.node.toNat → b = s.tif.downstream.getD { b0 := 0, b1 := 0, b2 := 0, b3 := 0 }) ∧
         (n.toNat % 4 = s.tif.node.toNat →
           b = if offered then (returnTurn s).2 else { b0 := 0, b1 := 0, b2 := 0, b3 := 0 })) ∧
  ∀ s : State,
    let b := BitVec.ofNat 8
    let w := fun n : Nat => [b (n / 256), b n]
    let yn := fun y : Bool => if y then (1 : Byte) else 0
    let slot := fun (bytes : List Byte) (k : Nat) =>
      ({ b0 := bytes.getD (4 * k) 0, b1 := bytes.getD (4 * k + 1) 0, b2 := bytes.getD (4 * k + 2) 0,
         b3 := bytes.getD (4 * k + 3) 0 } : Slot)
    let framed := fun (kind : Byte) (payload : List Byte) =>
      let body := s.tif.node.setWidth 8 :: kind :: b payload.length :: payload
      (0xC5 : Byte) :: (body ++ [0 - body.foldl (· + ·) 0])
    let told := fun n : Notice => match n with
      | .stopRequest seat => [1, b seat.val]
      | .announceEnd id o => [2, b id, match o with
          | .completed => 0 | .cut => 1 | .stale => 2 | .displaced => 3 | .refused => 4 | .lapsed => 5 | .failed => 6]
      | .cueMark i => [3, b i]
      | .routeState x cursor rewind =>
        4 :: (match x with | .idle => 0 | .armed => 1 | .running => 2 | .held => 3 | .complete => 4) ::
          (w cursor ++ [yn rewind])
      | .relocation src dst skipped => 5 :: (w src ++ w dst ++ w skipped)
      | .boxState box online => [6, b box.val, yn online]
      | .supplyState x => [7, match x with | .off => 0 | .ramp => 1 | .ready => 2 | .fault => 3]
      | .alarm active => [8, yn active]
      | .clipStall v family => 9 :: b v.val :: w family
      | .trunkLost => [10]
      | .trunkRegained => [11]
    (∀ n : Notice, pushNotice n s = { s with cth := if s.cth.notices.length < 16 then
        { s.cth with notices := s.cth.notices ++ [n] } else { s.cth with lost := true } }) ∧
    (∀ tx, s.cth.tx = some tx →
      (returnTurn s).2 = slot tx.packet tx.sent ∧
      (4 * (tx.sent + 1) < tx.packet.length →
        (returnTurn s).1 = { s with cth := { s.cth with tx := some { tx with sent := tx.sent + 1 } } }) ∧
      (tx.packet.length ≤ 4 * (tx.sent + 1) →
        (returnTurn s).1 = { s with cth := { s.cth with
          tx := none,
          replies := if tx.reply then s.cth.replies.filter (fun p => decide (p.state ≠ .sending)) else s.cth.replies,
          deckDue := s.cth.deckDue || tx.resetsDeck } })) ∧
    (∀ before p after, s.cth.tx = none → s.cth.replies = before ++ p :: after → p.state = .ready →
      (∀ q ∈ before, q.state ≠ .ready) →
      (returnTurn s).2 = slot (framed p.kind p.payload) 0 ∧
      (returnTurn s).1 = { s with cth := { s.cth with
        replies := before ++ { p with state := .sending } :: after,
        tx := some { packet := framed p.kind p.payload, sent := 1, reply := true, resetsDeck := p.resetsDeck } } }) ∧
    (∀ n rest, s.cth.tx = none → (∀ q ∈ s.cth.replies, q.state ≠ .ready) → s.cth.notices = n :: rest →
      let sent := framed 0x90 (yn s.cth.lost :: told n)
      (returnTurn s).2 = slot sent 0 ∧
      (returnTurn s).1 = { s with cth := { s.cth with
        notices := rest, lost := false,
        tx := some { packet := sent, sent := 1, reply := false, resetsDeck := false } } }) ∧
    (s.cth.tx = none → (∀ q ∈ s.cth.replies, q.state ≠ .ready) → s.cth.notices = [] →
      returnTurn s = (s, { b0 := 0, b1 := 0, b2 := 0, b3 := 0 }))

/-- The seat chain frame after a slot: the poll of the next box, 64 audio words with 0 for a seat that is not present or not
enabled, and their check word (R43). Which moment's records it takes is the model's: it is computed, so that a box reply or
another event of the same slot end taken after the slot command still enters it (notes/assumptions/14.md). In warm-up
nothing is sent (R188). -/
def Obligations.SeatChainFrame : Prop :=
  (∀ (c : Instr) (ws : TrunkWords) (frame : Option (Vector Word16 21)) (order : List SlotEvent) (s : State),
     s.power.running = true → slotHas c ws frame order s →
     ∃ t, exec c s = .next t ∧
       let audio := (List.finRange 64).map fun i =>
         if (t.scc.seats.get i).present && (t.scc.seats.get i).enabled then seatSample t i else 0
       let poll := BitVec.ofNat 16 (0x5E00 + (s.scc.poll + 1).val)
       seatFrame t = (poll :: audio) ++ [(poll :: audio).foldl (· + ·) 0]) ∧
  (∀ t : State, t.power.running = true → (seatFrame t).length = 66 ∧
    (seatFrame t)[65]? = some (((seatFrame t).take 65).foldl (· + ·) 0) ∧
    ∀ i : SeatNo, (t.scc.seats.get i).present = false ∨ (t.scc.seats.get i).enabled = false →
      (seatFrame t)[i.val + 1]? = some 0) ∧
  ∀ t : State, t.power.running = false → seatFrame t = []

/-- The sample of a seat in the period that a slot ends (R72): its two paths, each scaled by the multiplier of its
applied index with halves rounded up, added and saturated, where the seat is enabled at the period's start and present
after the reply of its box; 0 otherwise. The commentary path's input is its language's sample, or its fallback's where
only that is live, else 0 (R58, R59, R71). The announcement path's input is by R132 the talk sample, the sample of the
voice its entry names, the fading output of the voice its previous map's entry names, or 0. Everything but the samples
and the presence is as it stood at the period's start (R59, R65, R72), which is where the slot command begins
(notes/assumptions/6.md), but a seat that this reply plugs in uses its targets (R66, R72; against R65, which is the
model's choice, notes/assumptions/6.md). Which box reply counts, and that it may come after the slot command, is the
model's (notes/assumptions/31.md, notes/assumptions/14.md). -/
def Obligations.SeatHearsCommentary : Prop :=
  ∀ (c : Instr) (ws : TrunkWords) (frame : Option (Vector Word16 21)) (order : List SlotEvent) (s : State) (i : SeatNo),
    s.power.running = true → slotHas c ws frame order s → ownEvents order →
    ∃ t step, exec c s = .next t ∧ voicesStep s step ∧
      let own := (s.scc.seats.get i).lang
      let live := fun l : Lang => t.tif.live.getLsbD l.val
      let heard := fun l : Lang => (t.tif.delivered.lang.get l).toInt
      let x : Int :=
        if live own then heard own
        else match (s.scc.languages.get own).fallback with
          | some b => if live b then heard b else 0
          | none => 0
      let gave := fun v : VoiceNo => step.2.getD v.val .silent
      let faded : Int :=
        match s.vpl.prev.bind fun p => (p.map.get i).map fun e => (p.owner, e) with
        | some (owner, .voice v) =>
          if (s.vpl.voices.get v).owner = some owner then (match gave v with | .fading y => y | _ => 0) else 0
        | _ => 0
      let a : Int :=
        match s.vpl.rendering.bind fun r => r.map.get i with
        | some .talk => t.tif.delivered.talk.toInt
        | some (.voice v) => (match gave v with | .playing y => y | _ => faded)
        | _ => faded
      let mixed := fun (gc ga : Nat) => max (-32768) (min 32767
        ((x * (multiplier gc : Int) + 16384).fdiv 32768 + (a * (multiplier ga : Int) + 16384).fdiv 32768))
      ((seatSample t i).toInt =
        if (t.scc.seats.get i).present && (s.scc.seats.get i).enabled then
          mixed (s.hmx.gains.get i).gc (s.hmx.gains.get i).ga
        else 0) ∧
      ∀ reply u, exec (.boxReply reply) t = .next u →
        let plugged := !(t.scc.seats.get i).present && (u.scc.seats.get i).present
        let g := if plugged then u.hmx.gains.get i else s.hmx.gains.get i
        (seatSample u i).toInt =
          if (u.scc.seats.get i).present && (s.scc.seats.get i).enabled then mixed g.gc g.ga else 0

/-- The channel samples of the period that a slot ends (R82, R84 to R87): each zone's program sample, 0 while quiet,
scaled by its applied program index, with the zone's speaker announcement input scaled by its speaker index, added and
saturated; and the zones of a channel added and saturated. The announcement input is the saturated sum of the sounding
SPEAKER voices of the zone, in PLAYING by the rendering record's mask and priority and in ENDING by the fade mask and
priority, and of the talk sample under the summary of a TALK announcement; in a quiet zone only those of priority 3.
All but the samples is as it stood at the period's start, which is where the slot command begins
(notes/assumptions/6.md). -/
def Obligations.ChannelsCarryProgram : Prop :=
  ∀ (c : Instr) (ws : TrunkWords) (frame : Option (Vector Word16 21)) (order : List SlotEvent) (s : State) (ch : Fin 4),
    s.power.running = true → slotHas c ws frame order s → ownEvents order →
    ∃ t step, exec c s = .next t ∧ voicesStep s step ∧
      let live := fun l : Lang => t.tif.live.getLsbD l.val
      let heard := fun l : Lang => (t.tif.delivered.lang.get l).toInt
      let program := fun z : Zone =>
        if (s.zou.zones.get z).quiet then 0
        else match (s.zou.zones.get z).program with
          | none => 0
          | some l =>
            if live l then heard l
            else match (s.scc.languages.get l).fallback with
              | some b => if live b then heard b else 0
              | none => 0
      let enters := fun (z : Zone) (mask : ZoneMask) (priority : Fin 4) =>
        mask.getLsbD z.val && (!(s.zou.zones.get z).quiet || decide (priority = 3))
      let voice := fun (z : Zone) (v : VoiceNo) =>
        if (s.vpl.voices.get v).role = .speaker then
          match step.2.getD v.val .silent, s.vpl.rendering, (s.vpl.voices.get v).fadeZones with
          | .playing y, some r, _ => if enters z r.mask r.priority then y else 0
          | .fading y, _, some m => if enters z m.1 m.2 then y else 0
          | _, _, _ => 0
        else 0
      let talk := fun z : Zone => match s.zou.summary with
        | some m => if m.talk && enters z m.mask 2 then t.tif.delivered.talk.toInt else 0
        | none => 0
      let hold := fun n : Int => max (-32768) (min 32767 n)
      let zone := fun z : Zone =>
        hold ((program z * (multiplier (s.zou.zones.get z).gp : Int) + 16384).fdiv 32768 +
          (hold (((List.finRange 8).map (voice z)).sum + talk z) *
            (multiplier (s.zou.zones.get z).gs : Int) + 16384).fdiv 32768)
      (t.out.channels.get ch).toInt =
        hold ((List.finRange 4).map fun z => if (s.zou.zones.get z).channel = ch then zone z else 0).sum

/-- The multiplier of an applied index: 0 at 121, below it the table's value shifted right by its octaves, so 12 steps
more halve it (R69). A path's output is the product rounded to the nearest integer and never leaves the 16-bit range
(R70). The speed boost by its three cases: at or below
the first point, at or above the last, and between two points with truncation toward zero (R61). -/
def Obligations.GainArithmetic : Prop :=
  ((∀ g, 121 ≤ g → multiplier g = 0) ∧ (∀ g, g + 12 < 121 → multiplier (g + 12) = multiplier g / 2) ∧
   (∀ g, g < 121 → multiplier g =
     [32768, 30929, 29193, 27554, 26008, 24548, 23170, 21870, 20643, 19484, 18390, 17358][g % 12]! / 2 ^ (g / 12)) ∧
   ∀ (x : Int) (g : Nat), -32768 ≤ x → x ≤ 32767 →
     scale x (multiplier g) = (x * (multiplier g : Int) + 16384).fdiv 32768 ∧
     -32768 ≤ scale x (multiplier g) ∧ scale x (multiplier g) ≤ 32767 ∧ scale x 32768 = x ∧ scale x 0 = 0) ∧
  ∀ (curve : Vector CurvePoint 8) (u : Nat),
    (u ≤ (curve.get 0).speed → speedBoost curve u = (curve.get 0).boost) ∧
    ((curve.get 0).speed < u → (curve.get 7).speed ≤ u → speedBoost curve u = (curve.get 7).boost) ∧
    ∀ i : Fin 7, (∀ j : Fin 8, j.val ≤ i.val → (curve.get j).speed < u) → u < (curve.get 7).speed →
      u ≤ (curve.get i.succ).speed →
      let a := curve.get i.castSucc
      let b := curve.get i.succ
      speedBoost curve u =
        ((a.boost : Int) + Int.tdiv (((b.boost : Int) - a.boost) * ((u : Int) - a.speed)) ((b.speed : Int) - a.speed)).toNat

/-! ## Ticks -/

/-- A tick past warm-up, due since the sixteenth period start to the blocks that have still to take it (R5); where none
has, the command changes nothing, which is the model's (notes/assumptions/2.md), as is that a block may take its tick at
its own place in a slot's order (notes/assumptions/7.md). HMX and ZOU compute the speed boost and every seat's and
zone's targets and move every applied index one step toward its target: up to 4 toward quiet, 1 toward loud, never past
it (R62, R63, R64, R83). The timers count: the stall count of a waiting voice (R137), the gap count (R133), the hang of
a RELEASED TALK, current or queued (R123), a started maintenance operation (R160), the time base of the grant history
(R182), the ramp (R180) and the release count (R184), a count that stands at its limit excepted: that a tick which
reaches a limit leaves the expiry to a command of its own is the model's (notes/assumptions/2.md). LMC advances the scan
position, with a boundary due where that returns to 0 (R164), and drives its row, each cell with the shown level of its
group by the first case that holds (R165, R181); that the row shows what stood before any change a count of this tick
end brings is the model's (notes/assumptions/36.md). All else stands. -/
def Obligations.TickActs : Prop :=
  ∀ (s : State), s.power.running = true →
    let due := fun b : TickBlock => b ∈ s.tif.tickFor
    (s.tif.tickFor = [] → exec .tick s = .next s) ∧
    ∃ t, exec .tick s = .next t ∧ t.tif = { s.tif with tickFor := [] } ∧
      let S := speedBoost s.hmx.curve s.tif.drive.speed
      let steps := fun (g h : Nat) => if g < h then min h (g + 4) else if h < g then max h (g - 1) else g
      (¬due .hmx → t.hmx = s.hmx) ∧
      (due .hmx → t.hmx.boost = S ∧ { t.hmx with boost := s.hmx.boost, gains := s.hmx.gains } = s.hmx ∧
       ∀ i : SeatNo,
        let r := s.scc.seats.get i
        let z := s.zou.zones.get r.zone
        let h := t.hmx.gains.get i
        (h.tc : Int) = min 121 (max (r.cap : Int) (4 * (15 - (r.volume : Int)) - S - z.boost + z.duck)) ∧
        (h.ta : Int) = min 121 (max (r.cap : Int) (4 * (15 - (r.volume : Int)) - S - z.boost + s.cth.settings.trim)) ∧
        h.gc = steps (s.hmx.gains.get i).gc h.tc ∧ h.ga = steps (s.hmx.gains.get i).ga h.ta) ∧
      (¬due .zou → t.zou = s.zou) ∧
      (due .zou → { t.zou with zones := s.zou.zones } = s.zou ∧
       ∀ z : Zone,
        let x := s.zou.zones.get z
        let y := t.zou.zones.get z
        (y.tp : Int) = min 121 (max 0 ((x.trim : Int) - S - x.boost + x.duck)) ∧
        (y.ts : Int) = min 121 (max 0 ((x.trim : Int) - S - x.boost)) ∧
        y.gp = steps x.gp y.tp ∧ y.gs = steps x.gs y.ts ∧
        { y with tp := x.tp, ts := x.ts, gp := x.gp, gs := x.gs } = x) ∧
      (¬due .vpl → t.vpl = s.vpl) ∧
      (due .vpl → { t.vpl with voices := s.vpl.voices } = s.vpl ∧
       ∀ v, t.vpl.voices.get v =
        let x := s.vpl.voices.get v
        if x.state = .priming ∨ x.state = .starved then { x with stall := min (x.stall + 1) 2000 }
        else if x.state = .gap then { x with gap := min (x.gap + 1) x.gapKept }
        else x) ∧
      (¬due .asq → t.asq = s.asq) ∧
      (due .asq →
        let hung := fun a : Announcement => match a.source, a.hang with
          | .talk, .released n k => { a with hang := .released (min (n + 1) k) k }
          | _, _ => a
        t.asq = { s.asq with current := s.asq.current.map hung, queue := s.asq.queue.map hung }) ∧
      (¬due .cmp → t.cmp = s.cmp) ∧
      (due .cmp → t.cmp = { s.cmp with maint := s.cmp.maint.map fun m =>
        if m.stage = .pending then m else { m with ticks := min (m.ticks + 1) 3000 } }) ∧
      (¬due .lmc → t.lmc = s.lmc ∧ t.out = s.out) ∧
      (due .lmc →
        t.lmc = { s.lmc with
          ticks := s.lmc.ticks + 1,
          rampCount := if s.lmc.supply = .ramp then min (s.lmc.rampCount + 1) (s.lmc.rampKept + 500) else s.lmc.rampCount,
          releaseCount :=
            if s.lmc.override = .releasing ∧ s.lmc.lineSource = false ∧ s.lmc.flagSource = false then
              min (s.lmc.releaseCount + 1) 100 else s.lmc.releaseCount,
          scanPos := if s.lmc.scanPos + 1 < s.lmc.scanRows then s.lmc.scanPos + 1 else 0,
          boundaryDue := s.lmc.boundaryDue || decide (s.lmc.scanRows ≤ s.lmc.scanPos + 1) } ∧
        t.out = { s.out with row := some t.lmc.scanPos, columns := t.out.columns } ∧
        (∀ col : Fin 24, t.out.columns.get col =
          match (s.lmc.cells[t.lmc.scanPos * 24 + col.val]?).join with
          | none => 0
          | some g =>
            let x := s.lmc.groups.get g
            if s.lmc.supply ≠ .ready then 0
            else if s.lmc.override ≠ .clear then (if x.safety then 63 else 0)
            else if x.running = false ∨ x.ign = .waiting then 0 else x.level)) ∧
      { t with tif := s.tif, hmx := s.hmx, zou := s.zou, asq := s.asq, vpl := s.vpl, cmp := s.cmp, lmc := s.lmc,
               out := s.out } = s

/-! ## Requests -/

/-- The slots of a packet, taken one after another from IDLE, are one request of its kind and payload (R21, R22 and
section 2.1): addressed to this node it is that request, with address 15 an ACTION or a DECK_RESET is that request by
broadcast and any other kind is ignored, and another address is ignored. No byte of the packet is dropped or misplaced,
and what fills its last slot after the check byte is ignored. Inside a packet every slot is taken whatever its bytes, up
to the one that completes it, and the discard signal abandons the packet (R21). What makes no request: in IDLE a first
slot without the start byte or with a length above 56 (R21), and a packet whose bytes 1 onward do not add up to 0 (R22).
-/
def Obligations.PacketIsTaken : Prop :=
  (∀ (s : State) (addr kind : Byte) (payload fill : List Byte), s.cth.assembly = none → payload.length ≤ 56 →
     let body := addr :: kind :: BitVec.ofNat 8 payload.length :: payload
     let bytes := 0xC5 :: body ++ [0 - body.foldl (· + ·) 0]
     (List.range ((payload.length + 8) / 4)).foldl
       (fun t k => takeSlot (Slot.ofBytes ((bytes ++ fill).drop (4 * k))) t) s =
     if addr = 15 then (if kind = 3 ∨ kind = 8 then handleRequest true kind payload s else s)
     else if addr = s.tif.node.setWidth 8 then handleRequest false kind payload s
     else s) ∧
  ∀ (s : State),
    (∀ b : Slot, s.cth.assembly = none → b.b0 ≠ 0xC5 ∨ 56 < b.b3.toNat → takeSlot b s = s) ∧
    (∀ b : Slot, s.cth.assembly = none → b.b0 = 0xC5 → b.b3.toNat ≤ 56 → takeSlot b s =
      { s with cth := { s.cth with
          assembly := some { buffer := [b.b0, b.b1, b.b2, b.b3], total := 5 + b.b3.toNat } } }) ∧
    (∀ (a : Assembly) (b : Slot), s.cth.assembly = some a →
      let buffer := a.buffer ++ [b.b0, b.b1, b.b2, b.b3]
      takeSlot b s =
        if buffer.length < a.total then
          { s with cth := { s.cth with assembly := some { buffer := buffer, total := a.total } } }
        else sortPacket (buffer.take a.total) { s with cth := { s.cth with assembly := none } }) ∧
    discardSlot s = { s with cth := { s.cth with assembly := none } } ∧
    (∀ (bytes : List Byte), bytes.tail.foldl (· + ·) 0 ≠ (0 : Byte) → sortPacket bytes s = s)

/-- A request that arrives with deck reset pending, or one not broadcast that finds all four reply places taken, is
discarded without trace (R23), and none reaches CTH unless the trunk is LOCKED (R14, R189); no delivery waits before, as
the kept property `Bounded` says. A request of unknown kind is
answered BAD_KIND with its kind, and an action of unknown code BAD_VALUE (R24, R30). Each known kind, and an ACTION of
each known code, is the command of its row with the payload's bytes as its operands, numbers of several bytes high byte
first (R24, R27, R30, R177); a ROUTE_ARM's row also takes what a route that starts at once delivers (R102), which
follows the request. A known kind whose payload length does not fit, an action with another count of parameters than its
own, a CUT of another mode than SOFT and HARD and a GROUP of another operation than its six are answered BAD_VALUE (R24,
R30, R177). -/
def Obligations.RequestsSortedOut : Prop :=
  (∀ (c : Instr) (bc : Bool) (s : State), requestOf c = some bc → s.power.running = true → s.rce.due = [] →
     (s.tif.trunk ≠ .locked ∨ s.cth.deckPending = true ∨ (bc = false ∧ 4 ≤ s.cth.replies.length)) →
     exec c s = .next s) ∧
  (∀ (s : State) (kind code : Byte) (bc : Bool) (payload : List Byte),
    (takes false s → exec (.badKind kind) s = .next (withReply false 0x80 [1, kind] s)) ∧
    (takes bc s → exec (.unknownAction bc code) s = .next (withReply bc 0x83 [4] s)) ∧
    (takes bc s → (kind.toNat < 1 ∨ 8 < kind.toNat) →
      handleRequest bc kind payload s = withReply bc 0x80 [1, kind] s) ∧
    (takes bc s → code ∉ ([0x01, 0x02, 0x10, 0x11, 0x12, 0x20, 0x21, 0x30, 0x31, 0x40, 0x50, 0x51, 0x52] : List Byte) →
      handleRequest bc 3 (code :: payload) s = withReply bc 0x83 [4] s)) ∧
  (∀ (s : State) (bc : Bool), s.power.running = true → s.tif.trunk = .locked →
    let row := fun (kind : Byte) (payload : List Byte) (c : Instr) => exec c s = .next (handleRequest false kind payload s)
    let action := fun (code : Byte) (params : List Byte) (c : Instr) =>
      exec c s = .next (handleRequest bc 3 (code :: params) s)
    (∀ (t i1 i0 : Byte) (record : List Byte), row 1 (t :: i1 :: i0 :: record) (.entryWrite t (i1 ++ i0) record)) ∧
    (∀ t i1 i0 : Byte, row 2 [t, i1, i0] (.entryRead t (i1 ++ i0))) ∧
    row 4 [] .stateRead ∧
    (∀ k1 k0 : Byte, row 5 [k1, k0] (.clipErase (k1 ++ k0))) ∧
    (∀ (a2 a1 a0 : Byte) (data : List Byte), row 6 (a2 :: a1 :: a0 :: data) (.clipProgram (a2 ++ a1 ++ a0) data)) ∧
    (∀ a2 a1 a0 n : Byte, row 7 [a2, a1, a0, n] (.clipRead (a2 ++ a1 ++ a0) n)) ∧
    exec (.deckReset bc) s = .next (handleRequest bc 8 [] s) ∧
    (∀ params : List Byte, action 0x01 params (.announce bc params)) ∧
    (∀ id : Byte, action 0x02 [id, 0] (.cutSoft bc id) ∧ action 0x02 [id, 1] (.cutHard bc id)) ∧
    (∀ n : Byte, action 0x10 [n] (.scene bc n)) ∧
    (∀ g p m on off a b k f st h : Byte,
      action 0x11 [g, 0, p, m, on, off, a, b, k, f, st, h] (.groupPreset bc g p st) ∧
      action 0x11 [g, 1, p, m, on, off, a, b, k, f, st, h] (.groupFields bc g m on off a b k f st) ∧
      action 0x11 [g, 2, p, m, on, off, a, b, k, f, st, h] (.groupStart bc g) ∧
      action 0x11 [g, 3, p, m, on, off, a, b, k, f, st, h] (.groupStop bc g) ∧
      action 0x11 [g, 4, p, m, on, off, a, b, k, f, st, h] (.groupPending bc g a b) ∧
      action 0x11 [g, 5, p, m, on, off, a, b, k, f, st, h] (.groupHold bc g h)) ∧
    (∀ on : Byte, action 0x12 [on] (if on = 0 then .supplyOff bc else .supplyOn bc)) ∧
    (∀ c1 c0 tag : Byte,
      exec (.routeArm bc (c1 ++ c0) tag) s = .next (settle (handleRequest bc 3 [0x20, c1, c0, tag] s))) ∧
    action 0x21 [] (.routeDisarm bc) ∧
    action 0x30 [] (.stopClear bc) ∧
    (∀ params : List Byte, action 0x31 params (.seat bc params)) ∧
    (∀ zones on : Byte, action 0x40 [zones, on] (.quiet bc zones on)) ∧
    (∀ f1 f0 l : Byte, action 0x50 [f1, f0, l] (.clipLock bc (f1 ++ f0) l)) ∧
    (∀ p f1 f0 l : Byte, action 0x51 [p, f1, f0, l] (.clipUnlock bc p (f1 ++ f0) l)) ∧
    action 0x52 [] (.cacheFlush bc)) ∧
  ∀ (s : State) (bc : Bool) (payload : List Byte), takes bc s →
    let refused := fun (kind reply : Byte) (p : List Byte) => handleRequest bc kind p s = withReply bc reply [4] s
    (payload.length < 3 → refused 1 0x81 payload ∧ refused 6 0x86 payload) ∧
    (payload.length ≠ 3 → refused 2 0x82 payload) ∧
    (payload.length = 0 → refused 3 0x83 payload) ∧
    (payload.length ≠ 0 → refused 4 0x84 payload ∧ refused 8 0x88 payload) ∧
    (payload.length ≠ 2 → refused 5 0x85 payload) ∧
    (payload.length ≠ 4 → refused 7 0x87 payload) ∧
    (∀ code count, (code, count) ∈ ([(0x01, 12), (0x02, 2), (0x10, 1), (0x11, 12), (0x12, 1), (0x20, 3), (0x21, 0), (0x30, 0),
        (0x31, 7), (0x40, 2), (0x50, 3), (0x51, 4), (0x52, 0)] : List (Byte × Nat)) →
      payload.length ≠ count → refused 3 0x83 (code :: payload)) ∧
    (∀ id mode : Byte, 1 < mode.toNat → refused 3 0x83 [0x02, id, mode]) ∧
    ∀ g op : Byte, 5 < op.toNat → refused 3 0x83 (0x11 :: g :: op :: payload)

/-- ENTRY_READ: BAD_TABLE, then BAD_INDEX, then DONE with the table id, the index high byte first and the record; no
record changes (R29). The record's bytes by its table: seat (R38), zone (R76), language with its live flag (R41, R42), noise
curve with the speed boost (R60), cue (R89, R90), phrase (R108), clip (R146), cell (R166), lamp group, configuration and
dynamic fields (R167), preset (R175), scene (R176) and settings (R31), 0 in what a record has none of (R27). -/
def Obligations.EntryReadAnswers : Prop :=
  ∀ (table : Byte) (index : Word16) (s : State), takes false s →
    ((table.toNat < 1 ∨ 12 < table.toNat) → exec (.entryRead table index) s = .next (withReply false 0x82 [2] s)) ∧
    (∀ t : Table, Table.ofId table = some t → t.entries ≤ index.toNat →
      exec (.entryRead table index) s = .next (withReply false 0x82 [3] s)) ∧
    let b := BitVec.ofNat 8
    let w := fun n : Nat => [b (n / 256), b n]
    let yn := fun y : Bool => if y then (1 : Byte) else 0
    let opt := fun (o : Option Nat) => match o with | none => [0, 0] | some n => [1, b n]
    let done := fun (record : List Byte) =>
      exec (.entryRead table index) s = .next (withReply false 0x82
        ([0, table, index.extractLsb' 8 8, index.extractLsb' 0 8] ++ record) s)
    let mode := fun m : Mode => match m with | .off => 0 | .steady => 1 | .blink => 2 | .pulses => 3 | .fade => (4 : Byte)
    let rend := fun r : Rendering => match r with | .speakers => 0 | .headsets => 1 | .both => (2 : Byte)
    let langs := fun ls : List Lang => b ls.length :: (ls.map (fun l => b l.val) ++ List.replicate (4 - ls.length) 0)
    let pattern := fun p : Pattern => [mode p.mode, b p.levelOn, b p.levelOff, b p.onLen, b p.offLen, b p.pulseCount, b p.fadeStep]
    (∀ h : index.toNat < 64, table = 1 →
      let x := s.scc.seats.get ⟨index.toNat, h⟩
      done [b x.zone.val, yn x.enabled, yn x.present, b x.lang.val, b x.volume, b x.defVolume, b x.cap,
        yn x.stopPressed]) ∧
    (∀ h : index.toNat < 4, table = 2 →
      let x := s.zou.zones.get ⟨index.toNat, h⟩
      done ([b x.channel.val, b x.boost, b x.defLang.val, b x.trim] ++ opt (x.program.map Fin.val) ++
        [yn x.quiet, b x.duck])) ∧
    (∀ h : index.toNat < 12, table = 3 →
      let x := s.scc.languages.get ⟨index.toNat, h⟩
      done (yn x.offered :: (opt (x.fallback.map Fin.val) ++ [yn (s.tif.live.getLsbD index.toNat)]))) ∧
    (index.toNat < 1 → table = 4 →
      done (((List.finRange 8).flatMap fun i => [b (s.hmx.curve.get i).speed, b (s.hmx.curve.get i).boost]) ++
        [b s.hmx.boost])) ∧
    (∀ h : index.toNat < 256, table = 5 →
      let x := s.rce.cues.get ⟨index.toNat, h⟩
      done (w x.trigger ++ (match x.latest with | none => [0, 0, 0] | some l => 1 :: w l) ++
        (match x.action with
         | .announce p pr m r ls => [0, b p.val, b pr.val, b m.toNat, rend r] ++ langs ls ++ [0]
         | .scene n => [1, 0, 0, 0, 0, 0, 0, 0, 0, 0, b n.val]
         | .quietOn m => [2, 0, 0, b m.toNat, 0, 0, 0, 0, 0, 0, 0]
         | .quietOff m => [3, 0, 0, b m.toNat, 0, 0, 0, 0, 0, 0, 0]
         | .stopReached => [4, 0, 0, 0, 0, 0, 0, 0, 0, 0, 0]
         | .mark => [5, 0, 0, 0, 0, 0, 0, 0, 0, 0, 0]) ++
        [match x.state with | .pending => 0 | .fired => 1 | .missed => 2 | .skipped => 3])) ∧
    (∀ h : index.toNat < 128, table = 6 →
      let is := s.asq.phrases.get ⟨index.toNat, h⟩
      done (b is.length :: ((is.flatMap fun i => w i.family ++ [yn i.neutral]) ++
        List.replicate (3 * (8 - is.length)) 0))) ∧
    (∀ h : index.toNat < 512, table = 7 →
      done (match s.ccc.directory.get ⟨index.toNat, h⟩ with
        | none => List.replicate 9 0
        | some x => 1 :: (w x.family ++ [b x.language] ++ w x.first ++
            [b (x.length / 65536), b (x.length / 256), b x.length]))) ∧
    (∀ h : index.toNat < 192, table = 8 → done (opt ((s.lmc.cells.get ⟨index.toNat, h⟩).map Fin.val))) ∧
    (∀ h : index.toNat < 24, table = 9 →
      let x := s.lmc.groups.get ⟨index.toNat, h⟩
      done ([mode x.pat.mode, b x.pat.levelOn, b x.pat.levelOff, b x.pat.onLen, b x.pat.offLen] ++
        (match x.pending with | none => [0, 0, 0] | some (p, q) => [1, b p, b q]) ++ [b x.pat.pulseCount, b x.pat.fadeStep] ++
        (match x.source with
         | .none => [0, 0, 0, 0]
         | .stopRequest => [1, 0, 0, 0]
         | .announce m k => [2, b m.toNat, b k.val, 0]
         | .alarm => [3, 0, 0, 0]
         | .chain g => [4, 0, 0, b g.val]) ++
        [yn x.follow, yn x.hold, yn x.safety, yn x.running, yn (!x.phaseOn), yn x.begun, b x.framesLeft, b x.pulsesLeft,
          b x.level, match x.ign with | .dark => 0 | .waiting => 1 | .lit => 2])) ∧
    (∀ h : index.toNat < 32, table = 10 → done (pattern (s.lmc.presets.get ⟨index.toNat, h⟩))) ∧
    (∀ h : index.toNat < 16, table = 11 →
      done ((List.finRange 24).map fun g => match (s.lmc.scenes.get ⟨index.toNat, h⟩).get g with
        | .leave => 0 | .stop => 1 | .load p => b (p.val + 2))) ∧
    (index.toNat < 1 → table = 12 →
      let x := s.cth.settings
      done ([b x.trim] ++ ((List.finRange 4).map fun p => b (x.duck.get p)) ++ w x.hang ++ w x.gap ++ w x.jump ++ w x.ramp ++
        [b x.rows] ++ opt (x.chime.map Fin.val) ++ [rend x.chimeRendering] ++ opt (x.alarm.map Fin.val) ++
        langs x.speakers))

/-- A seat record written: the writable fields with their clamps, stop pressed dropped where enabled becomes no, and both
applied indexes lifted to the new cap; a zone above 3 or a language above 11 is refused and changes nothing
(R38, R39, R40, R67). -/
def Obligations.SeatRecordWritten : Prop :=
  ∀ (index : Word16) (z e p l v d c sp : Byte) (s : State) (h : index.toNat < 64), takes false s →
    (3 < z.toNat ∨ 11 < l.toNat →
      exec (.entryWrite 1 index [z, e, p, l, v, d, c, sp]) s = .next (withReply false 0x81 [4] s)) ∧
    ∀ (hz : z.toNat < 4) (hl : l.toNat < 12),
      let i : SeatNo := ⟨index.toNat, h⟩
      let x := s.scc.seats.get i
      let g := s.hmx.gains.get i
      let cap := min 24 c.toNat
      let y : Seat :=
        { zone := ⟨z.toNat, hz⟩, enabled := e != 0, present := x.present, lang := ⟨l.toNat, hl⟩,
          volume := min 15 v.toNat, defVolume := min 15 d.toNat, cap := cap,
          stopPressed := if x.enabled && e == 0 then false else x.stopPressed }
      exec (.entryWrite 1 index [z, e, p, l, v, d, c, sp]) s = .next (withReply false 0x81 [0]
        { s with
          scc := { s.scc with seats := put s.scc.seats i y },
          hmx := { s.hmx with gains := put s.hmx.gains i { g with gc := max g.gc cap, ga := max g.ga cap } } })

/-- The settings record written whole, with the clamps of its table; scan rows other than 4, 6 or 8 are refused
(R31). -/
def Obligations.SettingsWritten : Prop :=
  ∀ (t d0 d1 d2 d3 h1 h0 g1 g0 j1 j0 r1 r0 rows cp cv cr ap av n a b c d : Byte) (s : State), takes false s →
    let record := [t, d0, d1, d2, d3, h1, h0, g1, g0, j1, j0, r1, r0, rows, cp, cv, cr, ap, av, n, a, b, c, d]
    (rows ≠ 4 → rows ≠ 6 → rows ≠ 8 →
      exec (.entryWrite 12 0 record) s = .next (withReply false 0x81 [4] s)) ∧
    ((cp ≠ 0 ∧ 127 < cv.toNat) ∨ (ap ≠ 0 ∧ 127 < av.toNat) ∨ 2 < cr.toNat ∨ n = 0 ∨ 4 < n.toNat ∨
        (∃ k ∈ [a, b, c, d].take n.toNat, 11 < k.toNat) →
      exec (.entryWrite 12 0 record) s = .next (withReply false 0x81 [4] s)) ∧
    ((rows = 4 ∨ rows = 6 ∨ rows = 8) → (cp = 0 ∨ cv.toNat ≤ 127) → (ap = 0 ∨ av.toNat ≤ 127) → cr.toNat ≤ 2 →
      1 ≤ n.toNat → n.toNat ≤ 4 → (∀ k ∈ [a, b, c, d].take n.toNat, k.toNat < 12) →
      ∃ u, exec (.entryWrite 12 0 record) s = .next u ∧ { u with cth := s.cth } = s ∧
        { u.cth with settings := s.cth.settings } = (withReply false 0x81 [0] s).cth ∧
        u.cth.settings.trim = min 24 t.toNat ∧
        u.cth.settings.duck = #v[min 121 d0.toNat, min 121 d1.toNat, min 121 d2.toNat, min 121 d3.toNat] ∧
        u.cth.settings.hang = min 1000 (h1.toNat * 256 + h0.toNat) ∧
        u.cth.settings.gap = min 2000 (g1.toNat * 256 + g0.toNat) ∧
        u.cth.settings.jump = max 10 (min 1000 (j1.toNat * 256 + j0.toNat)) ∧
        u.cth.settings.ramp = max 16 (min 1000 (r1.toNat * 256 + r0.toNat)) ∧
        u.cth.settings.rows = rows.toNat ∧
        u.cth.settings.chime.map Fin.val = (if cp = 0 then none else some cv.toNat) ∧
        (match u.cth.settings.chimeRendering with | .speakers => 0 | .headsets => 1 | .both => 2) = cr ∧
        u.cth.settings.alarm.map Fin.val = (if ap = 0 then none else some av.toNat) ∧
        u.cth.settings.speakers.map Fin.val = ([a, b, c, d].take n.toNat).map BitVec.toNat)

/-- A record as it is read, written back, decodes to the same fields, for every record whose fields are in range (R27 and
the record tables R31, R38, R41, R60, R76, R89, R108, R146, R166, R167, R175, R176). -/
def Obligations.RecordsDecodeBack : Prop :=
  (∀ x : Seat, x.volume ≤ 15 → x.defVolume ≤ 15 → x.cap ≤ 24 →
    decodeSeat (seatBytes x) = some { zone := x.zone, enabled := x.enabled, lang := x.lang, volume := x.volume,
                                      defVolume := x.defVolume, cap := x.cap }) ∧
  (∀ x : ZoneRec, x.boost ≤ 12 → x.trim ≤ 60 →
    decodeZone (zoneBytes x) = some { channel := x.channel, boost := x.boost, defLang := x.defLang, trim := x.trim,
                                      program := x.program }) ∧
  (∀ (own : Lang) (x : Language) (live : Bool), x.fallback ≠ some own →
    decodeLanguage own (languageBytes x live) = some x) ∧
  (∀ c : Cue, c.trigger < 65536 → (∀ l, c.latest = some l → c.trigger ≤ l ∧ l < 65536) →
    (∀ p pr m r ls, c.action = .announce p pr m r ls → ls.length ≤ 4) →
    decodeCue (cueBytes c) = some { c with state := .pending }) ∧
  (∀ is : List Item, is.length ≤ 8 → (∀ i ∈ is, i.family ≤ 1023) → decodePhrase (phraseBytes is) = some is) ∧
  (∀ c : Clip, c.family ≤ 1023 → (c.language ≤ 11 ∨ c.language = 15) → c.first ≤ 4095 → 1 ≤ c.length →
    c.length ≤ 524288 → c.first + (c.length + 2047) / 2048 - 1 ≤ 4095 →
    decodeClip (clipBytesOf (some c)) = some (some c)) ∧
  decodeClip (clipBytesOf none) = some none ∧
  (∀ g : Option GroupNo, decodeCell (optBytes g) = some g) ∧
  (∀ p : Pattern, p.levelOn ≤ 63 → p.levelOff ≤ 63 → 1 ≤ p.onLen → p.onLen ≤ 255 → 1 ≤ p.offLen → p.offLen ≤ 255 →
    1 ≤ p.pulseCount → p.pulseCount ≤ 255 → 1 ≤ p.fadeStep → p.fadeStep ≤ 255 →
    decodePreset (patternBytes p) = some p ∧
    ∀ x : Group, x.pat = p → (∀ a b, x.pending = some (a, b) → 1 ≤ a ∧ a ≤ 255 ∧ 1 ≤ b ∧ b ≤ 255) →
      decodeGroup ((groupBytes x).take 17) =
        some { pat := x.pat, pending := x.pending, source := x.source, follow := x.follow, hold := x.hold,
               safety := x.safety }) ∧
  (∀ sc : Vector SceneSetting 24, decodeScene (sc.toList.map settingByte) = some sc) ∧
  (∀ (c : Vector CurvePoint 8) (boost : Nat), (∀ i, (c.get i).speed ≤ 255 ∧ (c.get i).boost ≤ 24) →
    (∀ i j : Fin 8, i ≤ j → (c.get i).speed ≤ (c.get j).speed) → decodeCurve (curveBytes c boost) = some c) ∧
  ∀ x : Settings, x.trim ≤ 24 → (∀ p, x.duck.get p ≤ 121) → x.hang ≤ 1000 → x.gap ≤ 2000 → 10 ≤ x.jump → x.jump ≤ 1000 →
    16 ≤ x.ramp → x.ramp ≤ 1000 → (x.rows = 4 ∨ x.rows = 6 ∨ x.rows = 8) → 1 ≤ x.speakers.length →
    x.speakers.length ≤ 4 → decodeSettings (settingsBytes x) = some x

/-- STATE_READ: DONE and the 25 bytes of the record, each the value its block holds (R32). -/
def Obligations.StateReadAnswers : Prop :=
  ∀ s : State, takes false s →
    ∃ record, exec .stateRead s = .next (withReply false 0x84 (0 :: record) s) ∧ record.length = 25 ∧
      record.take 2 = [0x28, 1] ∧ record[2]? = some (s.tif.node.setWidth 8) ∧
      record[3]? = some (match s.cth.cause with | .power => (0 : Byte) | .line => 1 | .deck => 2) ∧
      record[4]? = some (match s.tif.trunk with | .seeking => (0 : Byte) | .locked => 1 | .lost => 2) ∧
      record[5]? = some (match s.rce.state with
        | .idle => (0 : Byte) | .armed => 1 | .running => 2 | .held => 3 | .complete => 4) ∧
      (s.rce.cursor < 65536 → (record[6]?.getD 0).toNat * 256 + (record[7]?.getD 0).toNat = s.rce.cursor) ∧
      (s.rce.lastOdo < 65536 → (record[8]?.getD 0).toNat * 256 + (record[9]?.getD 0).toNat = s.rce.lastOdo) ∧
      (s.asq.current = none → record[10]? = some 0 ∧ record[11]? = some 0xFF) ∧
      (∀ a, s.asq.current = some a → a.id < 256 →
        (record[10]?.getD 0).toNat = a.id ∧ (record[11]?.getD 0).toNat = a.priority.val) ∧
      (s.asq.queue.length ≤ 16 → (record[12]?.getD 0).toNat = s.asq.queue.length) ∧
      (s.asq.stack.length ≤ 3 → (record[13]?.getD 0).toNat = s.asq.stack.length) ∧
      (record[14]?.getD 0).toNat =
        ((List.finRange 8).filter fun v => decide ((s.vpl.voices.get v).state ≠ .idle)).length ∧
      (record[15]?.getD 0).toNat = ((List.finRange 32).filter fun i =>
        match s.ccc.lines.get i with | .valid _ _ => true | _ => false).length ∧
      (s.ccc.locks.length ≤ 16 → (record[16]?.getD 0).toNat = s.ccc.locks.length) ∧
      record[17]? = some (match s.cmp.fetch, s.cmp.maint with
        | some _, _ => (1 : Byte)
        | none, none => 0
        | none, some m => if m.stage = .pending then 0 else match m.op with
          | .erase _ => 2
          | .program _ _ => 3
          | .read _ _ => 4) ∧
      record[18]? = some (match s.lmc.supply with | .off => (0 : Byte) | .ramp => 1 | .ready => 2 | .fault => 3) ∧
      record[19]? = some (match s.lmc.override with | .clear => (0 : Byte) | .active => 1 | .releasing => 2) ∧
      record[20]? = some (if s.scc.latch.isSome then 1 else 0) ∧
      ∀ b : BoxNo, (record[24 - b.val / 8]?.getD 0).getLsbD (b.val % 8) = (s.scc.boxes.get b).online

/-- ENTRY_WRITE stores the record at its index with the clamps of its table and changes nothing else (R27, R28). A zone
keeps its quiet flag and duck target, its boost is at most 12 and its trim at most 60 (R76). A language's fallback to
its own index is stored as none (R41). A curve's boosts are at most 24 (R60). A cue, written in IDLE, holds what its
kind uses and no more, and is PENDING (R89, R90). Of a phrase the positions at and above the count are ignored (R108),
of an unused clip entry all other bytes (R146), of an unassigned cell its group (R166). A preset's levels are at most
63, and a length, count or step of 0 is written as 1 (R175). A scene's settings are leave, stop or a preset (R176). The
write is refused by table id, index, payload length, for the cue table outside IDLE, and for a field out of its range,
in that order, with nothing but the reply changed (R28 and the record tables; a seat's fields are `SeatRecordWritten`'s,
the settings' `SettingsWritten`'s, a lamp group's `GroupRecordWritten`'s). -/
def Obligations.RecordsStored : Prop :=
  (∀ (index : Word16) (record : List Byte) (s : State), takes false s →
     let done := fun t : State => Host.Outcome.next (withReply false 0x81 [0] t)
     let v := fun k : Nat => (record.getD k 0).toNat
     (∀ h : index.toNat < 4, record.length = 8 → v 0 ≤ 3 → v 2 ≤ 11 → (v 4 = 0 ∨ v 5 ≤ 11) →
       exec (.entryWrite 2 index record) s = done { s with zou := { s.zou with
         zones := put s.zou.zones ⟨index.toNat, h⟩
           { s.zou.zones.get ⟨index.toNat, h⟩ with
             channel := Fin.ofNat 4 (v 0), boost := min 12 (v 1), defLang := Fin.ofNat 12 (v 2), trim := min 60 (v 3),
             program := if v 4 = 0 then none else some (Fin.ofNat 12 (v 5)) } } }) ∧
     (∀ h : index.toNat < 12, record.length = 4 → (v 1 = 0 ∨ v 2 ≤ 11) →
       exec (.entryWrite 3 index record) s = done { s with scc := { s.scc with
         languages := put s.scc.languages ⟨index.toNat, h⟩
           { offered := decide (v 0 ≠ 0),
             fallback := if v 1 = 0 ∨ v 2 = index.toNat then none else some (Fin.ofNat 12 (v 2)) } } }) ∧
     (index = 0 → record.length = 17 → (∀ i < 7, v (2 * i) ≤ v (2 * i + 2)) →
       exec (.entryWrite 4 index record) s = done { s with hmx := { s.hmx with
         curve := Vector.ofFn fun i => { speed := v (2 * i.val), boost := min 24 (v (2 * i.val + 1)) } } }) ∧
     (∀ (h : index.toNat < 256) (action : CueAction), s.rce.state = .idle → record.length = 17 →
       (v 2 = 0 ∨ v 0 * 256 + v 1 ≤ v 3 * 256 + v 4) →
       (match action with
        | .announce p pr m r ls => v 5 = 0 ∧ p.val = v 6 ∧ pr.val = v 7 ∧ m.toNat = v 8 ∧
            (match r with | .speakers => 0 | .headsets => 1 | .both => 2) = v 9 ∧ ls.length = v 10 ∧ v 10 ≤ 4 ∧
            ls.map Fin.val = ((record.drop 11).take (v 10)).map BitVec.toNat
        | .scene n => v 5 = 1 ∧ n.val = v 15
        | .quietOn m => v 5 = 2 ∧ m.toNat = v 8
        | .quietOff m => v 5 = 3 ∧ m.toNat = v 8
        | .stopReached => v 5 = 4
        | .mark => v 5 = 5) →
       exec (.entryWrite 5 index record) s = done { s with rce := { s.rce with
         cues := put s.rce.cues ⟨index.toNat, h⟩
           { trigger := v 0 * 256 + v 1, latest := if v 2 = 0 then none else some (v 3 * 256 + v 4), action := action,
             state := .pending } } }) ∧
     (∀ h : index.toNat < 128, record.length = 25 → v 0 ≤ 8 → (∀ i < v 0, v (3 * i + 1) * 256 + v (3 * i + 2) ≤ 1023) →
       exec (.entryWrite 6 index record) s = done { s with asq := { s.asq with
         phrases := put s.asq.phrases ⟨index.toNat, h⟩ ((List.range (v 0)).map fun i =>
           { family := v (3 * i + 1) * 256 + v (3 * i + 2), neutral := decide (v (3 * i + 3) ≠ 0) }) } }) ∧
     (∀ h : index.toNat < 512, record.length = 9 →
       let c : Clip := { family := v 1 * 256 + v 2, language := v 3, first := v 4 * 256 + v 5,
                         length := v 6 * 65536 + v 7 * 256 + v 8 }
       (v 0 = 0 ∨ (c.family ≤ 1023 ∧ (c.language ≤ 11 ∨ c.language = 15) ∧ c.first ≤ 4095 ∧ 1 ≤ c.length ∧
           c.length ≤ 524288 ∧ c.first + (c.length + 2047) / 2048 - 1 ≤ 4095)) →
       exec (.entryWrite 7 index record) s = done { s with ccc := { s.ccc with
         directory := put s.ccc.directory ⟨index.toNat, h⟩ (if v 0 = 0 then none else some c) } }) ∧
     (∀ h : index.toNat < 192, record.length = 2 → (v 0 = 0 ∨ v 1 ≤ 23) →
       exec (.entryWrite 8 index record) s = done { s with lmc := { s.lmc with
         cells := put s.lmc.cells ⟨index.toNat, h⟩ (if v 0 = 0 then none else some (Fin.ofNat 24 (v 1))) } }) ∧
     (∀ (h : index.toNat < 32) (mode : Mode), record.length = 7 →
       (match mode with | .off => 0 | .steady => 1 | .blink => 2 | .pulses => 3 | .fade => 4) = v 0 →
       exec (.entryWrite 10 index record) s = done { s with lmc := { s.lmc with
         presets := put s.lmc.presets ⟨index.toNat, h⟩
           { mode := mode, levelOn := min 63 (v 1), levelOff := min 63 (v 2), onLen := max 1 (v 3), offLen := max 1 (v 4),
             pulseCount := max 1 (v 5), fadeStep := max 1 (v 6) } } }) ∧
     (∀ h : index.toNat < 16, record.length = 24 → (∀ i < 24, v i ≤ 33) →
       exec (.entryWrite 11 index record) s = done { s with lmc := { s.lmc with
         scenes := put s.lmc.scenes ⟨index.toNat, h⟩ (Vector.ofFn fun g =>
           if v g.val = 0 then .leave else if v g.val = 1 then .stop else .load (Fin.ofNat 32 (v g.val - 2))) } })) ∧
  ∀ (table : Byte) (index : Word16) (record : List Byte) (s : State), takes false s →
    ((table.toNat < 1 ∨ 12 < table.toNat) →
      exec (.entryWrite table index record) s = .next (withReply false 0x81 [2] s)) ∧
    ∀ t : Table, Table.ofId table = some t →
      (t.entries ≤ index.toNat → exec (.entryWrite table index record) s = .next (withReply false 0x81 [3] s)) ∧
      (index.toNat < t.entries → record.length ≠ t.size →
        exec (.entryWrite table index record) s = .next (withReply false 0x81 [4] s)) ∧
      (index.toNat < t.entries → record.length = t.size → t = .cue → s.rce.state ≠ .idle →
        exec (.entryWrite table index record) s = .next (withReply false 0x81 [5] s)) ∧
      let v := fun k : Nat => (record.getD k 0).toNat
      (index.toNat < t.entries → record.length = t.size → (t = .cue → s.rce.state = .idle) →
        (match t with
         | .zone => 3 < v 0 ∨ 11 < v 2 ∨ (v 4 ≠ 0 ∧ 11 < v 5)
         | .language => v 1 ≠ 0 ∧ 11 < v 2
         | .curve => ∃ i < 7, v (2 * i + 2) < v (2 * i)
         | .cue => (v 2 ≠ 0 ∧ v 3 * 256 + v 4 < v 0 * 256 + v 1) ∨ 5 < v 5 ∨
             (v 5 = 0 ∧ (127 < v 6 ∨ 3 < v 7 ∨ 15 < v 8 ∨ 2 < v 9 ∨ 4 < v 10 ∨ ∃ i < v 10, i < 4 ∧ 11 < v (11 + i))) ∨
             (v 5 = 1 ∧ 15 < v 15) ∨ ((v 5 = 2 ∨ v 5 = 3) ∧ 15 < v 8)
         | .phrase => 8 < v 0 ∨ ∃ i < v 0, 1023 < v (3 * i + 1) * 256 + v (3 * i + 2)
         | .clip => v 0 ≠ 0 ∧
             let first := v 4 * 256 + v 5
             let length := v 6 * 65536 + v 7 * 256 + v 8
             (1023 < v 1 * 256 + v 2 ∨ (11 < v 3 ∧ v 3 ≠ 15) ∨ 4095 < first ∨ length < 1 ∨ 524288 < length ∨
               4095 < first + (length + 2047) / 2048 - 1)
         | .cell => v 0 ≠ 0 ∧ 23 < v 1
         | .group => 4 < v 0 ∨ 4 < v 10 ∨ (v 10 = 2 ∧ (15 < v 11 ∨ 3 < v 12)) ∨ (v 10 = 4 ∧ 23 < v 13)
         | .preset => 4 < v 0
         | .scene => ∃ i < 24, 33 < v i
         | .seat | .settings => False) →
        exec (.entryWrite table index record) s = .next (withReply false 0x81 [4] s))

/-! ## Announcements -/

/-- An id issued is the first after the last issued one, counting 1 to 255 and then 1 again, that no live announcement
holds (R110); in states where at most 20 are live, as the invariant of R110, R115 and R116 gives. -/
def Obligations.FreshIds : Prop :=
  ∀ s : State, AnnouncementsKept s →
    1 ≤ nextId s ∧ nextId s ≤ 255 ∧ (∀ a ∈ liveAnnouncements s, a.id ≠ nextId s) ∧
    ∀ k, 1 ≤ k → k ≤ 255 → (∀ a ∈ liveAnnouncements s, a.id ≠ k) →
      (nextId s + 254 - s.asq.lastId) % 255 ≤ (k + 254 - s.asq.lastId) % 255

/-- ANNOUNCE with no announcement current and the limit not passed: the announcement becomes current with its record's
fields, its resume point round 0 and item 0, which is the model's (notes/assumptions/44.md), ZOU ducks its zones, its
voices and map are made, the lamp groups it qualifies for start, and the reply is DONE with the id (R78, R109, R111,
R114, R125, R130, R174); that all its voices are taken before the first is started is the model's
(notes/assumptions/34.md). With the limit passed it ends STALE, its id and arrival issued, and the reply is DONE with
the id (R111, R114). A count of parameters other than 12, a field out of its range or an empty phrase is refused with
nothing changed. No maintenance operation waits with the port READY, as the kept property `PortKept` says. -/
def Obligations.AnnounceStarts : Prop :=
  (∀ (bc : Bool) (params : List Byte) (p : AnnounceParams) (s : State), takes bc s → PortSettled s →
     decodeAnnounce params = some p → s.asq.phrases.get p.phrase ≠ [] → s.asq.current = none →
     (∀ l, p.stale = some l → (s.rce.state = .running ∨ s.rce.state = .complete) → s.rce.lastOdo ≤ l) →
     ∃ t, exec (.announce bc params) s = .next t ∧
       madeCurrent
         { id := nextId s, source := .phrase p.phrase, priority := p.priority, mask := p.mask, rendering := p.rendering,
           langs := if p.langs = [] then s.cth.settings.speakers else p.langs, stale := p.stale, origin := .command,
           arrival := s.asq.nextArrival, resume := { round := 0, items := 0 }, played := false, hang := .pressed } none s t ∧
       t.cth = (withReply bc 0x83 [0, BitVec.ofNat 8 (nextId s)] s).cth) ∧
  (∀ (bc : Bool) (params : List Byte) (p : AnnounceParams) (l : Nat) (s : State), takes bc s →
     decodeAnnounce params = some p → s.asq.phrases.get p.phrase ≠ [] → s.asq.current = none → p.stale = some l →
     (s.rce.state = .running ∨ s.rce.state = .complete) → l < s.rce.lastOdo →
     exec (.announce bc params) s = .next (withReply bc 0x83 [0, BitVec.ofNat 8 (nextId s)]
       (pushNotice (.announceEnd (nextId s) .stale)
         { s with asq := { s.asq with lastId := nextId s, nextArrival := s.asq.nextArrival + 1 } }))) ∧
  ∀ (bc : Bool) (params : List Byte) (s : State), takes bc s →
    (params.length ≠ 12 → exec (.announce bc params) s = .next (withReply bc 0x83 [4] s)) ∧
    (∀ p pr m r n a b c d sp s1 s0 : Byte, params = [p, pr, m, r, n, a, b, c, d, sp, s1, s0] →
      (127 < p.toNat ∨ 3 < pr.toNat ∨ 15 < m.toNat ∨ 2 < r.toNat ∨ 4 < n.toNat ∨
        (∃ k ∈ [a, b, c, d].take n.toNat, 11 < k.toNat) ∨
        (∃ h : p.toNat < 128, s.asq.phrases.get ⟨p.toNat, h⟩ = [])) →
      exec (.announce bc params) s = .next (withReply bc 0x83 [4] s)) ∧
    (∀ (p pr m r n a b c d sp s1 s0 : Byte) (x : AnnounceParams), params = [p, pr, m, r, n, a, b, c, d, sp, s1, s0] →
      (decodeAnnounce params = some x ↔
        x.phrase.val = p.toNat ∧ x.priority.val = pr.toNat ∧ x.mask.toNat = m.toNat ∧
        (match x.rendering with | .speakers => 0 | .headsets => 1 | .both => 2) = r.toNat ∧ n.toNat ≤ 4 ∧
        x.langs.map Fin.val = ([a, b, c, d].take n.toNat).map BitVec.toNat ∧
        x.stale = if sp = 0 then none else some (s1.toNat * 256 + s0.toNat)))

/-- ANNOUNCE placed against a current announcement of the same or a higher priority (R114, R115): with its record's
fields, its resume point round 0 and item 0, which is the model's (notes/assumptions/44.md), it joins the queue behind
every entry of a higher priority or of its own with an earlier arrival and before the rest, displaces the last entry of
a full queue whose priority is lower, or is refused FULL with its notice. -/
def Obligations.AnnounceQueues : Prop :=
  ∀ (bc : Bool) (params : List Byte) (p : AnnounceParams) (c : Announcement) (s : State), takes bc s →
    decodeAnnounce params = some p → s.asq.phrases.get p.phrase ≠ [] → s.asq.current = some c → p.priority ≤ c.priority →
    let id := BitVec.ofNat 8 (nextId s)
    let x : Announcement :=
      { id := nextId s, source := .phrase p.phrase, priority := p.priority, mask := p.mask, rendering := p.rendering,
        langs := if p.langs = [] then s.cth.settings.speakers else p.langs, stale := p.stale, origin := .command,
        arrival := s.asq.nextArrival, resume := { round := 0, items := 0 }, played := false, hang := .pressed }
    let stays := fun y : Announcement =>
      decide (x.priority < y.priority ∨ (y.priority = x.priority ∧ y.arrival ≤ x.arrival))
    ∃ t, exec (.announce bc params) s = .next t ∧
      { t.asq with queue := s.asq.queue } = { s.asq with lastId := nextId s, nextArrival := s.asq.nextArrival + 1 } ∧
      { t with cth := s.cth, asq := s.asq } = s ∧
      (s.asq.queue.length < 16 →
        t.asq.queue = s.asq.queue.takeWhile stays ++ x :: s.asq.queue.dropWhile stays ∧
        t.cth = (withReply bc 0x83 [0, id] s).cth) ∧
      (∀ rest y, s.asq.queue = rest ++ [y] → 16 ≤ s.asq.queue.length →
        (y.priority < p.priority →
          t.asq.queue = rest.takeWhile stays ++ x :: rest.dropWhile stays ∧
          t.cth = (withReply bc 0x83 [0, id] (pushNotice (.announceEnd y.id .displaced) s)).cth) ∧
        (p.priority ≤ y.priority →
          t.asq.queue = s.asq.queue ∧
          t.cth = (withReply bc 0x83 [6, id] (pushNotice (.announceEnd (nextId s) .refused) s)).cth))

/-- ANNOUNCE of a higher priority than the current announcement, the limit not passed: the current one goes on top of
the stack with its resume point, back to the queue if TALK, or ends CUT under a soft cut, its voices in ENDING and its
lamps stopped; the new one is current with its record's fields (its resume point is the model's,
notes/assumptions/44.md), ducks its zones, takes voices and starts its lamps, and the reply is DONE with its id (R78,
R109, R111, R114, R116, R117, R125, R140, R174). With the limit passed it preempts nothing and ends STALE, the reply
DONE with its id (R111, R114). That a report of the preempted one's end not yet taken is dropped
(notes/assumptions/21.md), that the earlier previous map stays where no voice enters ENDING (notes/assumptions/33.md),
and that all voices are taken before the first is started (notes/assumptions/34.md), is the model's. No maintenance
operation waits with the port READY, as the kept property `PortKept` says. -/
def Obligations.AnnouncePreempts : Prop :=
  ∀ (bc : Bool) (params : List Byte) (p : AnnounceParams) (c : Announcement) (s : State), takes bc s →
    decodeAnnounce params = some p → s.asq.phrases.get p.phrase ≠ [] → s.asq.current = some c → c.priority < p.priority →
    (∀ l, p.stale = some l → (s.rce.state = .running ∨ s.rce.state = .complete) → l < s.rce.lastOdo →
      exec (.announce bc params) s = .next (withReply bc 0x83 [0, BitVec.ofNat 8 (nextId s)]
        (pushNotice (.announceEnd (nextId s) .stale)
          { s with asq := { s.asq with lastId := nextId s, nextArrival := s.asq.nextArrival + 1 } }))) ∧
    (PortSettled s → (∀ l, p.stale = some l → (s.rce.state = .running ∨ s.rce.state = .complete) → s.rce.lastOdo ≤ l) →
    ∃ t, exec (.announce bc params) s = .next t ∧
      madeCurrent
        { id := nextId s, source := .phrase p.phrase, priority := p.priority, mask := p.mask, rendering := p.rendering,
          langs := if p.langs = [] then s.cth.settings.speakers else p.langs, stale := p.stale, origin := .command,
          arrival := s.asq.nextArrival, resume := { round := 0, items := 0 }, played := false, hang := .pressed }
        (some c) s t ∧
      t.cth = (withReply bc 0x83 [0, BitVec.ofNat 8 (nextId s)] (told (givesWay c s).2.2 s)).cth)

/-- The announcements that no request on the trunk makes. A rise of the talk flag with a TALK live makes it PRESSED
again, and with none live makes one of priority 2 for all zones and both renderings, which is placed (R113); a fall
begins the hang with the hang time as it stands, and with hang time 0 the TALK ends at once, COMPLETED where it is
current and LAPSED where it is queued (R123). A CHIME or ALARM request without its phrase, or with one of its origin
live, is dropped; that of an empty phrase ends REFUSED with its id issued; any other is placed, as is an ANNOUNCE
delivery of a cue with the values of its entry (R103, R112). The rise and the fall come by slots (`SlotHandsEventsOn`),
the chime by a stop press (`StopLatchActs`), the alarm by the override (`AlarmLineActs`), the cue by a step and its
delivery (`NormalStepMarks`, `RouteStepsAct`). One that preempts a TALK returns it to the queue, where a full queue
displaces its last entry of a lower priority or the TALK itself (R116, R117). The resume point of a new one is the
model's (notes/assumptions/44.md). Where a preemption or an end is part of it, the dropped report, the kept previous map
and the voices all taken first are the model's (notes/assumptions/21.md, notes/assumptions/33.md,
notes/assumptions/34.md). No maintenance operation waits with the port READY, as the kept property `PortKept` says. -/
def Obligations.InternalAnnouncementsPlaced : Prop :=
  ∀ s : State, PortSettled s →
    let onTalk := fun (f : Hang → Hang) =>
      let g := fun a : Announcement => if a.source = .talk then { a with hang := f a.hang } else a
      ({ s with asq := { s.asq with current := s.asq.current.map g, queue := s.asq.queue.map g } } : State)
    let fallen := fun h : Hang => match h with | .pressed => .released 0 s.cth.settings.hang | .released n k => .released n k
    let record := fun (source : Source) (priority : Fin 4) (mask : ZoneMask) (rendering : Rendering) (langs : List Lang)
        (stale : Option Nat) (origin : Origin) =>
      ({ id := nextId s, source := source, priority := priority, mask := mask, rendering := rendering,
         langs := if langs = [] then s.cth.settings.speakers else langs, stale := stale, origin := origin,
         arrival := s.asq.nextArrival, resume := { round := 0, items := 0 }, played := false, hang := .pressed } : Announcement)
    let requested := fun (p : Fin 128) (x : Announcement) (t : State) =>
      (s.asq.phrases.get p = [] →
        t = pushNotice (.announceEnd (nextId s) .refused)
          { s with asq := { s.asq with lastId := nextId s, nextArrival := s.asq.nextArrival + 1 } }) ∧
      (s.asq.phrases.get p ≠ [] → placed x s t)
    ((∃ a ∈ liveAnnouncements s, a.source = .talk) → talkRise s = onTalk fun _ => .pressed) ∧
    ((∀ a ∈ liveAnnouncements s, a.source ≠ .talk) →
      placed (record .talk 2 0xF .both [] none .talk) s (talkRise s)) ∧
    ((∀ a, (s.asq.current = some a ∨ a ∈ s.asq.queue) → a.source = .talk →
        match a.hang with | .pressed => 0 < s.cth.settings.hang | .released n k => n < k) →
      talkFall s = onTalk fallen) ∧
    (∀ a, s.cth.settings.hang = 0 → s.asq.current = some a → a.source = .talk → a.hang = .pressed →
      (∀ b ∈ s.asq.queue, b.source ≠ .talk) → endedWith a .completed s.cth.replies s (talkFall s)) ∧
    (∀ before a after, s.cth.settings.hang = 0 → (∀ c, s.asq.current = some c → c.source ≠ .talk) →
      s.asq.queue = before ++ a :: after → a.source = .talk → a.hang = .pressed →
      (∀ b ∈ before ++ after, b.source ≠ .talk) →
      talkFall s = pushNotice (.announceEnd a.id .lapsed) { s with asq := { s.asq with queue := before ++ after } }) ∧
    (s.cth.settings.chime = none ∨ (∃ a ∈ liveAnnouncements s, a.origin = .chime) → requestChime s = s) ∧
    (∀ p, s.cth.settings.chime = some p → (∀ a ∈ liveAnnouncements s, a.origin ≠ .chime) →
      requested p (record (.phrase p) 0 0xF s.cth.settings.chimeRendering [] none .chime) (requestChime s)) ∧
    (s.cth.settings.alarm = none ∨ (∃ a ∈ liveAnnouncements s, a.origin = .alarm) → requestAlarm s = s) ∧
    (∀ p, s.cth.settings.alarm = some p → (∀ a ∈ liveAnnouncements s, a.origin ≠ .alarm) →
      requested p (record (.phrase p) 3 0xF .both [] none .alarm) (requestAlarm s)) ∧
    ∀ (i : Nat) (latest : Option Nat) (p : Fin 128) (pr : Fin 4) (m : ZoneMask) (r : Rendering) (ls : List Lang),
      requested p (record (.phrase p) pr m r ls latest (.cue i))
        (takeDelivery { index := i, action := .announce p pr m r ls, stale := latest } s)

/-- CUT by where the announcement with the id stands (R121, R122): in the queue or on the stack it is removed with
outcome CUT; current, a HARD cut or a cut of TALK ends it and selects, its voices entering ENDING (R140), a SOFT cut
sets the mark, under which a voice in GAP finishes, its record as after reset (notes/assumptions/41.md), and a claim is
dropped (R141), or does nothing under one; with no such announcement the reply is NOT_FOUND and nothing changes. Selection
takes the candidates of R118 in turn, each passed over with its notice. That a hard cut drops a report not yet taken
(notes/assumptions/21.md) and keeps the earlier previous map where no voice enters ENDING (notes/assumptions/33.md), and
that the chosen announcement's voices are all taken before the first is started (notes/assumptions/34.md), is the
model's. Where it ends the current one, no maintenance operation waits with the port READY, as the kept property
`PortKept` says. -/
def Obligations.CutActs : Prop :=
  ∀ (bc hard : Bool) (id : Byte) (s : State), takes bc s →
    let c := if hard then Instr.cutHard bc id else Instr.cutSoft bc id
    let named := fun a : Announcement => a.id == id.toNat
    ((∀ a ∈ liveAnnouncements s, a.id ≠ id.toNat) → exec c s = .next (withReply bc 0x83 [8] s)) ∧
    (s.asq.queue.any named → exec c s = .next (withReply bc 0x83 [0]
      (pushNotice (.announceEnd id.toNat .cut) { s with asq := { s.asq with queue := s.asq.queue.eraseP named } }))) ∧
    (s.asq.queue.any named = false → s.asq.stack.any named → exec c s = .next (withReply bc 0x83 [0]
      (pushNotice (.announceEnd id.toNat .cut) { s with asq := { s.asq with stack := s.asq.stack.eraseP named } }))) ∧
    ∀ a, s.asq.queue.any named = false → s.asq.stack.any named = false → s.asq.current = some a → a.id = id.toNat →
      (PortSettled s → (hard = true ∨ a.source = .talk) →
        ∃ t, exec c s = .next t ∧ endedWith a .cut (withReply bc 0x83 [0] s).cth.replies s t) ∧
      (hard = false → a.source ≠ .talk → s.asq.softCut = true → exec c s = .next (withReply bc 0x83 [0] s)) ∧
      (hard = false → a.source ≠ .talk → s.asq.softCut = false →
        ∃ t, exec c s = .next t ∧ { t.asq with report := s.asq.report } = { s.asq with softCut := true } ∧
          t.cth = (withReply bc 0x83 [0] s).cth ∧ reported s t ∧
          (∀ r, s.vpl.rendering = some r → t.vpl.rendering = some { r with softCut := true } ∧ t.vpl.prev = s.vpl.prev ∧
            ∀ v, t.vpl.voices.get v =
              let x := s.vpl.voices.get v
              if x.owner = some r.owner ∧ x.state = .gap then Reset.voice
              else if x.state = .ending ∧ (∃ k, x.claim = some k ∧ k.owner = r.owner) then { x with claim := none }
              else x) ∧
          { t.ccc with queue := s.ccc.queue } = s.ccc ∧
          ((∀ e ∈ s.ccc.queue, ∀ v ∈ e.waiting, (s.vpl.voices.get v).state ≠ .gap) → t.ccc = s.ccc) ∧
          { t with cth := s.cth, asq := s.asq, vpl := s.vpl, ccc := s.ccc } = s)

/-- VPL's report of the current announcement's end: CUT under a soft cut, COMPLETED where an item was played, FAILED
where none was; a report for another announcement is ignored (R120). That the report waits in the state for this
command is the model's (notes/assumptions/2.md). The hang of a TALK announcement has reached its kept time: the
current one ends COMPLETED and selection follows, a queued one leaves the queue and ends LAPSED (R123). Selection judges the
stack's top and the queue's head by priority, the top first on equal ones, until a candidate passes, and one past its limit
or with an empty phrase ends STALE or FAILED with its notice (R118). That the earlier previous map stays where no voice
enters ENDING (notes/assumptions/33.md) and that all voices are taken before the first is started
(notes/assumptions/34.md) is the model's. Where the current one ends, no maintenance operation waits with the port READY, as
the kept property `PortKept` says. -/
def Obligations.AnnouncementEndsAct : Prop :=
  (∀ (s : State) (id : Nat) (played : Bool), s.power.running = true → s.asq.report = some (id, played) →
     (∀ c, PortSettled s → s.asq.current = some c → c.id = id → c.source ≠ .talk →
       ∃ t, exec .voicesFinished s = .next t ∧
         endedWith c (if s.asq.softCut then .cut else if played then .completed else .failed) s.cth.replies s t) ∧
     ((∀ c, s.asq.current = some c → c.id ≠ id) →
       exec .voicesFinished s = .next { s with asq := { s.asq with report := none } })) ∧
  ∀ (s : State), s.power.running = true →
    (∀ c n k, PortSettled s → s.asq.current = some c → c.source = .talk → c.hang = .released n k → k ≤ n →
      ∃ t, exec .talkHangExpiry s = .next t ∧ endedWith c .completed s.cth.replies s t) ∧
    (∀ before a after n k, (∀ c, s.asq.current = some c → c.source ≠ .talk) → s.asq.queue = before ++ a :: after →
      (∀ b ∈ before, b.source ≠ .talk) → a.source = .talk → a.hang = .released n k → k ≤ n →
      exec .talkHangExpiry s =
        .next (pushNotice (.announceEnd a.id .lapsed) { s with asq := { s.asq with queue := before ++ after } }))

/-! ## Route -/

/-- ROUTE_ARM by its checks in order: WRONG_STATE outside IDLE, BAD_VALUE for a count above 256 or triggers that
decrease; else every entry is PENDING and the route is ARMED with its notice (R91); where the test of R92 passes it is
then RUNNING with its notice and steps from 0 to the odometer, a normal step or a relocation by the jump limit, and what
the step delivers is taken (R92, R102, R104), after all of RCE's notices, which is the model's
(notes/assumptions/32.md, notes/assumptions/7.md). No delivery waits before, as the kept property `Bounded` says.
ROUTE_DISARM outside IDLE makes the state IDLE with its notice and keeps every other field; in IDLE nothing changes
(R95). -/
def Obligations.RouteArmDisarmActs : Prop :=
  (∀ (bc : Bool) (count : Word16) (tag : Byte) (s : State), takes bc s → s.rce.due = [] →
     (s.rce.state ≠ .idle → exec (.routeArm bc count tag) s = .next (withReply bc 0x83 [5] s)) ∧
     (s.rce.state = .idle → 256 < count.toNat → exec (.routeArm bc count tag) s = .next (withReply bc 0x83 [4] s)) ∧
     (s.rce.state = .idle → count.toNat ≤ 256 →
       (∃ i j : Fin 256, i.val < j.val ∧ j.val < count.toNat ∧ (s.rce.cues.get j).trigger < (s.rce.cues.get i).trigger) →
       exec (.routeArm bc count tag) s = .next (withReply bc 0x83 [4] s)) ∧
     (s.rce.state = .idle → count.toNat ≤ 256 →
       (∀ i j : Fin 256, i.val < j.val → j.val < count.toNat → (s.rce.cues.get i).trigger ≤ (s.rce.cues.get j).trigger) →
       ∃ t, exec (.routeArm bc count tag) s = .next t ∧ t.rce.count = count.toNat ∧ t.rce.armedTag = tag.toNat ∧
         (¬(s.tif.trunk = .locked ∧ s.tif.drive.odoValid = true ∧ s.tif.drive.tag = tag.toNat) →
           t = withReply bc 0x83 [0] (pushNotice (.routeState .armed 0 false)
             { s with rce := { cues := mapTable (fun c => { c with state := .pending }) s.rce.cues, count := count.toNat,
                               state := .armed, armedTag := tag.toNat, cursor := 0, lastOdo := 0, due := [] } })) ∧
         (s.tif.trunk = .locked → s.tif.drive.odoValid = true → s.tif.drive.tag = tag.toNat →
           let n := s.tif.drive.odometer
           let armed := pushNotice (.routeState .armed 0 false)
             { s with rce := { cues := mapTable (fun c => { c with state := .pending }) s.rce.cues, count := count.toNat,
                               state := .armed, armedTag := tag.toNat, cursor := 0, lastOdo := 0, due := [] } }
           let running := pushNotice (.routeState .running 0 false)
             { armed with rce := { armed.rce with state := .running } }
           t = settle (withReply bc 0x83 [0]
             (if n ≤ s.cth.settings.jump then normalStep n running else relocate n running)) ∧
           (t.rce.state = .running ∨ t.rce.state = .complete) ∧ t.rce.lastOdo = n ∧ t.rce.due = []))) ∧
  ∀ (bc : Bool) (s : State), takes bc s →
    (s.rce.state = .idle → exec (.routeDisarm bc) s = .next (withReply bc 0x83 [0] s)) ∧
    (s.rce.state ≠ .idle → exec (.routeDisarm bc) s = .next (withReply bc 0x83 [0]
      (pushNotice (.routeState .idle s.rce.cursor false) { s with rce := { s.rce with state := .idle } }))) ∧
    ∀ (p : Byte) (ps : List Byte), handleRequest bc 3 (0x21 :: p :: ps) s = withReply bc 0x83 [4] s

/-- A normal forward step to N: the cursor passes every entry whose trigger is not above N, each becomes MISSED where
its limit is passed and FIRED otherwise, and N is the last processed odometer (R97). Each FIRED entry delivers its
action as it is handled, before the next (R97, R102): a MARK queues its notice, any other waits for the block that owns
it. With the cursor at the count the route is then COMPLETE with its notice (R94). The step comes by a slot
(`RouteStepsAct`, `SlotHandsEventsOn`). A block takes its deliveries one by one, oldest first, and those of one step in
index order (R102); a SCENE, a STOP_REACHED and a quiet entry act as the request of that name does, and an ANNOUNCE is a
request to ASQ (`InternalAnnouncementsPlaced`). When a block takes them is the order's to say, which is the model's
(notes/assumptions/7.md, notes/assumptions/32.md). -/
def Obligations.NormalStepMarks : Prop :=
  (∀ (s : State) (n : Nat), s.rce.count ≤ 256 → s.rce.cursor ≤ s.rce.count →
    let t := normalStep n s
    let fired := fun c : Cue => match c.latest with | some l => decide (n ≤ l) | none => true
    t.rce.lastOdo = n ∧ t.rce.count = s.rce.count ∧ s.rce.cursor ≤ t.rce.cursor ∧ t.rce.cursor ≤ s.rce.count ∧
    (∀ i : Fin 256, s.rce.cursor ≤ i.val → i.val < t.rce.cursor →
      let c := s.rce.cues.get i
      c.trigger ≤ n ∧ t.rce.cues.get i = { c with state := if fired c then .fired else .missed }) ∧
    (∀ i : Fin 256, i.val < s.rce.cursor ∨ t.rce.cursor ≤ i.val → t.rce.cues.get i = s.rce.cues.get i) ∧
    (∀ i : Fin 256, i.val = t.rce.cursor → i.val < s.rce.count → n < (s.rce.cues.get i).trigger) ∧
    t.rce.state = (if t.rce.cursor = s.rce.count then .complete else s.rce.state) ∧
    let handled := (List.finRange 256).filter fun i =>
      decide (s.rce.cursor ≤ i.val) && decide (i.val < t.rce.cursor)
    let handle := fun (x : State) (i : Fin 256) =>
      let c := s.rce.cues.get i
      let y : State := { x with rce := { x.rce with
        cues := put x.rce.cues i { c with state := if fired c then .fired else .missed } } }
      let z := if fired c then deliver i.val c (match c.action with | .quietOn m | .quietOff m => m | _ => 0) y else y
      { z with rce := { z.rce with cursor := i.val + 1 } }
    let u := handled.foldl handle s
    t = if t.rce.cursor = s.rce.count then
        pushNotice (.routeState .complete s.rce.count false)
          { u with rce := { u.rce with lastOdo := n, state := .complete } }
      else { u with rce := { u.rce with lastOdo := n } }) ∧
  (∀ (i : Nat) (c : Cue) (mask : ZoneMask) (s : State),
    let handed := fun a : CueAction =>
      { s with rce := { s.rce with due := s.rce.due ++ [{ index := i, action := a, stale := c.latest }] } }
    deliver i c mask s = match c.action with
      | .mark => pushNotice (.cueMark i) s
      | .quietOn _ => handed (.quietOn mask)
      | .quietOff _ => handed (.quietOff mask)
      | a => handed a) ∧
  (∀ s : State,
    let owner := fun d : Delivery => match d.action with
      | .announce _ _ _ _ _ => some CueOwner.asq
      | .scene _ => some .lmc
      | .quietOn _ | .quietOff _ => some .zou
      | .stopReached => some .scc
      | .mark => none
    (∀ b, (∀ d ∈ s.rce.due, owner d ≠ some b) → takeNext b s = s) ∧
    (∀ b before d after, s.rce.due = before ++ d :: after → owner d = some b → (∀ e ∈ before, owner e ≠ some b) →
      takeNext b s = takeDelivery d { s with rce := { s.rce with due := before ++ after } }) ∧
    (∀ waits : CueOwner → Bool,
      takeDue waits s = (s.rce.due.filter fun d => !(owner d).any waits).foldl (fun x d => takeDelivery d x)
        { s with rce := { s.rce with due := s.rce.due.filter fun d => (owner d).any waits } }) ∧
    settle s = s.rce.due.foldl (fun x d => takeDelivery d x) { s with rce := { s.rce with due := [] } }) ∧
  ∀ (i : Nat) (latest : Option Nat) (s : State), takes true s →
    let taken := fun a : CueAction => takeDelivery { index := i, action := a, stale := latest } s
    (∀ k, exec (.scene true (BitVec.ofNat 8 k.val)) s = .next (taken (.scene k))) ∧
    exec (.stopClear true) s = .next (taken .stopReached) ∧
    ∀ m : ZoneMask, exec (.quiet true (m.setWidth 8) 1) s = .next (taken (.quietOn m)) ∧
      exec (.quiet true (m.setWidth 8) 0) s = .next (taken (.quietOff m))

/-- RCE at a signalled change, by its state and the test of R92 (R92, R93, R94, R96): ARMED starts with RUNNING and a
step from 0, RUNNING steps or is HELD, HELD resumes with a step where the odometer differs, COMPLETE only follows the
odometer. A step is backward, normal or a relocation by the jump limit (R97, R98, R101): a backward one moves the last
processed odometer and is noticed beyond the limit. A relocation takes every entry from the cursor whose trigger is not
above N: an ANNOUNCE entry is FIRED by its window, of the SCENE and of the STOP_REACHED entries the last, a quiet entry
where it is the last for one of its zones and then for those, the rest are SKIPPED; the deliveries in index order, the
RELOCATION notice and the completion follow (R98, R99, R100). -/
def Obligations.RouteStepsAct : Prop :=
  (∀ s : State,
    let n := s.tif.drive.odometer
    let passes := s.tif.trunk = .locked ∧ s.tif.drive.odoValid = true ∧ s.tif.drive.tag = s.rce.armedTag
    let moved := fun x : RouteState =>
      pushNotice (.routeState x s.rce.cursor false) { s with rce := { s.rce with state := x } }
    let stepped := fun t : State =>
      if n < s.rce.lastOdo then backwardStep n t
      else if n - s.rce.lastOdo ≤ s.cth.settings.jump then normalStep n t else relocate n t
    (s.rce.state = .idle → routeChange s = s) ∧
    (s.rce.state = .armed → ¬passes → routeChange s = s) ∧
    (s.rce.state = .armed → passes → routeChange s = stepped (moved .running)) ∧
    (s.rce.state = .running → ¬passes → routeChange s = moved .held) ∧
    (s.rce.state = .running → passes → routeChange s = if n = s.rce.lastOdo then s else stepped s) ∧
    (s.rce.state = .held → ¬passes → routeChange s = s) ∧
    (s.rce.state = .held → passes →
      routeChange s = if n = s.rce.lastOdo then moved .running else stepped (moved .running)) ∧
    (s.rce.state = .complete → ¬passes → routeChange s = s) ∧
    (s.rce.state = .complete → passes → routeChange s = { s with rce := { s.rce with lastOdo := n } })) ∧
  (∀ (n : Nat) (s : State), n < s.rce.lastOdo →
    let back : State := { s with rce := { s.rce with lastOdo := n } }
    backwardStep n s =
      if s.cth.settings.jump < s.rce.lastOdo - n then pushNotice (.routeState s.rce.state s.rce.cursor true) back
      else back) ∧
  ∀ (n : Nat) (s : State), s.rce.count ≤ 256 → s.rce.cursor ≤ s.rce.count →
    let o := s.rce.lastOdo
    let cue := fun i : Fin 256 => s.rce.cues.get i
    let set := ((List.finRange 256).filter fun i => decide (s.rce.cursor ≤ i.val) && decide (i.val < s.rce.count)).takeWhile
      fun i => decide ((cue i).trigger ≤ n)
    let later := fun (i : Fin 256) (p : Fin 256 → Bool) => set.any fun j => decide (i < j) && p j
    let scene := fun i => match (cue i).action with | .scene _ => true | _ => false
    let stop := fun i => match (cue i).action with | .stopReached => true | _ => false
    let zones := fun i => match (cue i).action with | .quietOn m => m | .quietOff m => m | _ => (0 : ZoneMask)
    let last := fun (i : Fin 256) (z : Fin 4) =>
      (zones i).getLsbD z.val && !later i fun j => (zones j).getLsbD z.val
    let reduced := fun i => BitVec.ofNat 4 (((List.finRange 4).map fun z => if last i z then 2 ^ z.val else 0).sum)
    let fires := fun i : Fin 256 => match (cue i).action, (cue i).latest with
      | .announce _ _ _ _ _, some l => decide (n ≤ l)
      | .announce _ _ _ _ _, none => decide (o < (cue i).trigger)
      | .scene _, _ => !later i scene
      | .quietOn _, _ | .quietOff _, _ => (List.finRange 4).any (last i)
      | .stopReached, _ => !later i stop
      | .mark, _ => false
    let judged : State := { s with rce := { s.rce with
      cues := Vector.ofFn fun i =>
        if i ∈ set then { cue i with state := if fires i then .fired else .skipped } else cue i,
      cursor := s.rce.cursor + set.length } }
    let told := pushNotice (.relocation o n (set.filter fun i => !fires i).length)
      ((set.filter fires).foldl (fun x i => deliver i.val (cue i) (reduced i) x) judged)
    relocate n s =
      if s.rce.cursor + set.length = s.rce.count then
        pushNotice (.routeState .complete s.rce.count false)
          { told with rce := { told.rce with lastOdo := n, state := .complete } }
      else { told with rce := { told.rce with lastOdo := n } }

/-! ## Seats and zones -/

/-- SEAT: each present parameter is written, enabled from yes to no also drops stop pressed; a seat above 63 or a present
language above 11 is refused with nothing changed, as is a parameter count other than 7 (R53, R40). -/
def Obligations.SeatActs : Prop :=
  ∀ (bc : Bool) (params : List Byte) (s : State), takes bc s →
    (params.length ≠ 7 → exec (.seat bc params) s = .next (withReply bc 0x83 [4] s)) ∧
    ∀ n lp l vp v ep e : Byte, params = [n, lp, l, vp, v, ep, e] →
      (63 < n.toNat ∨ (lp ≠ 0 ∧ 11 < l.toNat) → exec (.seat bc params) s = .next (withReply bc 0x83 [4] s)) ∧
      ∀ (hn : n.toNat < 64), (lp = 0 ∨ l.toNat < 12) →
        let i : SeatNo := ⟨n.toNat, hn⟩
        let x := s.scc.seats.get i
        let y : Seat :=
          { x with lang := if lp = 0 then x.lang else Fin.ofNat 12 l.toNat,
                   volume := if vp = 0 then x.volume else min 15 v.toNat,
                   enabled := if ep = 0 then x.enabled else e != 0,
                   stopPressed := if ep ≠ 0 ∧ e = 0 ∧ x.enabled = true then false else x.stopPressed }
        exec (.seat bc params) s = .next (withReply bc 0x83 [0] { s with scc := { s.scc with seats := put s.scc.seats i y } })

/-- QUIET sets or clears the quiet flag of the zones of its set and of no other; a bit above zone 3, or a parameter count
other than 2, is refused with nothing changed (R80). -/
def Obligations.QuietActs : Prop :=
  ∀ (bc : Bool) (zones on : Byte) (s : State), takes bc s →
    (15 < zones.toNat → exec (.quiet bc zones on) s = .next (withReply bc 0x83 [4] s)) ∧
    let written := fun z : Zone =>
      if zones.getLsbD z.val then { s.zou.zones.get z with quiet := on != 0 } else s.zou.zones.get z
    (zones.toNat ≤ 15 → exec (.quiet bc zones on) s = .next (withReply bc 0x83 [0]
      { s with zou := { s.zou with zones := Vector.ofFn written } })) ∧
    ∀ params : List Byte, params.length ≠ 2 → handleRequest bc 3 (0x40 :: params) s = withReply bc 0x83 [4] s

/-- STOP_CLEAR: a SET latch becomes CLEAR, stop pressed becomes no on every seat and the follow groups of the
stop-request latch stop; a CLEAR latch changes nothing (R55, R174). A stop press of an enabled seat: the first sets the
latch with its seat, queues STOP_REQUEST, asks for the chime and starts the groups of the latch; a later one marks its
seat only; a disabled seat's press does nothing (R54, R174). That STOP_REQUEST stands before what a refused chime queues
is the model's (notes/assumptions/32.md). A reply with the stop press of jack B acts as the reply without it, followed
by that press; one with the stop press of jack A and no other acts as the reply with jack A's other presses alone,
followed by that press and then by jack B's presses (R46); the volumes are at most 15, as the kept property `Bounded`
says. -/
def Obligations.StopLatchActs : Prop :=
  (∀ (bc : Bool) (s : State), takes bc s →
     (s.scc.latch = none → exec (.stopClear bc) s = .next (withReply bc 0x83 [0] s)) ∧
     (s.scc.latch ≠ none → exec (.stopClear bc) s = .next (withReply bc 0x83 [0]
       (withGroups (fun _ x => if x.source = .stopRequest ∧ x.follow = true then afterStop x else x)
         { s with scc := { s.scc with
             latch := none, seats := Vector.ofFn fun i => { s.scc.seats.get i with stopPressed := false } } })))) ∧
  (∀ (i : SeatNo) (s : State),
    let x := s.scc.seats.get i
    let marked : State := { s with scc := { s.scc with seats := put s.scc.seats i { x with stopPressed := true } } }
    (x.enabled = false → stopPress i s = s) ∧
    (x.enabled = true → ∀ j, s.scc.latch = some j → stopPress i s = marked) ∧
    (x.enabled = true → s.scc.latch = none →
      stopPress i s = withGroups (fun _ y => if y.source = .stopRequest then afterStart y else y)
        (requestChime (pushNotice (.stopRequest i) { marked with scc := { marked.scc with latch := some i } })))) ∧
  ∀ (r q : Vector Word16 3) (b : BoxNo) (s : State), s.power.running = true → s.scc.awaited = some b →
    (r.get 0).extractLsb' 8 8 = 0x3C → ((r.get 0).extractLsb' 0 5).toNat = b.val →
    q.get 0 = r.get 0 → r.get 2 = r.get 0 + r.get 1 → q.get 2 = q.get 0 + q.get 1 →
    (r.get 1 = q.get 1 ||| 0x4000 → (q.get 1).getLsbD 14 = false →
      ∃ u, exec (.boxReply (some q)) s = .next u ∧
        exec (.boxReply (some r)) s = .next (stopPress ⟨2 * b.val + 1, by omega⟩ u)) ∧
    ((r.get 1).extractLsb' 0 6 = (q.get 1).extractLsb' 0 6 → (r.get 1).getLsbD 6 = true → (r.get 1).getLsbD 14 = false →
      (q.get 1).toNat < 64 →
      let other : SeatNo := ⟨2 * b.val + 1, by omega⟩
      (s.scc.seats.get other).volume ≤ 15 → (s.scc.seats.get other).defVolume ≤ 15 →
      let offered := (List.finRange 12).filter fun l => (s.scc.languages.get l).offered
      ∃ u, exec (.boxReply (some q)) s = .next u ∧
        let pressed := stopPress ⟨2 * b.val, by omega⟩ u
        exec (.boxReply (some r)) s = .next { pressed with scc := { pressed.scc with
          seats := put pressed.scc.seats other (pressedSeat offered (r.get 1) 8 (pressed.scc.seats.get other)) } })

/-- The reply to the poll of the period that has ended is judged once: with none awaited the command changes nothing,
which is the model's (notes/assumptions/31.md). A reply that is missing, or fails its marker, check word or box number,
is a miss: an OFFLINE box is unchanged, the first two misses of an ONLINE one are counted, and the third takes it
OFFLINE with its notice and unplugs both its seats (R44, R45, R49). A good reply without a stop press (R45 to R51): the
box is ONLINE with no miss and its senses kept; a jack whose sense equals the last one plugs its seat in, with the
zone's default language where it is offered, the default volume and the applied indexes at their targets, which the
period's sample takes too (R48, R66, R72, notes/assumptions/6.md), or unplugs it; then an enabled, present seat takes
its presses: each language press moves to the lowest offered language above, or with none above to the lowest offered,
and with none offered leaves it (R50), and the volume moves by ups less downs within 0 to 15 (R51). -/
def Obligations.BoxReplyTaken : Prop :=
  (∀ (reply : Option (Vector Word16 3)) (s : State), s.power.running = true → s.scc.awaited = none →
    exec (.boxReply reply) s = .next s) ∧
  (∀ (reply : Option (Vector Word16 3)) (b : BoxNo) (s : State), s.power.running = true → s.scc.awaited = some b →
    (∀ r, reply = some r → ((r.get 0).extractLsb' 8 8 ≠ 0x3C ∨ r.get 2 ≠ r.get 0 + r.get 1 ∨
      ((r.get 0).extractLsb' 0 5).toNat ≠ b.val)) →
    let x := s.scc.boxes.get b
    let judged : State := { s with scc := { s.scc with awaited := none } }
    (x.online = false → exec (.boxReply reply) s = .next judged) ∧
    (x.online = true → x.miss + 1 < 3 → exec (.boxReply reply) s =
      .next { judged with scc := { judged.scc with boxes := put s.scc.boxes b { x with miss := x.miss + 1 } } }) ∧
    (x.online = true → 3 ≤ x.miss + 1 → exec (.boxReply reply) s =
      .next (pushNotice (.boxState b false) { judged with scc := { judged.scc with
        boxes := put s.scc.boxes b { online := false, miss := 0, senseA := false, senseB := false },
        seats := Vector.ofFn fun i =>
          if i.val = 2 * b.val ∨ i.val = 2 * b.val + 1 then { s.scc.seats.get i with present := false }
          else s.scc.seats.get i } }))) ∧
  ∀ (r : Vector Word16 3) (b : BoxNo) (s : State), s.power.running = true → s.scc.awaited = some b →
    (r.get 0).extractLsb' 8 8 = 0x3C → r.get 2 = r.get 0 + r.get 1 → ((r.get 0).extractLsb' 0 5).toNat = b.val →
    (r.get 1).getLsbD 6 = false → (r.get 1).getLsbD 14 = false →
    let x := s.scc.boxes.get b
    let offered := (List.finRange 12).filter fun l => (s.scc.languages.get l).offered
    let plugged := fun (y : Seat) (last now : Bool) =>
      if last = true ∧ now = true ∧ y.present = false then
        let d := (s.zou.zones.get y.zone).defLang
        { y with present := true, volume := y.defVolume,
                 lang := if (s.scc.languages.get d).offered then d else offered.headD d }
      else if last = false ∧ now = false ∧ y.present = true then { y with present := false }
      else y
    let arrives := fun i : SeatNo => (s.scc.seats.get i).present = false ∧
      ((i.val = 2 * b.val ∧ x.senseA = true ∧ (r.get 0).getLsbD 5 = true) ∨
        (i.val = 2 * b.val + 1 ∧ x.senseB = true ∧ (r.get 0).getLsbD 6 = true))
    let tc := fun i : SeatNo =>
      let y := s.scc.seats.get i
      let z := s.zou.zones.get y.zone
      commentaryTarget y.defVolume y.cap s.hmx.boost z.boost z.duck
    let ta := fun i : SeatNo =>
      let y := s.scc.seats.get i
      announcementTarget y.defVolume y.cap s.hmx.boost (s.zou.zones.get y.zone).boost s.cth.settings.trim
    ∃ t, exec (.boxReply (some r)) s = .next t ∧
      t.scc.boxes = put s.scc.boxes b
        { online := true, miss := 0, senseA := (r.get 0).getLsbD 5, senseB := (r.get 0).getLsbD 6 } ∧
      (∀ i, t.scc.seats.get i =
        let y := s.scc.seats.get i
        if i.val = 2 * b.val then
          pressedSeat offered (r.get 1) 0 (plugged y x.senseA ((r.get 0).getLsbD 5))
        else if i.val = 2 * b.val + 1 then
          pressedSeat offered (r.get 1) 8 (plugged y x.senseB ((r.get 0).getLsbD 6))
        else y) ∧
      (∀ i, t.hmx.gains.get i =
        if arrives i then { tc := tc i, ta := ta i, gc := tc i, ga := ta i } else s.hmx.gains.get i) ∧
      (∀ i, t.hmx.formed.get i =
        if arrives i then { s.hmx.formed.get i with gc := tc i, ga := ta i } else s.hmx.formed.get i) ∧
      t.cth = (if x.online then s else pushNotice (.boxState b true) s).cth ∧
      { t.scc with boxes := s.scc.boxes, seats := s.scc.seats } = { s.scc with awaited := none } ∧
      { t.hmx with gains := s.hmx.gains, formed := s.hmx.formed } = s.hmx ∧
      { t with scc := s.scc, cth := s.cth, hmx := s.hmx } = s

/-! ## Lamps -/

/-- SCENE: groups 0 to 23 take their settings, held groups are skipped; leave does nothing, stop stops, a load writes the
preset's pattern and starts; a scene above 15 is refused with nothing changed (R169, R175, R176). -/
def Obligations.SceneActs : Prop :=
  ∀ (bc : Bool) (n : Byte) (s : State), takes bc s →
    (15 < n.toNat → exec (.scene bc n) s = .next (withReply bc 0x83 [4] s)) ∧
    ∀ h : n.toNat < 16, exec (.scene bc n) s = .next (withReply bc 0x83 [0]
      (withGroups (fun g x =>
        if x.hold then x
        else match (s.lmc.scenes.get ⟨n.toNat, h⟩).get g with
          | .leave => x
          | .stop => afterStop x
          | .load p => afterStart (afterPattern (s.lmc.presets.get p) x)) s))

/-- GROUP START and STOP act by the group's mode and state and on no other group; a group above 23 is refused (R169,
R177). GROUP PENDING keeps the pair for a running group and is adopted at once by one that is not; GROUP HOLD writes
the hold field; a length of 0 is written as 1 and a group above 23 refused (R173, R177). -/
def Obligations.GroupCommandsAct : Prop :=
  (∀ (bc : Bool) (n : Byte) (s : State), takes bc s →
     (23 < n.toNat → exec (.groupStart bc n) s = .next (withReply bc 0x83 [4] s) ∧
       exec (.groupStop bc n) s = .next (withReply bc 0x83 [4] s)) ∧
     ∀ h : n.toNat < 24,
       exec (.groupStart bc n) s = .next (withReply bc 0x83 [0] (withGroups (onlyGroup ⟨n.toNat, h⟩ afterStart) s)) ∧
       exec (.groupStop bc n) s = .next (withReply bc 0x83 [0] (withGroups (onlyGroup ⟨n.toNat, h⟩ afterStop) s))) ∧
  ∀ (bc : Bool) (n a b : Byte) (s : State), takes bc s →
    (23 < n.toNat → exec (.groupPending bc n a b) s = .next (withReply bc 0x83 [4] s) ∧
      exec (.groupHold bc n a) s = .next (withReply bc 0x83 [4] s)) ∧
    ∀ h : n.toNat < 24,
      let g : GroupNo := ⟨n.toNat, h⟩
      let x := s.lmc.groups.get g
      let p := max 1 a.toNat
      let q := max 1 b.toNat
      let paired : Group := if x.running then { x with pending := some (p, q) }
        else { x with pat := { x.pat with onLen := p, offLen := q }, pending := none }
      exec (.groupPending bc n a b) s =
        .next (withReply bc 0x83 [0] { s with lmc := { s.lmc with groups := put s.lmc.groups g paired } }) ∧
      exec (.groupHold bc n a) s =
        .next (withReply bc 0x83 [0]
          { s with lmc := { s.lmc with groups := put s.lmc.groups g { x with hold := a != 0 } } })

/-- GROUP FIELDS and PRESET write the seven pattern fields as one write with the effects of R168, and start the group where
asked; a group above 23, a mode above 4 or a preset above 31 is refused with nothing changed (R168, R175, R177). -/
def Obligations.GroupPatternActs : Prop :=
  ∀ (bc : Bool) (n m on off a b p f st : Byte) (s : State), takes bc s →
    (23 < n.toNat ∨ 4 < m.toNat →
      exec (.groupFields bc n m on off a b p f st) s = .next (withReply bc 0x83 [4] s)) ∧
    (23 < n.toNat ∨ 31 < p.toNat → exec (.groupPreset bc n p st) s = .next (withReply bc 0x83 [4] s)) ∧
    ∀ h : n.toNat < 24,
      (∀ mode : Mode, (match mode with | .off => 0 | .steady => 1 | .blink => 2 | .pulses => 3 | .fade => 4) = m →
        let pat : Pattern :=
          { mode := mode, levelOn := min 63 on.toNat, levelOff := min 63 off.toNat, onLen := max 1 a.toNat,
            offLen := max 1 b.toNat, pulseCount := max 1 p.toNat, fadeStep := max 1 f.toNat }
        exec (.groupFields bc n m on off a b p f st) s = .next (withReply bc 0x83 [0]
          (withGroups (onlyGroup ⟨n.toNat, h⟩ fun x =>
            if st = 0 then afterPattern pat x else afterStart (afterPattern pat x)) s))) ∧
      ∀ h2 : p.toNat < 32,
        exec (.groupPreset bc n p st) s = .next (withReply bc 0x83 [0]
          (withGroups (onlyGroup ⟨n.toNat, h⟩ fun x =>
            let pat := s.lmc.presets.get ⟨p.toNat, h2⟩
            if st = 0 then afterPattern pat x else afterStart (afterPattern pat x)) s))

/-- ENTRY_WRITE of a lamp group whose fields are in range: its configuration is stored, levels at most 63, a length,
count or step of 0 written as 1, the mask and threshold kept for the source ANNOUNCE alone and the chain group for CHAIN
alone; a mode written OFF stops a running group and another mode changed starts it afresh, and the pending pair is kept
or adopted; a running group's phase stands otherwise (R167, R168, R173). With a READY supply under the override a
changed safety flag sets the ignition state, LIT or DARK, before what the mode brings (R168, R181, R185), which is the
model's (notes/assumptions/15.md), as is that a pending pair written with a mode OFF to a running group is adopted at
once, after the stop (notes/assumptions/17.md). -/
def Obligations.GroupRecordWritten : Prop :=
  ∀ (index : Word16) (record : List Byte) (mode : Mode) (source : StartSource) (s : State) (h : index.toNat < 24),
    takes false s → record.length = 17 →
    let v := fun k : Nat => (record.getD k 0).toNat
    (match mode with | .off => 0 | .steady => 1 | .blink => 2 | .pulses => 3 | .fade => 4) = v 0 →
    (match source with
     | .none => v 10 = 0
     | .stopRequest => v 10 = 1
     | .announce m k => v 10 = 2 ∧ m.toNat = v 11 ∧ k.val = v 12
     | .alarm => v 10 = 3
     | .chain g => v 10 = 4 ∧ g.val = v 13) →
    let pat : Pattern :=
      { mode := mode, levelOn := min 63 (v 1), levelOff := min 63 (v 2), onLen := max 1 (v 3), offLen := max 1 (v 4),
        pulseCount := max 1 (v 8), fadeStep := max 1 (v 9) }
    let safety := decide (v 16 ≠ 0)
    exec (.entryWrite 9 index record) s = .next (withReply false 0x81 [0]
      (withGroups (onlyGroup ⟨index.toNat, h⟩ fun x =>
        let fields : Group :=
          { x with source := source, follow := decide (v 14 ≠ 0), hold := decide (v 15 ≠ 0), safety := safety }
        let shown : Group :=
          if s.lmc.supply = .ready ∧ s.lmc.override ≠ .clear ∧ safety ≠ x.safety then
            { fields with ign := if safety then .lit else .dark }
          else fields
        let y := afterPattern pat shown
        if v 5 = 0 then { y with pending := none }
        else if y.running then { y with pending := some (max 1 (v 6), max 1 (v 7)) }
        else { y with pat := { y.pat with onLen := max 1 (v 6), offLen := max 1 (v 7) }, pending := none }) s))

/-- SUPPLY on from OFF and SUPPLY off: the state, the kept ramp time, the notices and the reply with the state after it;
off under an override that is not CLEAR makes it RAMP again in the same event (R180, R181, R184). The supply's three
moves of its own: READY at or past the kept ramp time with good high, FAULT at the ramp time + 500 with good low, and
FAULT from READY with good low (R180). Leaving READY empties the ignition queue and makes every group DARK, and a group
that waited to show the level it was queued with stands at the next boundary (R181, R183, notes/assumptions/20.md);
entry to READY with the override CLEAR queues every running group above level 0, safety groups first, and under the
override shows the safety groups (R181, R185). After READY, FAULT or OFF the ramp count and the kept ramp time stay,
which is the model's (notes/assumptions/48.md). A move whose count or state is not there changes nothing, which is the
model's (notes/assumptions/2.md). -/
def Obligations.SupplyActs : Prop :=
  let waits := fun x : Group => x.ign == .waiting && x.begun && decide (0 < x.level)
  let darkened := fun (s : State) => { s with lmc := { s.lmc with
    ignQueue := [], groups := mapTable (fun x => { x with ign := .dark, stands := x.stands || waits x }) s.lmc.groups } }
  let shown := fun (s : State) => { s with lmc := { s.lmc with
    ignQueue := [], groups := mapTable (fun x =>
      { x with ign := if x.safety then .lit else .dark, stands := x.stands || waits x }) s.lmc.groups } }
  let moved := fun (x : Supply) (s : State) => pushNotice (.supplyState x) { s with lmc := { s.lmc with supply := x } }
  (∀ (bc : Bool) (s : State), takes bc s →
    let ramped := fun t : State => pushNotice (.supplyState .ramp) { t with lmc := { t.lmc with
      supply := .ramp, rampCount := 0, rampKept := t.cth.settings.ramp } }
    let left : State := if s.lmc.supply = .off then s
      else moved .off (if s.lmc.supply = .ready then darkened s else s)
    (s.lmc.supply = .off → exec (.supplyOn bc) s = .next (withReply bc 0x83 [0, 1] (ramped s))) ∧
    (s.lmc.supply ≠ .off → exec (.supplyOn bc) s = .next (withReply bc 0x83
      [0, match s.lmc.supply with | .off => 0 | .ramp => 1 | .ready => 2 | .fault => 3] s)) ∧
    (s.lmc.override = .clear → exec (.supplyOff bc) s = .next (withReply bc 0x83 [0, 0] left)) ∧
    (s.lmc.override ≠ .clear → exec (.supplyOff bc) s = .next (withReply bc 0x83 [0, 1] (ramped left)))) ∧
  ∀ (s : State), s.power.running = true →
    (s.lmc.supply = .ramp → s.lmc.rampKept ≤ s.lmc.rampCount → s.lmc.override = .clear → s.lmc.ignQueue = [] →
      let lit := fun g : GroupNo => (s.lmc.groups.get g).running && decide (0 < (s.lmc.groups.get g).level)
      let safe := fun g : GroupNo => (s.lmc.groups.get g).safety
      exec .supplyRampDone s = .next (moved .ready { s with lmc := { s.lmc with
        ignQueue := (List.finRange 24).filter (fun g => lit g && safe g) ++
          (List.finRange 24).filter (fun g => lit g && !safe g),
        groups := Vector.ofFn fun g =>
          if lit g then { s.lmc.groups.get g with ign := .waiting, stands := false } else s.lmc.groups.get g } })) ∧
    (s.lmc.supply = .ramp → s.lmc.rampKept ≤ s.lmc.rampCount → s.lmc.override ≠ .clear →
      exec .supplyRampDone s = .next (moved .ready (shown s))) ∧
    (s.lmc.supply = .ramp → s.lmc.rampKept + 500 ≤ s.lmc.rampCount →
      exec .supplyRampTimeout s = .next (moved .fault s)) ∧
    (s.lmc.supply = .ready → exec .supplyGoodLost s = .next (moved .fault (darkened s))) ∧
    (s.lmc.supply ≠ .ramp ∨ s.lmc.rampCount < s.lmc.rampKept → exec .supplyRampDone s = .next s) ∧
    (s.lmc.supply ≠ .ramp ∨ s.lmc.rampCount < s.lmc.rampKept + 500 → exec .supplyRampTimeout s = .next s) ∧
    (s.lmc.supply ≠ .ready → exec .supplyGoodLost s = .next s)

/-- The override by its two sources (R184, R185): asserted in CLEAR it becomes ACTIVE, with its notice, the ALARM
request (`InternalAnnouncementsPlaced`), the starts of the ALARM groups, the override's ignition states over a READY
supply (a group that waited to show its level stands at the next boundary, notes/assumptions/20.md) and, from OFF, the
forced RAMP with its notice, that notice after what the ALARM request queues, which is the model's
(notes/assumptions/32.md); with both released it becomes RELEASING, and ACTIVE again by either. The line's level is
kept, and so is the flag source, which a change of the frame's alarm flag moves (R11, `SlotHandsEventsOn`);
`overrideEvent`, by which it acts, is the line sampled again at its level (R184). It clears at release count 100 with
both sources released: its notice, the follow stops of the ALARM groups, and with a READY supply every running group of
no safety flag above level 0 waits for light again, a safety group showing its own level (R184, R185); otherwise the
command is no change, which is the model's (notes/assumptions/2.md). That the release count is 0 after the moves to CLEAR
and from CLEAR to ACTIVE is the model's (notes/assumptions/47.md). -/
def Obligations.AlarmLineActs : Prop :=
  (∀ (low : Bool) (s : State), s.power.running = true →
    let lined : State := { s with lmc := { s.lmc with lineSource := low } }
    let asserted := low = true ∨ s.lmc.flagSource = true
    let moved := fun x : Override => { lined with lmc := { lined.lmc with override := x, releaseCount := 0 } }
    (s.lmc.override = .clear → ¬asserted → exec (.deckAlarmInput low) s = .next lined) ∧
    (s.lmc.override = .active → asserted → exec (.deckAlarmInput low) s = .next lined) ∧
    (s.lmc.override = .active → ¬asserted → exec (.deckAlarmInput low) s = .next (moved .releasing)) ∧
    (s.lmc.override = .releasing → ¬asserted → exec (.deckAlarmInput low) s = .next lined) ∧
    (s.lmc.override = .releasing → asserted → exec (.deckAlarmInput low) s = .next (moved .active)) ∧
    (s.lmc.override = .clear → asserted →
      let shown : State := if s.lmc.supply = .ready then { moved .active with lmc := { (moved .active).lmc with
          ignQueue := [],
          groups := mapTable (fun x => { x with
            ign := if x.safety then .lit else .dark,
            stands := x.stands || (x.ign == .waiting && x.begun && decide (0 < x.level)) }) s.lmc.groups } }
        else moved .active
      let started := withGroups (fun _ x => if x.source = .alarm then afterStart x else x)
        (requestAlarm (pushNotice (.alarm true) shown))
      exec (.deckAlarmInput low) s = .next (if started.lmc.supply = .off then
          pushNotice (.supplyState .ramp) { started with lmc := { started.lmc with
            supply := .ramp, rampCount := 0, rampKept := s.cth.settings.ramp } }
        else started)) ∧
    exec (.deckAlarmInput s.lmc.lineSource) s = .next (overrideEvent s)) ∧
  ∀ (s : State), s.power.running = true →
    (s.lmc.override ≠ .releasing ∨ s.lmc.lineSource = true ∨ s.lmc.flagSource = true ∨ s.lmc.releaseCount < 100 →
      exec .overrideClear s = .next s) ∧
    (s.lmc.override = .releasing → s.lmc.lineSource = false → s.lmc.flagSource = false → 100 ≤ s.lmc.releaseCount →
      s.lmc.ignQueue = [] →
      let stopped := fun g : GroupNo =>
        let x := s.lmc.groups.get g
        if x.source = .alarm ∧ x.follow = true then afterStop x else x
      let again := fun g : GroupNo =>
        s.lmc.supply == .ready && (stopped g).running && decide (0 < (stopped g).level) && !(stopped g).safety
      exec .overrideClear s = .next (pushNotice (.alarm false) { s with lmc := { s.lmc with
        override := .clear, releaseCount := 0, ignQueue := (List.finRange 24).filter again,
        groups := Vector.ofFn fun g =>
          if again g then { stopped g with ign := .waiting, stands := false }
          else if s.lmc.supply = .ready ∧ (stopped g).safety = true then
            { stopped g with ign := if (stopped g).running && decide (0 < (stopped g).level) then .lit else .dark }
          else stopped g } }))

/-- A scan-frame boundary, made where a tick end has returned the scan position to 0 (R164); where none is due the
command changes nothing, which is the model's (notes/assumptions/2.md). With the lamps dark or overridden, a phase not
begun begins with its length and level after adopting a pending pair (R170, R173) and a begun one is counted by its
mode (R171, R172). With groups asking for light, under a READY supply and a CLEAR override, an advance from level 0 to
light is made LIT or held WAITING, any other is made, and a WAITING group keeps its place or has its held change made:
its phase begins, it shows the level it was queued with, or its held count is made (R182, R183; which of the two is
`IgnitionBudgetHolds`; that a group queued above level 0 with its phase not begun begins it there is the model's,
notes/assumptions/46.md); a group granted is LIT, one whose level falls to 0 DARK, and any other keeps its ignition state
(R182). A group that stands shows its level and is counted from the next boundary (R181, R183, R185; the mark that says so is the
model's, notes/assumptions/20.md). A group whose start source is the chain of a PULSES group that has ended its last
burst is started after every group has been advanced (R172, R174). The scan rows are read and the row slot driven
(R164, R165, notes/assumptions/18.md). -/
def Obligations.BoundaryAdvancesGroup : Prop :=
  let endsBurst := fun (s : State) (k : GroupNo) =>
    let x := s.lmc.groups.get k
    x.running && x.ign != .waiting && lastBurst x
  let chained := fun (s : State) (x y : Group) => match x.source with
    | .chain k => if endsBurst s k then afterStart y else y
    | _ => y
  let shows := fun (s : State) (k : GroupNo) =>
    let x := s.lmc.groups.get k
    if s.lmc.supply ≠ .ready then 0
    else if s.lmc.override ≠ .clear then (if x.safety then 63 else 0)
    else if x.running = false ∨ x.ign = .waiting then 0 else x.level
  (∀ s : State, s.power.running = true → s.lmc.boundaryDue = false → exec .scanFrameBoundary s = .next s) ∧
  (∀ (s : State) (g : GroupNo), s.power.running = true → s.lmc.boundaryDue = true →
     ¬(s.lmc.supply = .ready ∧ s.lmc.override = .clear) →
     let x := s.lmc.groups.get g
     x.ign ≠ .waiting →
     ∃ t y, exec .scanFrameBoundary s = .next t ∧ t.lmc.groups.get g = chained s x y ∧
       { t.lmc with groups := s.lmc.groups } = { s.lmc with
         scanRows := s.cth.settings.rows, boundaryDue := false, ignQueue := t.lmc.ignQueue } ∧
       (let pair := x.pending.getD (x.pat.onLen, x.pat.offLen)
        (x.running = false → y = x) ∧
        (x.running = true → x.stands = true → y = { x with stands := false }) ∧
        (x.running = true → x.stands = false → x.begun = false → x.phaseOn = true →
          (x.pat.mode = .blink ∨ x.pat.mode = .pulses →
            y = { x with pat := { x.pat with onLen := pair.1, offLen := pair.2 }, pending := none, begun := true,
                         framesLeft := pair.1, level := x.pat.levelOn }) ∧
          (x.pat.mode = .steady →
            y = { x with pat := { x.pat with onLen := pair.1, offLen := pair.2 }, pending := none, begun := true,
                         framesLeft := 0, level := x.pat.levelOn }) ∧
          (x.pat.mode = .fade →
            y = { x with pat := { x.pat with onLen := pair.1, offLen := pair.2 }, pending := none, begun := true,
                         framesLeft := x.pat.fadeStep })) ∧
        (x.running = true → x.stands = false → x.begun = false → x.phaseOn = false →
          (x.pat.mode = .blink ∨ x.pat.mode = .pulses) →
          y = { x with begun := true, framesLeft := x.pat.offLen, level := x.pat.levelOff }) ∧
        (x.running = true → x.stands = false → x.begun = true →
          (x.pat.mode = .steady → y = { x with level := x.pat.levelOn }) ∧
          ((x.pat.mode = .blink ∨ x.pat.mode = .pulses) → 1 < x.framesLeft →
            y = { x with framesLeft := x.framesLeft - 1,
                         level := if x.phaseOn then x.pat.levelOn else x.pat.levelOff }) ∧
          ((x.pat.mode = .blink ∨ x.pat.mode = .pulses) → x.framesLeft ≤ 1 → x.phaseOn = true →
            y = { x with phaseOn := false, framesLeft := x.pat.offLen, level := x.pat.levelOff }) ∧
          (x.pat.mode = .blink → x.framesLeft ≤ 1 → x.phaseOn = false →
            y = { x with pat := { x.pat with onLen := pair.1, offLen := pair.2 }, pending := none, phaseOn := true,
                         framesLeft := pair.1, level := x.pat.levelOn }) ∧
          (x.pat.mode = .pulses → x.framesLeft ≤ 1 → x.phaseOn = false → 1 < x.pulsesLeft →
            y = { x with pat := { x.pat with onLen := pair.1, offLen := pair.2 }, pending := none, phaseOn := true,
                         framesLeft := pair.1, level := x.pat.levelOn, pulsesLeft := x.pulsesLeft - 1 }) ∧
          (x.pat.mode = .pulses → x.framesLeft ≤ 1 → x.phaseOn = false → x.pulsesLeft ≤ 1 → y = afterStop x) ∧
          (x.pat.mode = .fade → x.level = x.pat.levelOn → y = { x with framesLeft := 0 }) ∧
          (x.pat.mode = .fade → x.level ≠ x.pat.levelOn → 1 < x.framesLeft →
            y = { x with framesLeft := x.framesLeft - 1 }) ∧
          (x.pat.mode = .fade → x.level ≠ x.pat.levelOn → x.framesLeft ≤ 1 →
            y = { x with level := if x.level < x.pat.levelOn then x.level + 1 else x.level - 1,
                         framesLeft := x.pat.fadeStep }))) ∧
       t.out = { s.out with row := some s.lmc.scanPos, columns := t.out.columns } ∧
       (∀ col, t.out.columns.get col =
         match (s.lmc.cells[s.lmc.scanPos * 24 + col.val]?).join with | none => 0 | some k => shows t k) ∧
       { t with lmc := s.lmc, out := s.out } = s) ∧
  ∀ (s : State) (g : GroupNo), s.power.running = true → s.lmc.boundaryDue = true → s.lmc.supply = .ready →
    s.lmc.override = .clear → IgnitionKept s →
    let x := s.lmc.groups.get g
    ∃ t y, exec .scanFrameBoundary s = .next t ∧ t.lmc.groups.get g = chained s x y ∧
      (let a := counted x
       let lit := fun z : Group => { z with ign := .lit }
       (x.running = true → x.ign ≠ .waiting →
         (lastBurst x = true → y = afterStop x) ∧
         (lastBurst x = false → ¬(x.level = 0 ∧ 0 < a.2.level) →
           y = { a.2 with ign := if 0 < x.level ∧ a.2.level = 0 then .dark else x.ign }) ∧
         (lastBurst x = false → x.level = 0 → 0 < a.2.level →
           y = lit a.2 ∨ y = { a.1 with ign := .waiting, stands := false })) ∧
       (x.running = true → x.ign = .waiting → y = x ∨ y = lit (grantedGroup x)) ∧
       (x.running = false → y = x)) ∧
      { t.lmc with groups := s.lmc.groups, ignQueue := s.lmc.ignQueue, history := s.lmc.history } = { s.lmc with
        scanRows := s.cth.settings.rows, boundaryDue := false } ∧
      t.out = { s.out with row := some s.lmc.scanPos, columns := t.out.columns } ∧
      (∀ col, t.out.columns.get col =
        match (s.lmc.cells[s.lmc.scanPos * 24 + col.val]?).join with | none => 0 | some k => shows t k) ∧
      { t with lmc := s.lmc, out := s.out } = s

/-- The ignition budget (R182, R183). At a boundary with groups asking for light the queue is served from its head and
then the running groups that would rise from level 0 are asked, safety groups first and each kind in group order: as
many as the grants of the 19 ticks before leave of 4 are granted, and no more. A group served, or asked and granted, is LIT, and the rest wait in the queue, a safety group ahead of the first that is
not one; that the flags count as they stand at that moment is the model's (notes/assumptions/37.md), as is that one queued above level 0 with its phase not begun begins it at its grant
(notes/assumptions/46.md). Each grant is kept in the
history with this tick, the last 4 of them. At most 4 groups so become LIT in 20 ticks. -/
def Obligations.IgnitionBudgetHolds : Prop :=
  ∀ (s : State), BudgetKept s → IgnitionKept s → s.power.running = true → s.lmc.boundaryDue = true →
    s.lmc.supply = .ready → s.lmc.override = .clear →
    let record := fun g : GroupNo => s.lmc.groups.get g
    let free := 4 - (s.lmc.history.filter fun n => decide (s.lmc.ticks < n + 20)).length
    let asks := fun g : GroupNo => (record g).running && (record g).ign != .waiting && !lastBurst (record g) &&
      decide ((record g).level = 0) && decide (0 < (counted (record g)).2.level)
    let requests := (List.finRange 24).filter (fun g => asks g && (record g).safety) ++
      (List.finRange 24).filter (fun g => asks g && !(record g).safety)
    let served := s.lmc.ignQueue.take free
    let left := free - s.lmc.ignQueue.length
    let safe := fun g : GroupNo => (record g).safety
    ∃ t, exec .scanFrameBoundary s = .next t ∧
      (∀ g ∈ served, (t.lmc.groups.get g).ign = .lit) ∧
      (∀ g ∈ requests.take left, (t.lmc.groups.get g).ign = .lit) ∧
      (∀ g ∈ s.lmc.ignQueue.drop free ++ requests.drop left, (t.lmc.groups.get g).ign = .waiting) ∧
      t.lmc.ignQueue = (requests.drop left).foldl
        (fun q g => if safe g then q.takeWhile safe ++ g :: q.dropWhile safe else q ++ [g]) (s.lmc.ignQueue.drop free) ∧
      (let h := s.lmc.history ++ List.replicate (served.length + (requests.take left).length) s.lmc.ticks
       t.lmc.history = h.drop (h.length - 4)) ∧
      (s.lmc.history.filter fun n => decide (s.lmc.ticks < n + 20)).length +
        ((List.finRange 24).filter fun g =>
          decide ((record g).ign ≠ .lit) && decide ((t.lmc.groups.get g).ign = .lit)).length ≤ 4

/-! ## The clip cache and clip memory -/

/-- CLIP_LOCK by its checks in order: BAD_VALUE, NOT_FOUND, FULL above 16 sectors, each changing nothing; else the
clip's sectors join the lock table, those not in it before that are neither cached nor queued are queued as preloads, at
urgency 0 with no waiting voice and in sector order, and the reply counts the table (R153, R156). The lookup takes the
lowest-indexed entry in use whose family and language both equal those asked, or nothing (R147). CLIP_UNLOCK without a
clip empties the lock table; with one it removes the clip's sectors; entries that no voice waits for leave the queue
with them, and VALID sectors stay (R157). CACHE_FLUSH makes INVALID every VALID sector that is neither pinned nor locked
and no other, drops them from the LRU order, and replies their number (R149, R158). The port arbiter runs at the end of
each (R154, `FetchesRun`). That the table rises and names no sector twice is kept, as `Bounded` says. -/
def Obligations.ClipLocksAct : Prop :=
  (∀ (s : State) (family language : Nat),
     let matching := fun (i : Fin 512) (c : Clip) =>
       s.ccc.directory.get i = some c ∧ c.family = family ∧ c.language = language
     (lookup s family language = none ↔ ∀ i c, ¬matching i c) ∧
     ∀ c, lookup s family language = some c ↔ ∃ i, matching i c ∧ ∀ j d, j < i → ¬matching j d) ∧
  (∀ (bc : Bool) (family : Word16) (lang : Byte) (s : State), takes bc s →
     ((1023 < family.toNat ∨ (11 < lang.toNat ∧ lang.toNat ≠ 15)) →
       exec (.clipLock bc family lang) s = .next (withReply bc 0x83 [4] s)) ∧
     (family.toNat ≤ 1023 → (lang.toNat ≤ 11 ∨ lang.toNat = 15) →
       (lookup s family.toNat lang.toNat = none →
         exec (.clipLock bc family lang) s = .next (withReply bc 0x83 [8] s)) ∧
       ∀ c, lookup s family.toNat lang.toNat = some c →
         let sectors := (List.range ((c.length + 2047) / 2048)).map (c.first + ·)
         let fresh := sectors.filter fun k => !s.ccc.locks.contains k
         let wanted := fresh.filter fun k =>
           !((List.finRange 32).any fun i => (s.ccc.lines.get i).tag == some k) && !s.ccc.queue.any fun e => e.sector == k
         (s.ccc.locks.Nodup → 16 < s.ccc.locks.length + fresh.length →
           exec (.clipLock bc family lang) s = .next (withReply bc 0x83 [6] s)) ∧
         (s.ccc.locks.Nodup → s.ccc.locks.Pairwise (· < ·) → s.ccc.locks.length + fresh.length ≤ 16 →
           ∃ locks, locks.length = s.ccc.locks.length + fresh.length ∧ locks.Pairwise (· < ·) ∧
             (∀ k, k ∈ locks ↔ k ∈ s.ccc.locks ∨ k ∈ sectors) ∧
             exec (.clipLock bc family lang) s =
               .next (withReply bc 0x83 [0, BitVec.ofNat 8 (s.ccc.locks.length + fresh.length)]
                 (arbiter { s with ccc := { s.ccc with
                   locks := locks,
                   queue := s.ccc.queue ++ wanted.map fun k => { sector := k, urgency := 0, waiting := [] } } }))))) ∧
  (∀ (bc : Bool) (present : Byte) (family : Word16) (lang : Byte) (s : State), takes bc s →
    (present ≠ 0 → (1023 < family.toNat ∨ (11 < lang.toNat ∧ lang.toNat ≠ 15)) →
      exec (.clipUnlock bc present family lang) s = .next (withReply bc 0x83 [4] s)) ∧
    (present ≠ 0 → family.toNat ≤ 1023 → (lang.toNat ≤ 11 ∨ lang.toNat = 15) →
      lookup s family.toNat lang.toNat = none →
      exec (.clipUnlock bc present family lang) s = .next (withReply bc 0x83 [8] s)) ∧
    ∀ sectors : List Nat, (present = 0 ∧ sectors = s.ccc.locks) ∨ (present ≠ 0 ∧ family.toNat ≤ 1023 ∧
        (lang.toNat ≤ 11 ∨ lang.toNat = 15) ∧ ∃ c, lookup s family.toNat lang.toNat = some c ∧
          sectors = (List.range ((c.length + 2047) / 2048)).map (c.first + ·)) →
      let locks := s.ccc.locks.filter fun k => !sectors.contains k
      exec (.clipUnlock bc present family lang) s = .next (withReply bc 0x83 [0, BitVec.ofNat 8 locks.length]
        (arbiter { s with ccc := { s.ccc with
          locks := locks,
          queue := s.ccc.queue.filter fun e =>
            !(decide (e.waiting = []) && decide (e.sector ∈ sectors) && decide (e.sector ∈ s.ccc.locks)) } }))) ∧
  ∀ (bc : Bool) (s : State), takes bc s →
    let out := fun i : LineNo => match s.ccc.lines.get i with
      | .valid k _ => !((List.finRange 8).any fun v =>
          (s.vpl.voices.get v).cur == some k || (s.vpl.voices.get v).next == some k) && !s.ccc.locks.contains k
      | _ => false
    exec (.cacheFlush bc) s =
      .next (withReply bc 0x83 [0, BitVec.ofNat 8 ((List.finRange 32).filter out).length]
        (arbiter { s with ccc := { s.ccc with
          lines := Vector.ofFn fun i => if out i then .invalid else s.ccc.lines.get i,
          lru := s.ccc.lru.filter fun i => !out i } }))

/-- The clip memory requests (R159): the refusals BAD_VALUE and BUSY change nothing but the reply; an accepted one
becomes the pending operation with its place RESERVED (R26), and the port arbiter runs (R154, `FetchesRun`). Behind a
fetch in progress it waits. With the port READY and no fetch queued it starts at once, its count 0, and its first status
read is made in the same event (R160): over an idle memory it is sent, so that the memory runs an erase or program and
the port is READING for a read, whose bytes come at a later event (notes/assumptions/25.md); over a busy memory it waits
for ready. -/
def Obligations.ClipRequestsAct : Prop :=
  ∀ (sector : Word16) (addr : BitVec 24) (data : List Byte) (count : Byte) (s : State), takes false s →
    let refused := fun (kind : Byte) (code : Byte) => Host.Outcome.next (withReply false kind [code] s)
    let placed := fun (kind : Byte) (op : MaintOp) (stage : Stage) => ({ s with
      cth := { s.cth with replies := s.cth.replies ++
        [{ state := .reserved, kind := kind, payload := [], resetsDeck := false }] },
      cmp := { s.cmp with maint := some { op := op, stage := stage, ticks := 0 } } } : State)
    let accepted := fun (kind : Byte) (op : MaintOp) (o : Host.Outcome State Fault Refusal) =>
      (s.cmp.maint ≠ none → o = refused kind 7) ∧
      (s.cmp.maint = none → o = .next (arbiter (placed kind op .pending)) ∧
        (s.cmp.fetch ≠ none → o = .next (placed kind op .pending)) ∧
        (s.cmp.fetch = none → s.ccc.queue = [] →
          (s.dev.busy ≠ none → o = .next (placed kind op .waitReady)) ∧
          (s.dev.busy = none → (∀ a n, op ≠ .read a n) → o = .next { placed kind op .sent with
            dev := { s.dev with busy := some op, givenUp := false } }) ∧
          ∀ a n, s.dev.busy = none → op = .read a n → o = .next (placed kind op .sent)))
    (4095 < sector.toNat → exec (.clipErase sector) s = refused 0x85 4) ∧
    (sector.toNat ≤ 4095 → accepted 0x85 (.erase sector.toNat) (exec (.clipErase sector) s)) ∧
    (data.length = 0 ∨ 48 < data.length ∨ 256 < addr.toNat % 256 + data.length →
      exec (.clipProgram addr data) s = refused 0x86 4) ∧
    (1 ≤ data.length → data.length ≤ 48 → addr.toNat % 256 + data.length ≤ 256 →
      accepted 0x86 (.program addr.toNat data) (exec (.clipProgram addr data) s)) ∧
    (count = 0 ∨ 48 < count.toNat ∨ 16777216 < addr.toNat + count.toNat →
      exec (.clipRead addr count) s = refused 0x87 4) ∧
    (count ≠ 0 → count.toNat ≤ 48 → addr.toNat + count.toNat ≤ 16777216 →
      accepted 0x87 (.read addr.toNat count.toNat) (exec (.clipRead addr count) s))

/-- The clip memory port (R149, R152, R154, R155). The arbiter, at the end of each event, with the port READY: the
oldest entry of urgency 4, else the maintenance operation that waits, else the oldest of the highest urgency, a fetch
only with a victim. An operation that starts has the memory's status read (R160): over a busy memory it waits for ready,
over an idle one it is sent, the memory running an erase or program, the port READING the bytes of a read, which come at
a later event (notes/assumptions/25.md). The victim is the lowest-numbered INVALID sector, else the least recent VALID
one neither pinned nor locked; it leaves the LRU order and is FILLING. A voice that begins to read a sector makes it
most recent. A fetch completes: its cache sector is VALID with the sector's 4,096 bytes as clip memory holds them and
most recent, the voices that wait for it play, their stall count as last counted, which is the model's
(notes/assumptions/48.md), and the arbiter runs. A fetch that started over an operation a reset abandoned or that had
ended FAILED has bytes that nothing constrains (notes/assumptions/5.md). -/
def Obligations.FetchesRun : Prop :=
  (∀ s : State,
    let vacant := fun i : LineNo => match s.ccc.lines.get i with
      | .valid k _ => !((List.finRange 8).any fun v =>
          (s.vpl.voices.get v).cur == some k || (s.vpl.voices.get v).next == some k) && !s.ccc.locks.contains k
      | _ => false
    let chosen := fun i : LineNo =>
      (s.ccc.lines.get i = .invalid ∧ ∀ j, j < i → s.ccc.lines.get j ≠ .invalid) ∨
      ((∀ j, s.ccc.lines.get j ≠ .invalid) ∧ ∃ before after, s.ccc.lru = before ++ i :: after ∧ vacant i = true ∧
        ∀ j ∈ before, vacant j = false)
    let none' := ∀ i, ¬chosen i
    let top := fun e : FetchEntry => ∃ before after, s.ccc.queue = before ++ e :: after ∧
      (∀ d ∈ before, d.urgency < e.urgency) ∧ ∀ d ∈ after, d.urgency ≤ e.urgency
    let ready := s.cmp.fetch = none ∧ ∀ m, s.cmp.maint = some m → m.stage = .pending
    (¬ready → arbiter s = s) ∧
    (∀ e i, ready → top e → chosen i → (s.cmp.maint = none ∨ e.urgency = 4) →
      arbiter s = { s with
        ccc := { s.ccc with
          lines := put s.ccc.lines i (.filling e.sector), lru := s.ccc.lru.filter (· != i),
          queue := s.ccc.queue.filter fun d => d.sector != e.sector },
        cmp := { s.cmp with fetch := some { sector := e.sector, line := i, overBusy := s.dev.busy.isSome } } }) ∧
    (∀ m, ready → s.cmp.maint = some m → (none' ∨ ∀ e, top e → e.urgency ≠ 4) →
      (s.dev.busy ≠ none →
        arbiter s = { s with cmp := { s.cmp with maint := some { m with stage := .waitReady, ticks := 0 } } }) ∧
      (s.dev.busy = none → (∀ a n, m.op ≠ .read a n) → arbiter s = { s with
        cmp := { s.cmp with maint := some { m with stage := .sent, ticks := 0 } },
        dev := { s.dev with busy := some m.op, givenUp := false } }) ∧
      ∀ a n, s.dev.busy = none → m.op = .read a n →
        arbiter s = { s with cmp := { s.cmp with maint := some { m with stage := .sent, ticks := 0 } } }) ∧
    (ready → s.cmp.maint = none → (none' ∨ s.ccc.queue = []) → arbiter s = s) ∧
    ∀ k, ((∀ i data, s.ccc.lines.get i ≠ .valid k data) → touch k s = s) ∧
      ∀ i data, s.ccc.lines.get i = .valid k data → (∀ j, j < i → ∀ d, s.ccc.lines.get j ≠ .valid k d) →
        touch k s = { s with ccc := { s.ccc with lru := s.ccc.lru.filter (· != i) ++ [i] } }) ∧
  ∀ (s : State), s.power.running = true →
    (s.cmp.fetch = none → exec .fetchComplete s = .next s) ∧
    ∀ f : Fetch, s.cmp.fetch = some f → (∀ i, i ≠ f.line → (s.ccc.lines.get i).tag ≠ some f.sector) →
    ∃ data, (∀ j, j < 4096 → Memory.read data j =
        if f.overBusy then Config.freeByte s.dev.draws (4096 * f.sector + j)
        else Memory.read s.dev.bytes (4096 * f.sector + j)) ∧
      exec .fetchComplete s = .next (arbiter { s with
        ccc := { s.ccc with
          lines := put s.ccc.lines f.line (.valid f.sector data),
          lru := s.ccc.lru.filter (· != f.line) ++ [f.line] },
        cmp := { s.cmp with fetch := none },
        vpl := { s.vpl with
          voices := mapTable
            (fun x => if (x.state = .priming ∨ x.state = .starved) ∧ x.cur = some f.sector then { x with state := .playing }
              else x)
            s.vpl.voices },
        dev := { s.dev with draws := if f.overBusy then s.dev.draws + 1 else s.dev.draws } })

/-- The clip memory's ready indication by the stage of the operation (R145, R160): what the memory was running has
completed; an operation that waited for it is sent; a sent erase or program takes effect on clip memory (erase to 0xFF,
program to the AND) and ends DONE, and a sent read ends DONE with the bytes that clip memory holds, its reserved reply
READY (R26). An erase or program that ends invalidates its sector: the cache sector that held it leaves the use order
(R161), a voice PLAYING it is STARVED, one fading on it gives 0 for the rest of its fade, a voice that needs it asks for
it again (R142), and where it is locked it is preloaded again (R161). A maintenance operation whose count has reached
3,000 ends FAILED with its reserved reply READY and its tag invalidated in the cache (R160, R161); before that nothing
happens, which is the model's (notes/assumptions/2.md). The memory, which has not reported ready, then still runs it,
and what its region holds when it does is open (notes/assumptions/5.md). That a read's bytes have come is said by this
command too, and that an erase or program takes effect at the indication that ends it, is the model's deduction
(notes/assumptions/25.md). A voice that a STARVED state met before the invalidation keeps its next sector and asks for
it again, which is the model's (notes/assumptions/35.md). With no operation started a ready indication ends what a reset
abandoned inside the memory (R163, notes/assumptions/13.md) or the chip gave up. -/
def Obligations.MaintenanceEnds : Prop :=
  let inside := fun (op : MaintOp) (x : Nat) => match op with
    | .erase k => 4096 * k ≤ x ∧ x < 4096 * (k + 1)
    | .program a bytes => a ≤ x ∧ x < a + bytes.length
    | .read _ _ => False
  let left := fun (op : MaintOp) (x : Nat) (old : Byte) => match op with
    | .erase _ => 0xFF
    | .program a bytes => old &&& bytes.getD (x - a) 0xFF
    | .read _ _ => old
  let ran := fun (d e : Device) =>
    (d.busy = none → e.bytes = d.bytes ∧ e.draws = d.draws) ∧
    ∀ op, d.busy = some op →
      (∀ x, ¬inside op x → Memory.read e.bytes x = Memory.read d.bytes x) ∧
      (d.givenUp = false → e.draws = d.draws ∧
        ∀ x, inside op x → Memory.read e.bytes x = left op x (Memory.read d.bytes x))
  (∀ (s : State), s.power.running = true → (∀ m, s.cmp.maint = some m → m.stage = .pending) →
     (s.dev.busy = none → exec .memoryReady s = .next s) ∧
     (s.dev.busy ≠ none → s.dev.bytes.wf = true →
       ∃ t, exec .memoryReady s = .next t ∧ t.dev.busy = none ∧ t.dev.givenUp = false ∧ ran s.dev t.dev ∧
         { t with dev := s.dev } = s)) ∧
  (∀ (s : State) (m : Maint), s.power.running = true → s.cmp.maint = some m → s.dev.bytes.wf = true →
     (m.stage = .waitReady →
       ∃ t, exec .memoryReady s = .next t ∧ t.cmp = { s.cmp with maint := some { m with stage := .sent } } ∧
         ((∀ a n, m.op ≠ .read a n) → t.dev.busy = some m.op ∧ t.dev.givenUp = false) ∧
         (∀ a n, m.op = .read a n → t.dev.busy = none) ∧ ran s.dev t.dev ∧ { t with cmp := s.cmp, dev := s.dev } = s) ∧
     (∀ a n, m.stage = .sent → m.op = .read a n → s.dev.busy = none →
       ∃ t, exec .memoryReady s = .next t ∧ t.cmp.maint = none ∧
         (∀ before p after, s.cth.replies = before ++ p :: after → p.state = .reserved →
           (∀ q ∈ before, q.state ≠ .reserved) →
           let bytes := (List.range n).map fun j => Memory.read s.dev.bytes (a + j)
           t.cth = { s.cth with replies := before ++ { p with state := .ready, payload := 0 :: bytes } :: after }) ∧
         ((∀ q ∈ s.cth.replies, q.state ≠ .reserved) → t.cth = s.cth) ∧
         { t with cth := s.cth, ccc := s.ccc, cmp := s.cmp } = s) ∧
     (m.stage = .sent → s.dev.busy = some m.op → s.dev.givenUp = false →
       ∃ t, exec .memoryReady s = .next t ∧ t.cmp.maint = none ∧ t.dev.busy = none ∧ t.dev.givenUp = false ∧
         ran s.dev t.dev ∧
         (CacheKept s → ∀ k, (m.op = .erase k ∨ ∃ a bytes, m.op = .program a bytes ∧ k = a / 4096) → invalidated k s t) ∧
         ((∀ a n, m.op ≠ .read a n) → ∀ before p after, s.cth.replies = before ++ p :: after → p.state = .reserved →
           (∀ q ∈ before, q.state ≠ .reserved) →
           t.cth.replies = before ++ { p with state := .ready, payload := [0] } :: after))) ∧
  ∀ (s : State) (m : Maint), s.power.running = true → s.cmp.maint = some m →
    (m.stage = .pending ∨ m.ticks < 3000 → exec .maintenanceTimeout s = .next s) ∧
    (m.stage ≠ .pending → 3000 ≤ m.ticks →
      ∃ t, exec .maintenanceTimeout s = .next t ∧ t.cmp.maint = none ∧
        (∀ before p after, s.cth.replies = before ++ p :: after → p.state = .reserved →
          (∀ q ∈ before, q.state ≠ .reserved) →
          t.cth.replies = before ++ { p with state := .ready, payload := [9] } :: after) ∧
        t.cth.settings = s.cth.settings ∧ t.tif = s.tif ∧ t.scc = s.scc ∧ t.hmx = s.hmx ∧ t.zou = s.zou ∧
        t.rce = s.rce ∧ t.lmc = s.lmc ∧
        (CacheKept s → ∀ k, (m.op = .erase k ∨ ∃ a bytes, m.op = .program a bytes ∧ k = a / 4096) → invalidated k s t) ∧
        t.dev = { s.dev with givenUp := if m.stage = .sent then s.dev.busy.isSome else s.dev.givenUp })

/-! ## Voices -/

/-- An announcement that ASQ starts or resumes takes voices (R119, R130, R140) and makes its seat map (R131): one for
the speakers unless it is for the headsets, one for its primary language unless it is for the speakers, then one for
each other language of the seats that count, by their number and then by language; the IDLE voices first and then those
in ENDING, lowest number first. An IDLE voice starts its first item that resolves, or with none in its round is in GAP after it,
goes on to the next, or finishes; one in ENDING takes a claim, and with no voice to wait for its end is reported (R138). That all voices are taken before the first is started is the model's
(notes/assumptions/34.md). A TALK takes no voice, and every seat of its mask hears the talk sample. `rendered` says all
of it. So does an ANNOUNCE that starts with nothing current, and so does a rise of the talk flag that makes a TALK then.
An item is resolved by the first lookup that finds an entry: of a neutral item its family in language 15; of another its
family in the language, in the language's fallback where it has one, and in language 15 (R134; `ClipLocksAct` says what
a lookup finds, R147). Where nothing else changes, no maintenance operation waits with the port READY, as the kept
property `PortKept` says. -/
def Obligations.VoicesAllocated : Prop :=
  (∀ (s : State) (it : Item) (l : Lang),
    let languages := if it.neutral then [15]
      else l.val :: ((s.scc.languages.get l).fallback.toList.map Fin.val ++ [15])
    resolveItem s it l = languages.findSome? fun k =>
      (List.finRange 512).findSome? fun i => (s.ccc.directory.get i).bind fun c =>
        if c.family = it.family ∧ c.language = k then some c else none) ∧
  (∀ (a : Announcement) (resumed : Bool) (s : State),
    let t := startRendering a resumed s
    rendered a resumed s t ∧ { t.asq with report := s.asq.report } = s.asq ∧ t.ccc.directory = s.ccc.directory ∧
      t.ccc.locks = s.ccc.locks ∧
      (PortSettled s → { t with asq := s.asq, vpl := s.vpl, ccc := s.ccc, cmp := s.cmp } = s)) ∧
  (∀ (bc : Bool) (params : List Byte) (p : AnnounceParams) (s : State), takes bc s → decodeAnnounce params = some p →
    s.asq.phrases.get p.phrase ≠ [] → s.asq.current = none →
    (∀ l, p.stale = some l → (s.rce.state = .running ∨ s.rce.state = .complete) → s.rce.lastOdo ≤ l) →
    ∃ t x, exec (.announce bc params) s = .next t ∧ t.asq.current = some x ∧ x.id = nextId s ∧
      x.source = .phrase p.phrase ∧ rendered x false s t) ∧
  ∀ s : State, (∀ a ∈ liveAnnouncements s, a.source ≠ .talk) → s.asq.current = none →
    let t := talkRise s
    t.vpl.voices = mapTable (fun x => { x with claim := none }) s.vpl.voices ∧
    ∃ r, t.vpl.rendering = some r ∧ r.talk = true ∧ r.owner = nextId s ∧ ∀ i, r.map.get i = some .talk

/-- What each voice does and gives in a period (R128, R136, R139), which a slot makes (`SlotHandsEventsOn`): a voice
that waits gives 0; a PLAYING one gives the sample at its position and moves on, crosses into the next sector where it
is VALID and else is STARVED and gives 0. One in ENDING gives its fading sample, and 0 from where it was not PLAYING,
its clip has ended, or the position has left its sector. What the sample brings is an event of the slot end (R136, R138,
R143): at sample 1,024 the voice asks for the next sector and pins it; the clip's last sample plays the item, and what
remains follows: the next item that resolves, those before it passed over, or the gap between rounds, or with round gap
0 the next round, which it goes through in the same event in its turn, or where nothing is left to play its finish. A voice that a stop has sent to ENDING before takes nothing of it. The end of the current announcement
is reported when its last voice has finished (R138), and a previous map is discarded when no voice it names is still
ENDING for it (R132). That each voice's is an event of its own, and that one which an invalidation starved first takes
it all the same, is the model's (notes/assumptions/42.md), as are the fields of a voice that has become IDLE
(notes/assumptions/41.md) that one in GAP holds no clip and no sector (notes/assumptions/22.md) and that counts of a
wait or a gap that is over stay as last counted (notes/assumptions/48.md). Where nothing else changes, no maintenance
operation waits with the port READY, as the kept property `PortKept` says. -/
def Obligations.VoicePeriods : Prop :=
  (∀ s : State,
    let t := (playVoices s).1
    t.vpl.rendering = s.vpl.rendering ∧ t.vpl.prev = s.vpl.prev ∧
    (PortSettled s → { t with vpl := s.vpl, ccc := s.ccc, cmp := s.cmp } = s)) ∧
  (∀ (s : State) (v : VoiceNo),
    let x := s.vpl.voices.get v
    let t := followSample v s
    let y := t.vpl.voices.get v
    reported s t ∧ t.vpl.prev = s.vpl.prev.filter (fades t.vpl.voices) ∧
    (∀ w, w ≠ v → t.vpl.voices.get w = s.vpl.voices.get w) ∧
    (PortSettled s →
      { t with asq := { t.asq with report := s.asq.report }, vpl := s.vpl, ccc := s.ccc, cmp := s.cmp } = s) ∧
    (x.state ≠ .playing → x.state ≠ .starved → y = x ∧ t.vpl.rendering = s.vpl.rendering) ∧
    ∀ c r, (x.state = .playing ∨ x.state = .starved) → x.clip = some c → s.vpl.rendering = some r →
      (x.position < c.length → t.vpl.rendering = some r ∧
        let next := c.first + x.position / 2048 + 1
        let further := x.position % 2048 = 1025 ∧ x.next = none ∧ (x.position / 2048 + 1) * 2048 < c.length
        y = { x with next := if further then some next else x.next } ∧
        (further → (∃ i, (t.ccc.lines.get i).tag = some next) ∨ ∃ e ∈ t.ccc.queue, e.sector = next)) ∧
      (c.length ≤ x.position →
        let ends := r.softCut = true ∨ (r.items.length ≤ x.item + 1 ∧
          ((∃ l, x.role = .headset l) ∨ r.langs.length ≤ x.round + 1))
        let rests := r.softCut = false ∧ r.items.length ≤ x.item + 1 ∧ x.role = .speaker ∧ x.round + 1 < r.langs.length
        let further := firstClip s (r.items.drop (x.item + 1)) (roleLang x.role r.langs x.round)
        let again := firstClip s r.items (roleLang x.role r.langs (x.round + 1))
        let passed := afterRound s r.items x.round (laterLangs x.role r.langs x.round)
        (∃ p, t.vpl.rendering = some { r with played := true, progress := p } ∧
          ((∃ l, x.role = .headset l) → p = r.progress) ∧
          (ends ∨ (rests ∧ 0 < s.cth.settings.gap) → p = progressed x.role 1 r.progress) ∧
          (∀ n d, r.softCut = false → further = some (n, d) → p = progressed x.role (1 + n) r.progress) ∧
          (∀ n d, rests → s.cth.settings.gap = 0 → again = some (n, d) →
            p = { round := x.round + 1, items := n }) ∧
          (r.softCut = false → further = none → x.item < r.items.length →
            p = onwardProgress r.items x.round (progressed x.role (r.items.length - x.item) r.progress) passed)) ∧
        (ends → y = Reset.voice) ∧
        (rests → 0 < s.cth.settings.gap →
          y = { x with state := .gap, clip := none, position := 0, cur := none, next := none, gap := 0,
                       gapKept := s.cth.settings.gap }) ∧
        (∀ n d, rests → s.cth.settings.gap = 0 → again = some (n, d) →
          y = startsClip s d { x with round := x.round + 1, item := n }) ∧
        (r.softCut = false → further = none → x.item < r.items.length → y = onwardVoice s r.items x passed) ∧
        ∀ n d, r.softCut = false → further = some (n, d) →
          y = startsClip s d { x with item := x.item + 1 + n })) ∧
  ∀ (s : State) (v : VoiceNo),
    let x := s.vpl.voices.get v
    let t := (playVoices s).1
    let y := t.vpl.voices.get v
    let gave := (playVoices s).2.getD v.val .silent
    (x.state = .idle → y = x ∧ gave = .silent) ∧
    ((x.state = .priming ∨ x.state = .starved ∨ x.state = .gap) → y = x ∧ gave = .waiting) ∧
    (∀ c, x.state = .playing → x.clip = some c →
      let k := c.first + x.position / 2048
      (x.cur ≠ some k → (∀ i data, s.ccc.lines.get i ≠ .valid k data) →
        y = { x with state := .starved, cur := some k, next := none, stall := 0 } ∧ gave = .waiting) ∧
      ∀ i data, s.ccc.lines.get i = .valid k data → (∀ j, j < i → ∀ d, s.ccc.lines.get j ≠ .valid k d) →
        let at' := 2 * (x.position % 2048)
        gave = .playing (Memory.read data (at' + 1) ++ Memory.read data at').toInt ∧
        y = { x with position := x.position + 1, cur := some k, next := if x.cur = some k then x.next else none }) ∧
    (x.state = .ending →
      let k := min (x.fade + 1) 64
      (∀ c i line data, x.clip = some c → x.cur = some i → x.fadeSilent = false → x.position < c.length →
        c.first + x.position / 2048 = i → s.ccc.lines.get line = .valid i data →
        (∀ j, j < line → ∀ d, s.ccc.lines.get j ≠ .valid i d) →
        let at' := 2 * (x.position % 2048)
        y = { x with fade := k, position := x.position + 1 } ∧
        gave = .fading (((Memory.read data (at' + 1) ++ Memory.read data at').toInt * (64 - (k : Int))).tdiv 64)) ∧
      ((x.clip = none ∨ x.cur = none ∨ x.fadeSilent = true ∨
          (∃ c, x.clip = some c ∧ (c.length ≤ x.position ∨ x.cur ≠ some (c.first + x.position / 2048))) ∨
          ∀ i, x.cur = some i → ∀ line data, s.ccc.lines.get line ≠ .valid i data) →
        y = { x with fade := k, fadeSilent := true } ∧ gave = .fading 0))

/-- The gap of a speaker voice is over: it starts the next round at its first item that resolves, the ones before it
counted as finished, and primes its clip or plays at once where its first sector is VALID (R133, R134, R135, R138).
Where no item that remains of a round resolves, here and below, the voice passes through them all in the event: into the
gap after that round, with round gap 0 on to the next round, which is gone through in its turn, and after the last round
to its finish. A
voice that has waited 2,000 ticks on an item abandons it: CLIP_STALL is queued and the item is finished, not played;
with a further item that resolves it starts that, those before it passed over, with a further round it is in GAP or,
with round gap 0, starts that, and after its last item it is in ENDING with no pin, whether a headset or the speaker
voice (R137, R138, R139). A fade's end after its 64th period: without a claim the voice is IDLE with every field as
after reset, with one it takes the claim's owner, role and round and starts the first item that resolves; a previous map
is discarded when no voice it names is still ENDING for it (R132). Where the last voice of the current announcement has
so finished, its end is reported with the played flag (R138). A voice in another state, or whose count is short, goes on
unchanged, which is the model's (R139, notes/assumptions/2.md), as are the fields of a voice that has become IDLE
(notes/assumptions/41.md) that a voice in GAP holds no clip and no sector (notes/assumptions/22.md) and that counts of a
wait or a gap that is over stay as last counted, as do the clip and position of an abandoned item in ENDING
(notes/assumptions/48.md). No maintenance operation waits with the port READY, as the kept property `PortKept` says. -/
def Obligations.VoiceExpiriesAct : Prop :=
  (∀ (v : VoiceNo) (r : RenderRec) (n : Nat) (c : Clip) (s : State), s.power.running = true → PortSettled s →
     let x := s.vpl.voices.get v
     (x.state ≠ .gap ∨ x.gap < x.gapKept → exec (.gapExpiry v) s = .next s) ∧
     (x.state = .gap → x.gapKept ≤ x.gap → x.role = .speaker → x.owner = some r.owner → s.vpl.rendering = some r →
      firstClip s r.items (r.langs.getD (x.round + 1) 0) = some (n, c) → (0 < n → r.softCut = false) →
      ∃ t, exec (.gapExpiry v) s = .next t ∧
        t.vpl.voices.get v = startsClip s c { x with round := x.round + 1, item := n } ∧
        (∀ w, w ≠ v → t.vpl.voices.get w = s.vpl.voices.get w) ∧
        t.vpl.rendering = some { r with progress := { round := x.round + 1, items := n } } ∧
        (sectorValid s c.first = false → (∃ i, (t.ccc.lines.get i).tag = some c.first) ∨ ∃ e ∈ t.ccc.queue, e.sector = c.first) ∧
        t.vpl.prev = s.vpl.prev ∧ { t with vpl := s.vpl, ccc := s.ccc, cmp := s.cmp } = s) ∧
     (x.state = .gap → x.gapKept ≤ x.gap → x.role = .speaker → x.owner = some r.owner → s.vpl.rendering = some r →
      firstClip s r.items (r.langs.getD (x.round + 1) 0) = none → r.items ≠ [] → r.softCut = false →
      let passed := afterRound s r.items (x.round + 1) (laterLangs .speaker r.langs (x.round + 1))
      ∃ t, exec (.gapExpiry v) s = .next t ∧ t.vpl.voices.get v = onwardVoice s r.items x passed ∧
        (∀ w, w ≠ v → t.vpl.voices.get w = s.vpl.voices.get w) ∧
        t.vpl.rendering = some { r with
          progress := onwardProgress r.items (x.round + 1) { round := x.round + 1, items := r.items.length } passed } ∧
        t.vpl.prev = s.vpl.prev ∧ { t.asq with report := s.asq.report } = s.asq ∧
        { t with asq := s.asq, vpl := s.vpl, ccc := s.ccc, cmp := s.cmp } = s) ∧
     (x.state = .gap → x.gapKept ≤ x.gap → ∃ t, exec (.gapExpiry v) s = .next t ∧ reported s t)) ∧
  (∀ (v : VoiceNo) (r : RenderRec) (c : Clip) (s : State), s.power.running = true → PortSettled s →
     let x := s.vpl.voices.get v
     ((x.state ≠ .priming ∧ x.state ≠ .starved) ∨ x.stall < 2000 → exec (.clipStall v) s = .next s) ∧
     ((x.state = .priming ∨ x.state = .starved) → 2000 ≤ x.stall → x.clip = some c → s.vpl.rendering = some r →
      ∃ t, exec (.clipStall v) s = .next t ∧ t.cth = (pushNotice (.clipStall v c.family) s).cth ∧
        (∀ w, w ≠ v → t.vpl.voices.get w = s.vpl.voices.get w) ∧
        (let counted := fun n : Nat => { r with progress := progressed x.role n r.progress }
         let noItem := r.items.length ≤ x.item + 1
         ((r.softCut = true ∨ (noItem ∧ ((∃ l, x.role = .headset l) ∨ r.langs.length ≤ x.round + 1))) →
           t.vpl.voices.get v = { x with
             state := .ending, cur := none, next := none, fade := 0, claim := none,
             fadeZones := some (r.mask, r.priority), fadeSilent := true } ∧ t.vpl.rendering = some (counted 1)) ∧
         (r.softCut = false → noItem → x.role = .speaker → x.round + 1 < r.langs.length → 0 < s.cth.settings.gap →
           t.vpl.voices.get v = { x with
             state := .gap, clip := none, position := 0, cur := none, next := none, gap := 0,
             gapKept := s.cth.settings.gap } ∧ t.vpl.rendering = some (counted 1)) ∧
         (∀ n d, r.softCut = false → noItem → x.role = .speaker → x.round + 1 < r.langs.length → s.cth.settings.gap = 0 →
           firstClip s r.items (r.langs.getD (x.round + 1) 0) = some (n, d) →
           t.vpl.voices.get v = startsClip s d { x with round := x.round + 1, item := n } ∧
           t.vpl.rendering = some { r with progress := { round := x.round + 1, items := n } }) ∧
         (r.softCut = false → firstClip s (r.items.drop (x.item + 1)) (roleLang x.role r.langs x.round) = none →
           (x.item + 1 < r.items.length ∨
             (x.item + 1 = r.items.length ∧ x.role = .speaker ∧ x.round + 1 < r.langs.length)) →
           let passed := afterRound s r.items x.round (laterLangs x.role r.langs x.round)
           t.vpl.voices.get v = onwardVoice s r.items x passed ∧
           t.vpl.rendering = some { r with
             progress := onwardProgress r.items x.round (progressed x.role (r.items.length - x.item) r.progress) passed }) ∧
         ∀ n d, r.softCut = false →
           firstClip s (r.items.drop (x.item + 1)) (roleLang x.role r.langs x.round) = some (n, d) →
           t.vpl.voices.get v = startsClip s d { x with item := x.item + 1 + n } ∧
           t.vpl.rendering = some (counted (1 + n))) ∧
        reported s t ∧ t.vpl.prev = s.vpl.prev ∧ { t.asq with report := s.asq.report } = s.asq ∧
        { t with cth := s.cth, asq := s.asq, vpl := s.vpl, ccc := s.ccc, cmp := s.cmp } = s)) ∧
  ∀ (v : VoiceNo) (s : State), s.power.running = true → PortSettled s →
    let x := s.vpl.voices.get v
    (x.state ≠ .ending ∨ x.fade < 64 → exec (.fadeEnd v) s = .next s) ∧
    (x.state = .ending → 64 ≤ x.fade → x.claim = none →
      ∃ t, exec (.fadeEnd v) s = .next t ∧ t.vpl.voices = put s.vpl.voices v Reset.voice ∧
        t.vpl.rendering = s.vpl.rendering ∧ reported s t ∧ t.vpl.prev = s.vpl.prev.filter (fades t.vpl.voices) ∧
        { t.asq with report := s.asq.report } = s.asq ∧
        { t with asq := s.asq, vpl := s.vpl, ccc := s.ccc, cmp := s.cmp } = s) ∧
    (∀ k r c n, x.state = .ending → 64 ≤ x.fade → x.claim = some k → s.vpl.rendering = some r → k.owner = r.owner →
      firstClip s r.items (roleLang k.role r.langs k.round) = some (n, c) → (0 < n → r.softCut = false) →
      ∃ t, exec (.fadeEnd v) s = .next t ∧
        t.vpl.voices.get v =
          startsClip s c { Reset.voice with owner := some k.owner, role := k.role, round := k.round, item := n } ∧
        t.vpl.rendering = some { r with progress := progressed k.role n r.progress } ∧
        (∀ w, w ≠ v → t.vpl.voices.get w = s.vpl.voices.get w) ∧ t.vpl.prev = s.vpl.prev.filter (fades t.vpl.voices) ∧
        { t with vpl := s.vpl, ccc := s.ccc, cmp := s.cmp } = s) ∧
    ∀ k r, x.state = .ending → 64 ≤ x.fade → x.claim = some k → s.vpl.rendering = some r → k.owner = r.owner →
      firstClip s r.items (roleLang k.role r.langs k.round) = none → r.items ≠ [] → r.softCut = false →
      let passed := afterRound s r.items k.round (laterLangs k.role r.langs k.round)
      ∃ t, exec (.fadeEnd v) s = .next t ∧
        t.vpl.voices.get v =
          onwardVoice s r.items { Reset.voice with owner := some k.owner, role := k.role, round := k.round } passed ∧
        t.vpl.rendering = some { r with
          progress := onwardProgress r.items k.round (progressed k.role r.items.length r.progress) passed } ∧
        (∀ w, w ≠ v → t.vpl.voices.get w = s.vpl.voices.get w) ∧ reported s t ∧
        t.vpl.prev = s.vpl.prev.filter (fades t.vpl.voices) ∧ { t.asq with report := s.asq.report } = s.asq ∧
        { t with asq := s.asq, vpl := s.vpl, ccc := s.ccc, cmp := s.cmp } = s

/-! ## Deck reset -/

/-- An addressed DECK_RESET is answered DONE and pending; a broadcast one, and the last slot of that DONE, bring the
deck reset: queues and flags of CTH cleared with the settings and the packet in transmission kept (R36), the route IDLE
with every entry PENDING and its notice (R107), announcements and voices gone without notice (R127, R144), quiet cleared
(R88), the cache's sectors and LRU order kept and its fetch queue holding the locked sectors that it does not hold, in
sector order, after which the arbiter runs (R153, R154, R163), and TIF, SCC, HMX, LMC and the tables as they were (R20,
R57, R75, R179, R187). That the effect waits for a command of its own, which does nothing before the last slot is sent,
is the model's (notes/assumptions/2.md). -/
def Obligations.DeckResetActs : Prop :=
  ∀ (s : State),
    (takes false s → exec (.deckReset false) s = .next { s with cth := { s.cth with
      deckPending := true,
      replies := s.cth.replies ++ [{ state := .ready, kind := 0x88, payload := [0], resetsDeck := true }] } }) ∧
    (s.power.running = true → s.cth.deckDue = false → exec .deckResetEffect s = .next s) ∧
    ∀ c, ((c = .deckReset true ∧ takes true s) ∨ (c = .deckResetEffect ∧ s.power.running = true ∧ s.cth.deckDue = true)) →
      ∃ queue, (∀ k, (∃ e ∈ queue, e.sector = k) ↔ k ∈ s.ccc.locks ∧ ∀ i, (s.ccc.lines.get i).tag ≠ some k) ∧
        (queue.map FetchEntry.sector).Nodup ∧ (∀ e ∈ queue, e.urgency = 0 ∧ e.waiting = []) ∧
        (s.ccc.locks.Nodup → queue.map FetchEntry.sector =
          s.ccc.locks.filter fun k => !(List.finRange 32).any fun i => decide ((s.ccc.lines.get i).tag = some k)) ∧
        exec c s = .next (arbiter { s with
          cth := { s.cth with
            assembly := none, replies := [], lost := false, deckPending := false, deckDue := false, cause := .deck,
            notices := if s.rce.state = .idle then [] else [.routeState .idle 0 false] },
          rce := { s.rce with
            cues := mapTable (fun c => { c with state := .pending }) s.rce.cues, cursor := 0, lastOdo := 0,
            state := .idle },
          asq := { s.asq with current := none, stack := [], queue := [], softCut := false, report := none },
          vpl := { voices := Vector.replicate 8 Reset.voice, rendering := none, prev := none },
          zou := { s.zou with
            zones := Vector.ofFn fun z => { s.zou.zones.get z with quiet := false, duck := 0 }, summary := none },
          ccc := { s.ccc with queue := queue },
          cmp := { s.cmp with maint := match s.cmp.maint with
            | some m => if m.stage = .pending then none else some m
            | none => none } })

/-! ## What every step keeps -/

/-- The bounded queues stay within their places and the route's counts within their ranges, at every step (R10, R23,
R32, R33, R91, R97, R156), the lock table rises, and volumes are at most 15 (R38, R51); the receiver hunts only out of
LOCKED with no VALID slot counted (R3, R6, R8), no delivery waits for its block between two commands
(notes/assumptions/7.md), and the override's flag source is the deck alarm flag (R184). Applied indexes lie between the
seat's cap and mute at every step (R64). -/
def Obligations.BoundsKept : Prop :=
  (∀ s t : State, Bounded s → step s = .next t → Bounded t) ∧
  ∀ s t : State, GainsHeld s → step s = .next t → GainsHeld t

/-- At every step a group stands in the ignition queue at most once and only while running and WAITING, a group of
mode OFF does not run, and one that does not run stands at level 0 (R168, R169, R178, R181). The grant history stays
within 4 ticks in their order, and while groups ask for light a running group above level 0 is LIT or WAITING, at
every step (R181, R182). -/
def Obligations.IgnitionStaysKept : Prop :=
  (∀ s t : State, IgnitionKept s → step s = .next t → IgnitionKept t) ∧
  ∀ s t : State, BudgetKept s → IgnitionKept s → step s = .next t → BudgetKept t

/-- At every step no two cache sectors hold one tag, only the sector being fetched is FILLING, and the fetch queue names
no cached sector and none twice (R148, R150, R155). No maintenance operation waits with the port READY, a started one
has no fetch beside it, and a busy memory, which runs it once it is sent, or nothing where it is a sent read, and at
most one reply place is RESERVED, for the operation that is pending or in progress (R26, R154, R159, R160, R161); that
the memory goes on with what the chip has given up is the model's (notes/assumptions/5.md). Clip memory and the copies
of its sectors keep their canonical form at every step; the form is the model's (notes/assumptions/4.md), the contents
R145's. -/
def Obligations.CacheStaysKept : Prop :=
  (∀ s t : State, CacheKept s → step s = .next t → CacheKept t) ∧
  (∀ s t : State, PortKept s → step s = .next t → PortKept t) ∧
  ∀ s t : State, MemoryKept s → step s = .next t → MemoryKept t

/-- At every step live ids are unique and 1 to 255, the queue holds at most 16 in its order, the stack's priorities
strictly fall below the current announcement's, and with none current nothing waits (R110, R114, R115, R116). -/
def Obligations.AnnouncementsStayKept : Prop :=
  ∀ s t : State, AnnouncementsKept s → step s = .next t → AnnouncementsKept t

/-- The state after reset has every property that the steps keep. -/
def Obligations.ResetIsKept : Prop :=
  Bounded State.reset ∧ GainsHeld State.reset ∧ IgnitionKept State.reset ∧ BudgetKept State.reset ∧
    CacheKept State.reset ∧ PortKept State.reset ∧ MemoryKept State.reset ∧ AnnouncementsKept State.reset
end

