-- ==== Sys2Proof/Laws/Announcements.lean ====
section
/-! SUPPORT. ASQ's queue, ids and selection: what each operation answers, said once. -/

namespace Sys2Proof.Laws

open Sys2Proof Sys2Proof.Machine

/-! ## The queue (R115) -/

/-- An insertion goes before the first entry the new one stands ahead of. -/
theorem insertQueue_eq (x : Announcement) : ∀ q : List Announcement,
    insertQueue x q = q.takeWhile (fun y => !ahead x y) ++ x :: q.dropWhile (fun y => !ahead x y)
  | [] => rfl
  | y :: ys => by
    simp only [insertQueue]
    cases h : ahead x y
    · simp [h, insertQueue_eq x ys]
    · simp [h]

theorem mem_insertQueue {x y : Announcement} {q : List Announcement} : y ∈ insertQueue x q ↔ y = x ∨ y ∈ q := by
  rw [insertQueue_eq]
  constructor
  · intro h
    rcases List.mem_append.mp h with h | h
    · exact .inr ((List.takeWhile_sublist _).mem h)
    · rcases List.mem_cons.mp h with h | h
      · exact .inl h
      · exact .inr ((List.dropWhile_sublist _).mem h)
  · rintro (rfl | h)
    · simp
    · rw [← List.takeWhile_append_dropWhile (p := fun y => !ahead x y) (l := q)] at h
      rcases List.mem_append.mp h with h | h
      · exact List.mem_append.mpr (.inl h)
      · exact List.mem_append.mpr (.inr (List.mem_cons.mpr (.inr h)))

@[simp] theorem insertQueue_length (x : Announcement) : ∀ q : List Announcement, (insertQueue x q).length = q.length + 1
  | [] => rfl
  | y :: ys => by
    simp only [insertQueue]
    split
    · rfl
    · simp [insertQueue_length x ys]

/-- What the full rule answers (R115). -/
theorem joinQueue_cases (x : Announcement) (q : List Announcement) :
    (q.length < 16 ∧ joinQueue x q = some (insertQueue x q, none)) ∨
    (16 ≤ q.length ∧ ∃ rest y, q = rest ++ [y] ∧ y.priority < x.priority ∧
      joinQueue x q = some (insertQueue x rest, some y)) ∨
    (16 ≤ q.length ∧ joinQueue x q = none) := by
  unfold joinQueue Config.queuePlaces
  by_cases h : q.length < 16
  · exact .inl ⟨h, if_pos h⟩
  · rw [if_neg h]
    rcases List.eq_nil_or_concat q with rfl | ⟨rest, y, rfl⟩
    · simp at h
    · have e1 : (rest ++ [y]).getLast? = some y := by simp
      have e2 : (rest ++ [y]).dropLast = rest := by simp
      simp only [List.concat_eq_append, e1, e2] at h ⊢
      by_cases hp : y.priority < x.priority
      · exact .inr (.inl ⟨by omega, rest, y, by simp, hp, by simp [hp]⟩)
      · exact .inr (.inr ⟨by omega, by simp [hp]⟩)

/-- A displacement or an insertion leaves at most 16 queued. -/
theorem joinQueue_length {x : Announcement} {q q' : List Announcement} {d : Option Announcement}
    (h : joinQueue x q = some (q', d)) (hq : q.length ≤ 16) : q'.length ≤ 16 := by
  rcases joinQueue_cases x q with ⟨hl, he⟩ | ⟨_, rest, y, rfl, _, he⟩ | ⟨_, he⟩
  · rw [he] at h
    obtain ⟨rfl, -⟩ := Prod.mk.inj (Option.some.inj h)
    simp; omega
  · rw [he] at h
    obtain ⟨rfl, -⟩ := Prod.mk.inj (Option.some.inj h)
    simp at hq ⊢; omega
  · rw [he] at h; exact absurd h (by simp)

/-! ## Ids (R110) -/

theorem idAfter_range (id : Nat) : 1 ≤ idAfter id ∧ idAfter id ≤ 255 := by
  unfold idAfter
  split <;> omega

theorem findId_range (s : State) : ∀ (n id : Nat), 0 < n → 1 ≤ findId s n id ∧ findId s n id ≤ 255
  | n + 1, id, _ => by
    simp only [findId]
    split
    · cases n with
      | zero => exact idAfter_range id
      | succ n => exact findId_range s (n + 1) (idAfter id) (by omega)
    · exact idAfter_range id

/-- An id issued is 1 to 255. -/
theorem nextId_range (s : State) : 1 ≤ nextId s ∧ nextId s ≤ 255 := findId_range s 255 s.asq.lastId (by omega)

/-! ## Selection (R118) -/

/-- A candidate is the stack top or the queue head, and the rest is what they leave. -/
theorem candidate_cases {stack queue stack' queue' : List Announcement} {a : Announcement} {b : Bool}
    (h : candidate stack queue = some (a, b, stack', queue')) :
    (stack = a :: stack' ∧ queue' = queue ∧ b = true) ∨ (queue = a :: queue' ∧ stack' = stack ∧ b = false) := by
  unfold candidate at h
  split at h
  · exact absurd h (by simp)
  · simp only [Option.some.injEq, Prod.mk.injEq] at h
    obtain ⟨rfl, rfl, rfl, rfl⟩ := h
    exact .inl ⟨rfl, rfl, rfl⟩
  · simp only [Option.some.injEq, Prod.mk.injEq] at h
    obtain ⟨rfl, rfl, rfl, rfl⟩ := h
    exact .inr ⟨rfl, rfl, rfl⟩
  · split at h
    · simp only [Option.some.injEq, Prod.mk.injEq] at h
      obtain ⟨rfl, rfl, rfl, rfl⟩ := h
      exact .inr ⟨rfl, rfl, rfl⟩
    · simp only [Option.some.injEq, Prod.mk.injEq] at h
      obtain ⟨rfl, rfl, rfl, rfl⟩ := h
      exact .inl ⟨rfl, rfl, rfl⟩

end Sys2Proof.Laws
end

