-- ==== Sys2Proof/Laws/Bits.lean ====
section
/-! SUPPORT. Bytes, words and tables: what a number split into bytes reads back as, and read after write of a table. -/

namespace Sys2Proof.Laws

open Sys2Proof Sys2Proof.Machine

/-! ## Bytes -/

@[simp] theorem byte_toNat (n : Nat) : (byte n).toNat = n % 256 := by simp [byte]

theorem byte_toNat_of_lt {n : Nat} (h : n < 256) : (byte n).toNat = n := by simp [Nat.mod_eq_of_lt h]

theorem byte_of_toNat (b : Byte) : byte b.toNat = b := by simp [byte]

theorem be16_bytes {n : Nat} (h : n < 65536) : be16 (byte (n / 256)) (byte n) = n := by
  simp only [be16, byte_toNat]; omega

theorem be24_bytes {n : Nat} (h : n < 16777216) : be24 (byte (n / 65536)) (byte (n / 256)) (byte n) = n := by
  simp only [be24, byte_toNat]; omega

theorem bytes16_word (w : Word16) : bytes16 w.toNat = [w.extractLsb' 8 8, w.extractLsb' 0 8] := by
  have h1 : byte (w.toNat / 256) = w.extractLsb' 8 8 := by
    apply BitVec.eq_of_toNat_eq
    simp [BitVec.extractLsb'_toNat, Nat.shiftRight_eq_div_pow]
  have h2 : byte w.toNat = w.extractLsb' 0 8 := by
    apply BitVec.eq_of_toNat_eq
    simp [BitVec.extractLsb'_toNat]
  simp [bytes16, h1, h2]

@[simp] theorem yes_yesByte (b : Bool) : yes (yesByte b) = b := by cases b <;> rfl

theorem yes_eq (b : Byte) : yes b = (b != 0) := rfl

@[simp] theorem asFin_val {n : Nat} (k : Fin n) : asFin n k.val = some k := by simp [asFin]

theorem asFin_lt {n k : Nat} (h : k < n) : asFin n k = some ⟨k, h⟩ := by simp [asFin, h]

theorem asFin_ge {n k : Nat} (h : n ≤ k) : asFin n k = none := by simp [asFin]; omega

theorem asFin_byte {n : Nat} (k : Fin n) (h : n ≤ 256) : asFin n (byte k.val).toNat = some k := by
  rw [byte_toNat_of_lt (by omega), asFin_val]

@[simp] theorem yes_zero : yes 0#8 = false := rfl

@[simp] theorem yes_one : yes 1#8 = true := rfl

theorem atLeast1_byte {n : Nat} (h : 1 ≤ n) (h2 : n ≤ 255) : atLeast1 (byte n) = n := by
  simp only [atLeast1, byte_toNat]
  rw [if_neg (by omega)]
  omega

theorem atLeast1_eq (b : Byte) : atLeast1 b = max 1 b.toNat := by
  unfold atLeast1
  split <;> omega

/-! ## Tables -/

variable {α β : Type} {n : Nat}

@[simp] theorem get_put_same (t : Vector α n) (i : Fin n) (x : α) : (put t i x).get i = x := by
  show (put t i x)[i.val] = x
  simp [put]

theorem get_put_ne (t : Vector α n) {i j : Fin n} (x : α) (h : j ≠ i) : (put t i x).get j = t.get j := by
  show (put t i x)[j.val] = t[j.val]
  simp only [put]
  rw [Vector.getElem_set_ne]
  exact fun e => h (Fin.ext e.symm)

theorem get_put (t : Vector α n) (i j : Fin n) (x : α) : (put t i x).get j = if j = i then x else t.get j := by
  split
  · next h => subst h; exact get_put_same t j x
  · next h => exact get_put_ne t x h

@[simp] theorem get_ofFn (f : Fin n → α) (i : Fin n) : (Vector.ofFn f).get i = f i := by
  show (Vector.ofFn f)[i.val] = f i
  simp

@[simp] theorem get_mapTable (f : α → β) (t : Vector α n) (i : Fin n) : (mapTable f t).get i = f (t.get i) := by
  simp [mapTable]

@[simp] theorem get_replicate (x : α) (i : Fin n) : (Vector.replicate n x).get i = x := by
  show (Vector.replicate n x)[i.val] = x
  simp

/-- Tables are equal when every entry is. -/
theorem table_ext {t u : Vector α n} (h : ∀ i, t.get i = u.get i) : t = u := by
  apply Vector.ext
  intro i hi
  exact h ⟨i, hi⟩

@[simp] theorem put_get (t : Vector α n) (i : Fin n) : put t i (t.get i) = t := by
  apply table_ext
  intro j
  rw [get_put]
  split
  · next h => rw [h]
  · rfl

@[simp] theorem put_put (t : Vector α n) (i : Fin n) (x y : α) : put (put t i x) i y = put t i y := by
  apply table_ext
  intro j
  simp only [get_put]
  split <;> rfl

theorem put_eq_ofFn (t : Vector α n) (i : Fin n) (x : α) : put t i x = Vector.ofFn fun j => if j = i then x else t.get j := by
  apply table_ext
  intro j
  rw [get_put, get_ofFn]

theorem adjust_eq (t : Vector α n) (i : Fin n) (f : α → α) : adjust t i f = put t i (f (t.get i)) := rfl

/-! ## takeFirst -/

theorem takeFirst_none {p : α → Bool} : ∀ {l : List α}, l.any p = false → takeFirst p l = none
  | [], _ => rfl
  | x :: xs, h => by
    simp only [List.any_cons, Bool.or_eq_false_iff] at h
    simp [takeFirst, h.1, takeFirst_none h.2]

theorem takeFirst_some {p : α → Bool} : ∀ {l : List α}, l.any p = true →
    ∃ x, takeFirst p l = some (x, l.eraseP p) ∧ p x = true ∧ x ∈ l
  | [], h => by simp at h
  | x :: xs, h => by
    by_cases hx : p x = true
    · exact ⟨x, by simp [takeFirst, hx], hx, by simp⟩
    · simp only [List.any_cons, hx, Bool.false_or] at h
      obtain ⟨y, hy, hp, hm⟩ := takeFirst_some h
      exact ⟨y, by simp [takeFirst, hx, hy], hp, by simp [hm]⟩

end Sys2Proof.Laws
end

