-- ==== Sys2Proof/Laws/Closure.lean ====
section
/-! SUPPORT. What each operation can touch, said once for every property at the same time: a property kept by an
operation's parts is kept by the operation. A frame is the instance `fun t => t.tif = s.tif`; an invariant is itself. -/

namespace Sys2Proof.Laws

open Sys2Proof Sys2Proof.Machine

variable {P : State → Prop}

/-- Kept by the cache's operations. -/
structure CacheClosed (P : State → Prop) : Prop where
  request : ∀ v k u s, P s → P (request v k u s)
  touch : ∀ k s, P s → P (touch k s)
  ceaseWait : ∀ v s, P s → P (ceaseWait v s)
  arbiter : ∀ s, P s → P (arbiter s)

/-- Kept by everything a voice does. -/
structure VoiceClosed (P : State → Prop) : Prop extends CacheClosed P where
  vpl : ∀ x s, P s → P { s with vpl := x }
  report : ∀ r s, P s → P { s with asq := { s.asq with report := r } }

/-- Kept by starts, stops and loads of lamp groups. -/
structure LampClosed (P : State → Prop) : Prop where
  start : ∀ g s, P s → P (startGroup g s)
  stop : ∀ g s, P s → P (stopGroup g s)
  write : ∀ g p s, P s → P (writePattern g p s)

/-- Kept by everything an announcement does. -/
structure AsqClosed (P : State → Prop) : Prop extends VoiceClosed P, LampClosed P where
  notice : ∀ n s, P s → P (pushNotice n s)
  zou : ∀ x s, P s → P { s with zou := x }
  asq : ∀ x s, P s → P { s with asq := x }

/-- Kept by everything the route and the seats do. -/
structure DeckClosed (P : State → Prop) : Prop extends AsqClosed P where
  rce : ∀ x s, P s → P { s with rce := x }
  scc : ∀ x s, P s → P { s with scc := x }
  hmx : ∀ x s, P s → P { s with hmx := x }

/-! ## Choices and lists of operations -/

theorem keep_ite {b : Prop} [Decidable b] {s t : State} (hs : P s) (ht : P t) : P (if b then s else t) := by
  split
  · exact hs
  · exact ht

theorem keep_foldl {α : Type} {f : State → α → State} (hf : ∀ a s, P s → P (f s a)) :
    ∀ (l : List α) (s : State), P s → P (l.foldl f s)
  | [], _, h => h
  | a :: l, s, h => keep_foldl hf l (f s a) (hf a s h)

/-! ## Lamp groups -/

theorem keep_forGroups {f : GroupNo → State → State} (hf : ∀ g s, P s → P (f g s)) (p : Group → Bool) (s : State)
    (h : P s) : P (forGroups p f s) := by
  unfold forGroups
  refine keep_foldl (fun g s hs => ?_) _ _ h
  split
  · exact hf g s hs
  · exact hs

theorem keep_lampStopRequest (c : LampClosed P) (s : State) (h : P s) : P (lampStopRequest s) :=
  keep_forGroups c.start _ _ h

theorem keep_lampStopEnd (c : LampClosed P) (s : State) (h : P s) : P (lampStopEnd s) :=
  keep_forGroups c.stop _ _ h

theorem keep_lampAnnounceStart (c : LampClosed P) (a : Announcement) (s : State) (h : P s) :
    P (lampAnnounceStart a s) :=
  keep_forGroups c.start _ _ h

theorem keep_lampAnnounceEnd (c : LampClosed P) (a : Announcement) (s : State) (h : P s) :
    P (lampAnnounceEnd a s) :=
  keep_forGroups c.stop _ _ h

theorem keep_lampAlarmStart (c : LampClosed P) (s : State) (h : P s) : P (lampAlarmStart s) :=
  keep_forGroups c.start _ _ h

theorem keep_lampAlarmEnd (c : LampClosed P) (s : State) (h : P s) : P (lampAlarmEnd s) :=
  keep_forGroups c.stop _ _ h

theorem keep_lampChain (c : LampClosed P) (k : GroupNo) (s : State) (h : P s) : P (lampChain k s) :=
  keep_forGroups c.start _ _ h

theorem keep_applySetting (c : LampClosed P) (sc : Vector SceneSetting 24) (g : GroupNo) (s : State) (h : P s) :
    P (applySetting sc s g) := by
  unfold applySetting
  split
  · exact h
  · split
    · exact h
    · exact c.stop g s h
    · exact c.start g _ (c.write g _ s h)

theorem keep_applyScene (c : LampClosed P) (n : Fin 16) (s : State) (h : P s) : P (applyScene n s) :=
  keep_foldl (fun g s hs => keep_applySetting c _ g s hs) _ _ h

/-! ## Voices -/

theorem keep_setVoice (c : VoiceClosed P) (v : VoiceNo) (x : Voice) (s : State) (h : P s) : P (setVoice v x s) :=
  c.vpl _ s h

theorem keep_setRendering (c : VoiceClosed P) (r : Option RenderRec) (s : State) (h : P s) : P (setRendering r s) :=
  c.vpl _ s h

theorem keep_enterPlaying (c : VoiceClosed P) (v : VoiceNo) (k : Nat) (s : State) (h : P s) :
    P (enterPlaying v k s) :=
  c.touch k _ (keep_setVoice c v _ s h)

theorem keep_requestFor (c : VoiceClosed P) (r : RenderRec) (v : VoiceNo) (k : Nat) (s : State) (h : P s) :
    P (requestFor r v k s) :=
  c.request v k _ s h

theorem keep_startClip (c : VoiceClosed P) (r : RenderRec) (v : VoiceNo) (x : Clip) (s : State) (h : P s) :
    P (startClip r v x s) := by
  unfold startClip
  dsimp only
  split
  · exact keep_enterPlaying c v _ _ (keep_requestFor c r v _ _ (keep_setVoice c v _ s h))
  · exact keep_requestFor c r v _ _ (keep_setVoice c v _ s h)

theorem keep_countItem (c : VoiceClosed P) (v : VoiceNo) (s : State) (h : P s) : P (countItem v s) := by
  unfold countItem
  split
  · exact h
  · split
    · exact keep_setRendering c _ s h
    · exact h

theorem keep_startRound (c : VoiceClosed P) (v : VoiceNo) (n : Nat) (s : State) (h : P s) : P (startRound v n s) := by
  unfold startRound
  split
  · exact h
  · exact keep_setVoice c v _ _ (keep_setRendering c _ s h)

theorem keep_enterEnding (c : VoiceClosed P) (v : VoiceNo) (s : State) (h : P s) : P (enterEnding v s) :=
  c.ceaseWait v _ (keep_setVoice c v _ s h)

theorem keep_idleVoice (c : VoiceClosed P) (v : VoiceNo) (s : State) (h : P s) : P (idleVoice v s) :=
  c.ceaseWait v _ (keep_setVoice c v _ s h)

theorem keep_afterItem (c : VoiceClosed P) (b : Bool) (v : VoiceNo) (s : State) (h : P s) : P (afterItem b v s).1 := by
  have hf : P (if b then enterEnding v s else idleVoice v s) := by
    split
    · exact keep_enterEnding c v s h
    · exact keep_idleVoice c v s h
  unfold afterItem
  split
  · exact h
  · dsimp only
    split
    · exact hf
    · split
      · exact keep_setVoice c v _ s h
      · split
        · split
          · exact keep_startRound c v _ s h
          · exact keep_setVoice c v _ s h
        · exact hf

theorem keep_startItem (c : VoiceClosed P) : ∀ (n : Nat) (v : VoiceNo) (s : State), P s → P (startItem n v s)
  | 0, _, _, h => h
  | n + 1, v, s, h => by
    unfold startItem
    split
    · exact h
    · dsimp only
      split
      · exact keep_startClip c _ v _ s h
      · have ha := keep_afterItem c false v _ (keep_countItem c v s h)
        split
        · exact keep_startItem c n v _ ha
        · exact ha

theorem keep_startFrom (c : VoiceClosed P) (v : VoiceNo) (s : State) (h : P s) : P (startFrom v s) :=
  keep_startItem c _ v s h

theorem keep_finishItem (c : VoiceClosed P) (b : Bool) (v : VoiceNo) (s : State) (h : P s) : P (finishItem b v s) := by
  have ha := keep_afterItem c b v _ (keep_countItem c v s h)
  unfold finishItem
  dsimp only
  split
  · exact keep_startFrom c v _ ha
  · exact ha

theorem keep_reportIfDone (c : VoiceClosed P) (s : State) (h : P s) : P (reportIfDone s) := by
  unfold reportIfDone
  split
  · exact h
  · split
    · exact h
    · exact c.report _ s h

theorem keep_prunePrev (c : VoiceClosed P) (s : State) (h : P s) : P (prunePrev s) := by
  unfold prunePrev
  split
  · exact h
  · split
    · exact h
    · exact c.vpl _ s h

theorem keep_takeVoice (c : VoiceClosed P) (id n : Nat) (p : VoiceNo × Role) (s : State) (h : P s) :
    P (takeVoice id n s p) := by
  unfold takeVoice
  dsimp only
  split
  · split <;> exact keep_setVoice c _ _ s h
  · split <;> exact keep_setVoice c _ _ s h

theorem keep_dropClaims (c : VoiceClosed P) (s : State) (h : P s) : P (dropClaims s) := c.vpl _ s h

theorem keep_startTalk (c : VoiceClosed P) (a : Announcement) (s : State) (h : P s) : P (startTalk a s) :=
  keep_setRendering c _ _ (keep_dropClaims c s h)

theorem keep_startVoices (c : VoiceClosed P) (a : Announcement) (items : List Item) (b : Bool) (s : State) (h : P s) :
    P (startVoices a items b s) := by
  unfold startVoices
  dsimp only
  refine c.arbiter _ (keep_reportIfDone c _ (keep_foldl (fun p s hs => keep_startFrom c _ s hs) _ _ ?_))
  exact keep_setRendering c _ _ (keep_foldl (fun p s hs => keep_takeVoice c _ _ p s hs) _ _ (keep_dropClaims c s h))

theorem keep_stopVoices (c : VoiceClosed P) (s : State) (h : P s) : P (stopVoices s) := by
  unfold stopVoices
  split
  · exact h
  · dsimp only
    refine c.arbiter _ (keep_prunePrev c _ (c.vpl _ _ (keep_dropClaims c _ ?_)))
    exact keep_foldl (fun v s hs => keep_enterEnding c v s hs) _ _ h

theorem keep_softCutVoice (c : VoiceClosed P) (id : Nat) (v : VoiceNo) (s : State) (h : P s) :
    P (softCutVoice id s v) := by
  unfold softCutVoice
  dsimp only
  split
  · exact keep_idleVoice c v s h
  · split
    · split
      · exact keep_setVoice c v _ s h
      · exact h
    · exact h

theorem keep_softCutVoices (c : VoiceClosed P) (s : State) (h : P s) : P (softCutVoices s) := by
  unfold softCutVoices
  split
  · exact h
  · exact keep_reportIfDone c _ (keep_foldl (fun v s hs => keep_softCutVoice c _ v s hs) _ _ (keep_setRendering c _ s h))

theorem keep_gapExpires (c : VoiceClosed P) (v : VoiceNo) (s : State) (h : P s) : P (gapExpires v s) := by
  unfold gapExpires
  dsimp only
  split
  · exact c.arbiter _ (keep_reportIfDone c _ (keep_startFrom c v _ (keep_startRound c v _ s h)))
  · exact h

theorem keep_clipStalls (c : VoiceClosed P) (hn : ∀ n s, P s → P (pushNotice n s)) (v : VoiceNo) (s : State) (h : P s) :
    P (clipStalls v s) := by
  unfold clipStalls
  dsimp only
  split
  · exact c.arbiter _ (keep_reportIfDone c _ (keep_finishItem c _ v _
      (c.ceaseWait v _ (keep_setVoice c v _ _ (hn _ s h)))))
  · exact h

theorem keep_fadeEnds (c : VoiceClosed P) (v : VoiceNo) (s : State) (h : P s) : P (fadeEnds v s) := by
  unfold fadeEnds
  dsimp only
  split
  · refine c.arbiter _ (keep_reportIfDone c _ (keep_prunePrev c _ ?_))
    split
    · exact keep_setVoice c v _ s h
    · exact keep_startFrom c v _ (keep_setVoice c v _ s h)
  · exact h

theorem keep_tickVoices (c : VoiceClosed P) (s : State) (h : P s) : P (tickVoices s) := c.vpl _ s h

theorem keep_markPlayed (c : VoiceClosed P) (s : State) (h : P s) : P (markPlayed s) := by
  unfold markPlayed
  split
  · exact h
  · exact keep_setRendering c _ s h

theorem keep_giveSample (c : VoiceClosed P) (v : VoiceNo) (k : Nat) (s : State) (h : P s) : P (giveSample v k s).1 :=
  keep_setVoice c v _ s h

theorem keep_playPeriod (c : VoiceClosed P) (v : VoiceNo) (s : State) (h : P s) : P (playPeriod v s).1 := by
  unfold playPeriod
  dsimp only
  split
  · exact h
  · split
    · exact keep_giveSample c v _ s h
    · split
      · exact keep_giveSample c v _ _ (c.touch _ _ (keep_setVoice c v _ s h))
      · exact keep_setVoice c v _ s h

theorem keep_fadePeriod (c : VoiceClosed P) (v : VoiceNo) (s : State) (h : P s) : P (fadePeriod v s).1 := by
  unfold fadePeriod
  dsimp only
  split <;> exact keep_setVoice c v _ s h

theorem keep_voicePeriod (c : VoiceClosed P) (v : VoiceNo) (s : State) (h : P s) : P (voicePeriod v s).1 := by
  unfold voicePeriod
  split
  · exact h
  · exact h
  · exact h
  · exact h
  · exact keep_playPeriod c v s h
  · exact keep_fadePeriod c v s h

theorem keep_voicePeriods (c : VoiceClosed P) : ∀ (l : List VoiceNo) (s : State), P s → P (voicePeriods l s).1
  | [], _, h => h
  | v :: vs, s, h => keep_voicePeriods c vs _ (keep_voicePeriod c v s h)

theorem keep_playVoices (c : VoiceClosed P) (s : State) (h : P s) : P (playVoices s).1 := by
  unfold playVoices
  dsimp only
  exact c.arbiter _ (keep_voicePeriods c allVoices s h)

theorem keep_playedOut (c : VoiceClosed P) (v : VoiceNo) (s : State) (h : P s) : P (playedOut v s) :=
  keep_finishItem c _ v _ (c.ceaseWait v _ (keep_setVoice c v _ _ (keep_markPlayed c s h)))

theorem keep_askAhead (c : VoiceClosed P) (r : RenderRec) (v : VoiceNo) (k : Nat) (s : State) (h : P s) :
    P (askAhead r v k s) :=
  keep_requestFor c r v k _ (keep_setVoice c v _ s h)

theorem keep_takeSample (c : VoiceClosed P) (v : VoiceNo) (s : State) (h : P s) : P (takeSample v s) := by
  unfold takeSample
  dsimp only
  split
  · split
    · exact h
    · split
      · exact keep_playedOut c v s h
      · split
        · exact keep_askAhead c _ v _ s h
        · exact h
  · exact h

theorem keep_followSample (c : VoiceClosed P) (v : VoiceNo) (s : State) (h : P s) : P (followSample v s) :=
  c.arbiter _ (keep_reportIfDone c _ (keep_prunePrev c _ (keep_takeSample c v s h)))

theorem keep_tellValid (c : VoiceClosed P) (k : Nat) (v : VoiceNo) (s : State) (h : P s) : P (tellValid k s v) := by
  unfold tellValid
  dsimp only
  split
  · exact keep_enterPlaying c v k s h
  · exact h

theorem keep_sectorInvalid (c : VoiceClosed P) (k : Nat) (v : VoiceNo) (s : State) (h : P s) :
    P (sectorInvalid k s v) := by
  unfold sectorInvalid
  dsimp only
  split
  · split
    · exact keep_setVoice c v _ s h
    · exact h
  · split
    · split
      · exact keep_requestFor c _ v k _ (keep_setVoice c v _ s h)
      · exact keep_requestFor c _ v k s h
      · exact keep_requestFor c _ v k s h
      · exact keep_setVoice c v _ s h
      · exact h
    · split
      · exact keep_requestFor c _ v k s h
      · exact h

/-! ## Announcements -/

theorem keep_issue (c : AsqClosed P) (id : Nat) (s : State) (h : P s) : P (issue id s) := c.asq _ s h

theorem keep_endNotice (c : AsqClosed P) (a : Announcement) (o : AnnOutcome) (s : State) (h : P s) :
    P (endNotice a o s) :=
  c.notice _ s h

theorem keep_duckChange (c : AsqClosed P) (x : Option Summary) (s : State) (h : P s) : P (duckChange x s) := c.zou _ s h

theorem keep_startRendering (c : AsqClosed P) (a : Announcement) (b : Bool) (s : State) (h : P s) :
    P (startRendering a b s) := by
  unfold startRendering
  split
  · exact keep_startTalk c.toVoiceClosed a s h
  · exact keep_startVoices c.toVoiceClosed a _ b s h

theorem keep_makeCurrent (c : AsqClosed P) (a : Announcement) (b : Bool) (s : State) (h : P s) :
    P (makeCurrent a b s) :=
  keep_lampAnnounceStart c.toLampClosed a _ (keep_startRendering c a b _ (keep_duckChange c _ _ (c.asq _ s h)))

theorem keep_enterQueue (c : AsqClosed P) (x : Announcement) (o : AnnOutcome) (s : State) (h : P s) :
    P (enterQueue x o s).1 := by
  unfold enterQueue
  split
  · exact keep_endNotice c x o s h
  · dsimp only
    split
    · exact c.asq _ s h
    · exact keep_endNotice c _ _ _ (c.asq _ s h)

theorem keep_leaveCurrent (c : AsqClosed P) (x : Announcement) (s : State) (h : P s) : P (leaveCurrent x s) := by
  unfold leaveCurrent
  dsimp only
  split
  · exact keep_endNotice c _ _ _ (c.asq _ s h)
  · split
    · exact keep_enterQueue c _ _ _ (c.asq _ s h)
    · exact c.asq _ _ (c.asq _ s h)

theorem keep_preempt (c : AsqClosed P) (x y : Announcement) (s : State) (h : P s) : P (preempt x y s) :=
  keep_makeCurrent c y false _ (keep_lampAnnounceEnd c.toLampClosed x _
    (keep_stopVoices c.toVoiceClosed _ (keep_leaveCurrent c x s h)))

theorem keep_place (c : AsqClosed P) (x : Announcement) (s : State) (h : P s) : P (place x s).1 := by
  unfold place
  split
  · split
    · exact keep_endNotice c _ _ s h
    · dsimp only
      exact keep_makeCurrent c x false s h
  · split
    · split
      · exact keep_endNotice c _ _ s h
      · dsimp only
        exact keep_preempt c _ x s h
    · exact keep_enterQueue c x _ s h

theorem keep_placeNew (c : AsqClosed P) (x : Announcement) (s : State) (h : P s) : P (placeNew x s).1 :=
  keep_place c x _ (keep_issue c _ s h)

theorem keep_takeInternal (c : AsqClosed P) (x : Announcement) (s : State) (h : P s) : P (takeInternal x s) := by
  unfold takeInternal
  split
  · exact keep_endNotice c _ _ _ (keep_issue c _ s h)
  · exact keep_placeNew c x s h

theorem keep_requestChime (c : AsqClosed P) (s : State) (h : P s) : P (requestChime s) := by
  unfold requestChime
  split
  · exact h
  · split
    · exact h
    · exact keep_takeInternal c _ s h

theorem keep_requestAlarm (c : AsqClosed P) (s : State) (h : P s) : P (requestAlarm s) := by
  unfold requestAlarm
  split
  · exact h
  · split
    · exact h
    · exact keep_takeInternal c _ s h

theorem keep_select (c : AsqClosed P) : ∀ (n : Nat) (s : State), P s → P (select n s)
  | 0, _, h => h
  | n + 1, s, h => by
    unfold select
    split
    · exact h
    · dsimp only
      split
      · exact keep_select c n _ (keep_endNotice c _ _ _ (c.asq _ s h))
      · exact keep_makeCurrent c _ _ _ (c.asq _ s h)

theorem keep_endCurrent (c : AsqClosed P) (x : Announcement) (o : AnnOutcome) (s : State) (h : P s) :
    P (endCurrent x o s) :=
  keep_select c _ _ (keep_lampAnnounceEnd c.toLampClosed x _ (keep_stopVoices c.toVoiceClosed _
    (keep_duckChange c none _ (keep_endNotice c x o _ (c.asq _ s h)))))

theorem keep_takeReport (c : AsqClosed P) (s : State) (h : P s) : P (takeReport s) := by
  unfold takeReport
  split
  · exact h
  · split
    · exact c.asq _ s h
    · split
      · exact keep_endCurrent c _ _ s h
      · exact c.asq _ s h

theorem keep_cut (c : AsqClosed P) (id : Nat) (b : Bool) (s : State) (h : P s) : P (cut id b s).1 := by
  unfold cut
  split
  · exact keep_endNotice c _ _ _ (c.asq _ s h)
  · exact keep_endNotice c _ _ _ (c.asq _ s h)
  · exact h
  · split
    · exact h
    · split
      · dsimp only
        exact keep_endCurrent c _ _ s h
      · split
        · exact h
        · exact keep_softCutVoices c.toVoiceClosed _ (c.asq _ s h)

theorem keep_setHang (c : AsqClosed P) (f : Hang → Hang) (s : State) (h : P s) : P (setHang f s) := c.asq _ s h

theorem keep_talkRise (c : AsqClosed P) (s : State) (h : P s) : P (talkRise s) := by
  unfold talkRise
  split
  · exact keep_setHang c _ s h
  · exact keep_placeNew c _ s h

theorem keep_tickHang (c : AsqClosed P) (s : State) (h : P s) : P (tickHang s) := keep_setHang c _ s h

theorem keep_hangExpires (c : AsqClosed P) (s : State) (h : P s) : P (hangExpires s) := by
  unfold hangExpires
  split
  · split
    · exact keep_endCurrent c _ _ s h
    · split
      · exact h
      · exact keep_endNotice c _ _ _ (c.asq _ s h)
  · split
    · exact h
    · exact keep_endNotice c _ _ _ (c.asq _ s h)

theorem keep_talkFall (c : AsqClosed P) (s : State) (h : P s) : P (talkFall s) :=
  keep_hangExpires c _ (keep_setHang c _ s h)

theorem keep_deckResetAsq (c : AsqClosed P) (s : State) (h : P s) : P (deckResetAsq s) :=
  keep_duckChange c _ _ (c.asq _ s h)

/-! ## Seats -/

theorem keep_setSeat (c : DeckClosed P) (i : SeatNo) (x : Seat) (s : State) (h : P s) : P (setSeat i x s) := c.scc _ s h

theorem keep_plugIn (c : DeckClosed P) (i : SeatNo) (s : State) (h : P s) : P (plugIn i s) := c.hmx _ _ (c.scc _ s h)

theorem keep_unplug (c : DeckClosed P) (i : SeatNo) (s : State) (h : P s) : P (unplug i s) := c.scc _ s h

theorem keep_senseJack (c : DeckClosed P) (i : SeatNo) (a b : Bool) (s : State) (h : P s) : P (senseJack i a b s) := by
  unfold senseJack
  split
  · split
    · exact keep_plugIn c i s h
    · split
      · exact keep_unplug c i s h
      · exact h
  · exact h

theorem keep_pressSeat (c : DeckClosed P) (i : SeatNo) (l u d : Nat) (s : State) (h : P s) : P (pressSeat i l u d s) := by
  unfold pressSeat
  dsimp only
  split
  · exact c.scc _ s h
  · exact h

theorem keep_stopPress (c : DeckClosed P) (i : SeatNo) (s : State) (h : P s) : P (stopPress i s) := by
  unfold stopPress
  dsimp only
  split
  · exact h
  · split
    · exact c.scc _ s h
    · exact keep_lampStopRequest c.toLampClosed _ (keep_requestChime c.toAsqClosed _ (c.notice _ _
        (c.scc _ _ (c.scc _ s h))))

theorem keep_clearLatch (c : DeckClosed P) (s : State) (h : P s) : P (clearLatch s) := by
  unfold clearLatch
  split
  · exact h
  · exact keep_lampStopEnd c.toLampClosed _ (c.scc _ s h)

theorem keep_pressJack (c : DeckClosed P) (i : SeatNo) (w : Word16) (lo : Nat) (s : State) (h : P s) :
    P (pressJack i w lo s) := by
  unfold pressJack
  dsimp only
  split
  · exact keep_stopPress c i _ (keep_pressSeat c i _ _ _ s h)
  · exact keep_pressSeat c i _ _ _ s h

theorem keep_takeGood (c : DeckClosed P) (b : BoxNo) (r : Vector Word16 3) (s : State) (h : P s) : P (takeGood b r s) := by
  unfold takeGood
  dsimp only
  refine keep_pressJack c _ _ _ _ (keep_pressJack c _ _ _ _ (keep_senseJack c _ _ _ _ (keep_senseJack c _ _ _ _ ?_)))
  split
  · exact c.scc _ s h
  · exact c.notice _ _ (c.scc _ s h)

theorem keep_takeMiss (c : DeckClosed P) (b : BoxNo) (s : State) (h : P s) : P (takeMiss b s) := by
  unfold takeMiss
  dsimp only
  split
  · exact h
  · split
    · exact c.scc _ s h
    · exact keep_unplug c _ _ (keep_unplug c _ _ (c.notice _ _ (c.scc _ s h)))

theorem keep_takeReply (c : DeckClosed P) (r : Option (Vector Word16 3)) (s : State) (h : P s) : P (takeReply r s) := by
  unfold takeReply
  split
  · exact h
  · dsimp only
    split
    · split
      · exact keep_takeGood c _ _ _ (c.scc _ s h)
      · exact keep_takeMiss c _ _ (c.scc _ s h)
    · exact keep_takeMiss c _ _ (c.scc _ s h)

/-! ## The route -/

theorem keep_setRce (c : DeckClosed P) (r : Rce) (s : State) (h : P s) : P (setRce r s) := c.rce _ s h

theorem keep_markCue (c : DeckClosed P) (i : Nat) (x : CueState) (s : State) (h : P s) : P (markCue i x s) := by
  unfold markCue
  split
  · exact h
  · exact c.rce _ s h

theorem keep_setQuiet (c : AsqClosed P) (m : ZoneMask) (b : Bool) (s : State) (h : P s) : P (setQuiet m b s) :=
  c.zou _ s h

theorem keep_hand (c : DeckClosed P) (d : Delivery) (s : State) (h : P s) : P (hand d s) := c.rce _ s h

theorem keep_takeDelivery (c : DeckClosed P) (d : Delivery) (s : State) (h : P s) : P (takeDelivery d s) := by
  unfold takeDelivery
  split
  · exact keep_takeInternal c.toAsqClosed _ s h
  · exact keep_applyScene c.toLampClosed _ s h
  · exact keep_setQuiet c.toAsqClosed _ _ s h
  · exact keep_setQuiet c.toAsqClosed _ _ s h
  · exact keep_clearLatch c s h
  · exact h

theorem keep_takeNext (c : DeckClosed P) (o : CueOwner) (s : State) (h : P s) : P (takeNext o s) := by
  unfold takeNext
  split
  · exact h
  · exact keep_takeDelivery c _ _ (c.rce _ s h)

theorem keep_takeDue (c : DeckClosed P) (waits : CueOwner → Bool) (s : State) (h : P s) : P (takeDue waits s) :=
  keep_foldl (fun d t ht => keep_takeDelivery c d t ht) _ _ (c.rce _ s h)

theorem keep_settle (c : DeckClosed P) (s : State) (h : P s) : P (settle s) := keep_takeDue c _ s h

theorem keep_moveRoute (c : DeckClosed P) (x : RouteState) (s : State) (h : P s) : P (moveRoute x s) :=
  c.notice _ _ (c.rce _ s h)

theorem keep_deliver (c : DeckClosed P) (i : Nat) (x : Cue) (m : ZoneMask) (s : State) (h : P s) :
    P (deliver i x m s) := by
  unfold deliver
  split
  · exact keep_hand c _ s h
  · exact keep_hand c _ s h
  · exact keep_hand c _ s h
  · exact keep_hand c _ s h
  · exact keep_hand c _ s h
  · exact c.notice _ s h

theorem keep_endStep (c : DeckClosed P) (n : Nat) (s : State) (h : P s) : P (endStep n s) := by
  unfold endStep
  dsimp only
  split
  · exact keep_moveRoute c _ _ (c.rce _ s h)
  · exact c.rce _ s h

theorem keep_handleDue (c : DeckClosed P) (n : Nat) : ∀ (k : Nat) (s : State), P s → P (handleDue n k s)
  | 0, _, h => h
  | k + 1, s, h => by
    unfold handleDue
    split
    · exact h
    · split
      · exact h
      · split
        · exact h
        · dsimp only
          exact keep_handleDue c n k _ (c.rce _ _
            (keep_ite (keep_markCue c _ _ s h) (keep_deliver c _ _ _ _ (keep_markCue c _ _ s h))))

theorem keep_normalStep (c : DeckClosed P) (n : Nat) (s : State) (h : P s) : P (normalStep n s) :=
  keep_endStep c n _ (keep_handleDue c n _ s h)

theorem keep_markRelocated (c : DeckClosed P) (o n : Nat) : ∀ (l : List (Nat × Cue)) (s : State), P s →
    P (markRelocated o n l s)
  | [], _, h => h
  | (_, _) :: later, s, h => keep_markRelocated c o n later _ (keep_markCue c _ _ s h)

theorem keep_deliverRelocated (c : DeckClosed P) (o n : Nat) : ∀ (l : List (Nat × Cue)) (s : State), P s →
    P (deliverRelocated o n l s)
  | [], _, h => h
  | (_, _) :: later, s, h => by
    unfold deliverRelocated
    refine keep_deliverRelocated c o n later _ ?_
    split
    · exact keep_deliver c _ _ _ s h
    · exact h

theorem keep_relocate (c : DeckClosed P) (n : Nat) (s : State) (h : P s) : P (relocate n s) :=
  keep_endStep c n _ (c.notice _ _ (keep_deliverRelocated c _ n _ _ (c.rce _ _ (keep_markRelocated c _ n _ s h))))

theorem keep_backwardStep (c : DeckClosed P) (n : Nat) (s : State) (h : P s) : P (backwardStep n s) := by
  unfold backwardStep
  dsimp only
  refine c.rce _ _ ?_
  split
  · exact c.notice _ s h
  · exact h

theorem keep_odometerStep (c : DeckClosed P) (n : Nat) (s : State) (h : P s) : P (odometerStep n s) := by
  unfold odometerStep
  split
  · exact keep_backwardStep c n s h
  · split
    · exact keep_normalStep c n s h
    · exact keep_relocate c n s h

theorem keep_tryStart (c : DeckClosed P) (s : State) (h : P s) : P (tryStart s) := by
  unfold tryStart
  split
  · exact keep_odometerStep c _ _ (keep_moveRoute c _ s h)
  · exact h

theorem keep_routeChange (c : DeckClosed P) (s : State) (h : P s) : P (routeChange s) := by
  unfold routeChange
  split
  · exact h
  · exact keep_tryStart c s h
  · split
    · split
      · exact h
      · exact keep_odometerStep c _ s h
    · exact keep_moveRoute c _ s h
  · split
    · dsimp only
      split
      · exact keep_moveRoute c _ s h
      · exact keep_odometerStep c _ _ (keep_moveRoute c _ s h)
    · exact h
  · split
    · exact c.rce _ s h
    · exact h

theorem keep_allPending (c : DeckClosed P) (s : State) (h : P s) : P (allPending s) := c.rce _ s h

theorem keep_armRoute (c : DeckClosed P) (n t : Nat) (s : State) (h : P s) : P (armRoute n t s).1 := by
  unfold armRoute
  split
  · exact h
  · split
    · exact h
    · split
      · exact h
      · exact keep_tryStart c _ (keep_moveRoute c _ _ (c.rce _ _ (keep_allPending c s h)))

theorem keep_disarmRoute (c : DeckClosed P) (s : State) (h : P s) : P (disarmRoute s) := by
  unfold disarmRoute
  split
  · exact h
  · exact keep_moveRoute c _ s h

theorem keep_deckResetRce (c : DeckClosed P) (s : State) (h : P s) : P (deckResetRce s) := by
  unfold deckResetRce
  dsimp only
  split
  · exact c.rce _ _ (keep_allPending c s h)
  · exact c.notice _ _ (c.rce _ _ (keep_allPending c s h))

end Sys2Proof.Laws
end

