-- ==== Sys2Proof/Laws/Memory.lean ====
section
/-! SUPPORT. Clip memory: a read after a write, the canonical form kept by every operation, and what each operation leaves
at every address. -/

namespace Sys2Proof.Laws

open Sys2Proof Sys2Proof.Machine

/-! ## The canonical form -/

theorem above_mono : ∀ {m : Memory} {a b : Nat}, Memory.above m a = true → b ≤ a → Memory.above m b = true
  | [], _, _, _, _ => rfl
  | (k, v) :: rest, a, b, h, hb => by
    simp only [Memory.above, Bool.and_eq_true, decide_eq_true_eq] at h ⊢
    exact ⟨⟨by omega, h.1.2⟩, h.2⟩

/-- An address below every listed one reads blank. -/
theorem read_below : ∀ {m : Memory} {a lo : Nat}, Memory.above m lo = true → a < lo → Memory.read m a = Config.blankByte
  | [], _, _, _, _ => rfl
  | (k, v) :: rest, a, lo, h, ha => by
    simp only [Memory.above, Bool.and_eq_true, decide_eq_true_eq] at h
    simp only [Memory.read]
    rw [if_neg (by omega)]
    exact read_below h.2 (by omega)

theorem write_above : ∀ {m : Memory} {a lo : Nat} {v : Byte}, Memory.above m lo = true → lo ≤ a →
    Memory.above (Memory.write m a v) lo = true
  | [], a, lo, v, _, ha => by
    simp only [Memory.write]
    split
    · rfl
    · next h => simp [Memory.above, ha, h]
  | (k, w) :: rest, a, lo, v, h, ha => by
    simp only [Memory.above, Bool.and_eq_true, decide_eq_true_eq] at h
    simp only [Memory.write]
    split
    · next hk =>
      split
      · simp only [Memory.above, Bool.and_eq_true, decide_eq_true_eq]
        exact h
      · next hv =>
        simp only [Memory.above, Bool.and_eq_true, decide_eq_true_eq, bne_iff_ne]
        exact ⟨⟨ha, hv⟩, ⟨by omega, bne_iff_ne.mp h.1.2⟩, h.2⟩
    · next hk =>
      split
      · next hak =>
        split
        · exact above_mono h.2 (by omega)
        · next hv =>
          simp only [Memory.above, Bool.and_eq_true, decide_eq_true_eq, bne_iff_ne]
          exact ⟨⟨h.1.1, hv⟩, h.2⟩
      · next hak =>
        simp only [Memory.above, Bool.and_eq_true, decide_eq_true_eq]
        exact ⟨h.1, write_above h.2 (by omega)⟩

/-- A write keeps the canonical form. -/
theorem write_wf {m : Memory} {a : Nat} {v : Byte} (h : m.wf = true) : (Memory.write m a v).wf = true :=
  write_above h (Nat.zero_le a)

/-- A read after a write: the byte written at its address, every other byte as before. -/
theorem read_write : ∀ {m : Memory} {lo : Nat}, Memory.above m lo = true → ∀ (a b : Nat) (v : Byte),
    Memory.read (Memory.write m a v) b = if b = a then v else Memory.read m b
  | [], lo, _, a, b, v => by
    simp only [Memory.write]
    split
    · next h => split <;> simp_all [Memory.read]
    · by_cases hb : b = a
      · subst hb
        simp [Memory.read]
      · simp only [Memory.read]
        rw [if_neg hb, if_neg fun e => hb e.symm]
  | (k, w) :: rest, lo, h, a, b, v => by
    simp only [Memory.above, Bool.and_eq_true, decide_eq_true_eq] at h
    simp only [Memory.write]
    split
    · next hk =>
      split
      · next hv =>
        split
        · next hb =>
          subst hb
          simp only [Memory.read]
          rw [if_neg (by omega), read_below h.2 (by omega)]
          exact hv.symm
        · rfl
      · next hv =>
        by_cases hb : b = a
        · subst hb
          simp [Memory.read]
        · rw [if_neg hb]
          simp only [Memory.read]
          rw [if_neg (by omega)]
    · next hk =>
      split
      · next hak =>
        subst hak
        split
        · next hv =>
          by_cases hb : b = a
          · subst hb
            rw [if_pos rfl, read_below h.2 (by omega)]
            exact hv.symm
          · rw [if_neg hb]
            simp only [Memory.read]
            rw [if_neg (by omega)]
        · by_cases hb : b = a
          · subst hb
            simp [Memory.read]
          · rw [if_neg hb]
            simp only [Memory.read]
            rw [if_neg (by omega), if_neg (by omega)]
      · next hak =>
        simp only [Memory.read]
        by_cases hb : k = b
        · subst hb
          rw [if_pos rfl, if_neg (by omega)]
          simp
        · rw [if_neg hb, read_write h.2, if_neg hb]

theorem read_write_wf {m : Memory} (h : m.wf = true) (a b : Nat) (v : Byte) :
    Memory.read (Memory.write m a v) b = if b = a then v else Memory.read m b :=
  read_write h a b v

/-! ## Erase -/

theorem filter_above (p : Host.Cell → Bool) : ∀ {m : Memory} {lo : Nat}, Memory.above m lo = true →
    Memory.above (m.filter p) lo = true
  | [], _, _ => rfl
  | (k, v) :: rest, lo, h => by
    simp only [Memory.above, Bool.and_eq_true, decide_eq_true_eq] at h
    simp only [List.filter_cons]
    split
    · simp only [Memory.above, Bool.and_eq_true, decide_eq_true_eq]
      exact ⟨h.1, filter_above p h.2⟩
    · exact above_mono (filter_above p h.2) (by omega)

/-- An erase keeps the canonical form. -/
theorem clear_wf {m : Memory} {lo hi : Nat} (h : m.wf = true) : (Memory.clear m lo hi).wf = true := filter_above _ h

theorem read_filter (p : Host.Cell → Bool) (a : Nat) : ∀ {m : Memory}, (∀ v, (a, v) ∈ m → p (a, v) = true) →
    Memory.read (m.filter p) a = Memory.read m a
  | [], _ => rfl
  | (k, v) :: rest, h => by
    by_cases hk : k = a
    · subst hk
      simp [Memory.read, h v (by simp)]
    · have ih := read_filter p a (m := rest) fun w hw => h w (by simp [hw])
      simp only [List.filter_cons, Memory.read]
      rw [if_neg hk]
      split
      · simp only [Memory.read]
        rw [if_neg hk, ih]
      · exact ih

theorem read_filter_none (p : Host.Cell → Bool) (a : Nat) (h : ∀ v, p (a, v) = false) : ∀ (m : Memory),
    Memory.read (m.filter p) a = Config.blankByte
  | [] => rfl
  | (k, v) :: rest => by
    simp only [List.filter_cons]
    split
    · next hp =>
      simp only [Memory.read]
      rw [if_neg (by rintro rfl; simp [h v] at hp), read_filter_none p a h rest]
    · exact read_filter_none p a h rest

/-- After an erase every byte of the range is blank and every other as before (R145). -/
theorem read_clear (m : Memory) (lo hi a : Nat) :
    Memory.read (Memory.clear m lo hi) a = if lo ≤ a ∧ a < hi then Config.blankByte else Memory.read m a := by
  unfold Memory.clear
  split
  · next h => exact read_filter_none _ a (by intro v; simp; omega) m
  · next h => exact read_filter _ a (by intro v _; simp; omega)

/-! ## Program -/

/-- A program keeps the canonical form. -/
theorem program_wf : ∀ {bs : List Byte} {m : Memory} {a : Nat}, m.wf = true → (Memory.program m a bs).wf = true
  | [], _, _, h => h
  | _ :: _, _, _, h => by
    simp only [Memory.program]
    exact program_wf (write_wf h)

/-- After a program each byte of the range is the AND of the old byte and the new, every other as before (R145). -/
theorem read_program : ∀ (bs : List Byte) {m : Memory} (_ : m.wf = true) (a b : Nat),
    Memory.read (Memory.program m a bs) b =
      if h : a ≤ b ∧ b < a + bs.length then Memory.read m b &&& bs[b - a] else Memory.read m b
  | [], m, _, a, b => by
    simp only [Memory.program, List.length_nil]
    rw [dif_neg (by omega)]
  | x :: bs, m, hm, a, b => by
    simp only [Memory.program]
    rw [read_program bs (write_wf hm) (a + 1) b]
    by_cases h1 : b = a
    · subst h1
      rw [dif_neg (by omega), dif_pos (by simp), read_write_wf hm, if_pos rfl]
      simp
    · by_cases h2 : a + 1 ≤ b ∧ b < a + 1 + bs.length
      · rw [dif_pos h2, dif_pos (by simp; omega), read_write_wf hm, if_neg h1]
        have e : b - a = (b - (a + 1)) + 1 := by omega
        simp [e]
      · rw [dif_neg h2, dif_neg (by simp; omega), read_write_wf hm, if_neg h1]

/-! ## Free values -/

theorem free_wf (d base : Nat) : ∀ {n : Nat} {m : Memory} {a : Nat}, m.wf = true → (Memory.free d base m a n).wf = true
  | 0, _, _, h => h
  | _ + 1, _, _, h => by
    simp only [Memory.free]
    exact free_wf d base (write_wf h)

/-- After a range of free values each byte of the range is the draw's, every other as before. -/
theorem read_free (d base : Nat) : ∀ (n : Nat) {m : Memory} (_ : m.wf = true) (a b : Nat),
    Memory.read (Memory.free d base m a n) b =
      if a ≤ b ∧ b < a + n then Config.freeByte d (base + b) else Memory.read m b
  | 0, m, _, a, b => by
    simp only [Memory.free]
    rw [if_neg (by omega)]
  | n + 1, m, hm, a, b => by
    simp only [Memory.free]
    rw [read_free d base n (write_wf hm) (a + 1) b]
    by_cases h1 : b = a
    · subst h1
      rw [if_neg (by omega), if_pos (by omega), read_write_wf hm, if_pos rfl]
    · by_cases h2 : a + 1 ≤ b ∧ b < a + 1 + n
      · rw [if_pos h2, if_pos (by omega)]
      · rw [if_neg h2, if_neg (by omega), read_write_wf hm, if_neg h1]

/-! ## The sector copy -/

theorem shift_above {m : Memory} {lo k : Nat} (h : Memory.above m lo = true) (hl : k ≤ lo) :
    Memory.above (m.map fun c => (c.1 - k, c.2)) (lo - k) = true := by
  induction m generalizing lo with
  | nil => rfl
  | cons c rest ih =>
    simp only [Memory.above, Bool.and_eq_true, decide_eq_true_eq, List.map_cons] at h ⊢
    refine ⟨⟨by omega, h.1.2⟩, ?_⟩
    have e : c.1 - k + 1 = c.1 + 1 - k := by omega
    rw [e]
    exact ih h.2 (by omega)

theorem filter_above_from (p : Host.Cell → Bool) {n : Nat} (hp : ∀ c, p c = true → n ≤ c.1) :
    ∀ {m : Memory} {lo : Nat}, Memory.above m lo = true → Memory.above (m.filter p) n = true
  | [], _, _ => rfl
  | (k, v) :: rest, lo, h => by
    simp only [Memory.above, Bool.and_eq_true, decide_eq_true_eq] at h
    simp only [List.filter_cons]
    split
    · next hk =>
      simp only [Memory.above, Bool.and_eq_true, decide_eq_true_eq]
      exact ⟨⟨hp _ hk, h.1.2⟩, filter_above p h.2⟩
    · exact filter_above_from p hp h.2

/-- The copy of a sector is in canonical form. -/
theorem sector_wf {m : Memory} (k : Nat) (h : m.wf = true) : (Memory.sector m k).wf = true := by
  have hf := filter_above_from
    (fun c : Host.Cell => decide (Config.sectorBytes * k ≤ c.1) && decide (c.1 < Config.sectorBytes * (k + 1)))
    (n := Config.sectorBytes * k) (by intro c hc; simp at hc; exact hc.1) h
  have hs := shift_above hf (Nat.le_refl _)
  rw [Nat.sub_self] at hs
  exact hs

theorem read_shift (k : Nat) : ∀ (m : Memory) (j : Nat), (∀ c ∈ m, k ≤ c.1) →
    Memory.read (m.map fun c => (c.1 - k, c.2)) j = Memory.read m (k + j)
  | [], _, _ => rfl
  | (a, v) :: rest, j, h => by
    have ha := h (a, v) (by simp)
    simp only [List.map_cons, Memory.read]
    rw [read_shift k rest j fun c hc => h c (by simp [hc])]
    by_cases e : a = k + j
    · rw [if_pos e, if_pos (by omega)]
    · rw [if_neg e, if_neg (by omega)]

/-- The copy of a sector holds its 4,096 bytes (R145, R155). -/
theorem read_sector (m : Memory) (k j : Nat) (hj : j < 4096) :
    Memory.read (Memory.sector m k) j = Memory.read m (4096 * k + j) := by
  unfold Memory.sector Config.sectorBytes
  rw [read_shift (4096 * k) _ j (by intro c hc; simp at hc; exact hc.2.1)]
  exact read_filter _ _ (by intro v _; simp; omega)

/-! ## The device -/

theorem apply_wf {m : Memory} (op : MaintOp) (h : m.wf = true) : (Device.apply m op).wf = true := by
  cases op with
  | erase k => exact clear_wf h
  | program a bs => exact program_wf h
  | read a n => exact h

theorem lose_wf {m : Memory} (draw : Nat) (op : MaintOp) (h : m.wf = true) : (Device.lose draw m op).wf = true := by
  cases op with
  | erase k => exact free_wf draw 0 h
  | program a bs => exact free_wf draw 0 h
  | read a n => exact h

theorem finish_wf {d : Device} (h : d.bytes.wf = true) : d.finish.bytes.wf = true := by
  unfold Device.finish
  split
  · exact h
  · split
    · exact lose_wf _ _ h
    · exact apply_wf _ h

/-- A ready indication leaves the device running nothing and nothing given up, where nothing is given up while it runs
nothing. -/
theorem finish_idle {d : Device} (h : d.givenUp = true → d.busy ≠ none) :
    d.finish.busy = none ∧ d.finish.givenUp = false := by
  unfold Device.finish
  split
  · next hb => exact ⟨hb, by simpa [hb] using h⟩
  · split
    · exact ⟨rfl, rfl⟩
    · next hg => exact ⟨rfl, by simpa using hg⟩

/-- What sending an operation does to the device: a read nothing, any other makes it busy with that (R145). -/
@[simp] theorem start_read (d : Device) (a n : Nat) : d.start (.read a n) = d := rfl
@[simp] theorem start_erase (d : Device) (k : Nat) :
    d.start (.erase k) = { d with busy := some (.erase k), givenUp := false } := rfl
@[simp] theorem start_program (d : Device) (a : Nat) (bs : List Byte) :
    d.start (.program a bs) = { d with busy := some (.program a bs), givenUp := false } := rfl
@[simp] theorem start_bytes (d : Device) (op : MaintOp) : (d.start op).bytes = d.bytes := by cases op <;> rfl
@[simp] theorem start_draws (d : Device) (op : MaintOp) : (d.start op).draws = d.draws := by cases op <;> rfl
@[simp] theorem giveUp_bytes (d : Device) : d.giveUp.bytes = d.bytes := rfl
@[simp] theorem giveUp_busy (d : Device) : d.giveUp.busy = d.busy := rfl
@[simp] theorem giveUp_givenUp (d : Device) : d.giveUp.givenUp = d.busy.isSome := rfl
@[simp] theorem giveUp_draws (d : Device) : d.giveUp.draws = d.draws := rfl

/-- The clip memory after reset is in canonical form. -/
theorem reset_memory_wf : State.reset.dev.bytes.wf = true := rfl

end Sys2Proof.Laws
end

