-- ==== Sys2Proof/Laws/Cache.lean ====
section
/-! SUPPORT. The cache and its port: what the arbiter, a request, a preload and a lookup can do, each said once. -/

namespace Sys2Proof.Laws

open Sys2Proof Sys2Proof.Machine

/-! ## The arbiter (R154) -/

/-- The port is READY with no fetch in progress and no maintenance operation started (R154, R160). -/
theorem portState_ready {s : State} : portState s = .ready ↔
    s.cmp.fetch = none ∧ ∀ m, s.cmp.maint = some m → m.stage = .pending := by
  rcases hf : s.cmp.fetch with _ | f
  · rcases hm : s.cmp.maint with _ | ⟨op, stage, ticks⟩
    · simp [portState, hf, hm]
    · cases stage <;> cases op <;> simp [portState, hf, hm]
  · simp [portState, hf]

/-- What a fetch of the most urgent entry can do. -/
theorem fetchNext_cases (s : State) : fetchNext s = s ∨
    ∃ e i, nextEntry s.ccc.queue = some e ∧ victim s = some i ∧ fetchNext s = startFetch e.sector i s := by
  unfold fetchNext
  split
  · next e i he hi => exact .inr ⟨e, i, he, hi, rfl⟩
  · exact .inl rfl

/-- A fetch changes only CCC and CMP. -/
theorem fetchNext_frame (s : State) : { fetchNext s with ccc := s.ccc, cmp := s.cmp } = s := by
  rcases fetchNext_cases s with h | ⟨_, _, _, _, h⟩ <;> (rw [h]; try rfl)

theorem nextEntry_mem {q : List FetchEntry} {e : FetchEntry} (h : nextEntry q = some e) : e ∈ q :=
  List.mem_of_find?_eq_some h

/-- The status read at the start of a waiting operation (R160): over a busy memory it waits, over an idle one it is sent. -/
theorem start_cases {s : State} {m : Maint} (hm : s.cmp.maint = some m) :
    (s.dev.busy ≠ none →
      startMaint s = { s with cmp := { s.cmp with maint := some { m with stage := .waitReady, ticks := 0 } } }) ∧
    (s.dev.busy = none → startMaint s = { s with
      cmp := { s.cmp with maint := some { m with stage := .sent, ticks := 0 } }, dev := s.dev.start m.op }) := by
  refine ⟨fun hb => ?_, fun hb => ?_⟩
  · simp [startMaint, hm, Option.isSome_iff_ne_none.mpr hb]
  · simp [startMaint, hm, hb, transfer]

/-- The arbiter acts only with the port READY (R154). Then it does nothing, or starts one fetch of a queued sector into a
victim, or starts the waiting maintenance operation, whose first status read (R160) has it wait over a busy memory and
sends it over an idle one. -/
theorem arbiter_cases (s : State) : arbiter s = s ∨
    (portState s = .ready ∧ ∃ e i, e ∈ s.ccc.queue ∧ victim s = some i ∧ arbiter s = startFetch e.sector i s) ∨
    (portState s = .ready ∧ ∃ m, s.cmp.maint = some m ∧ m.stage = .pending ∧
      ((s.dev.busy ≠ none ∧
          arbiter s = { s with cmp := { s.cmp with maint := some { m with stage := .waitReady, ticks := 0 } } }) ∨
        (s.dev.busy = none ∧ arbiter s = { s with
          cmp := { s.cmp with maint := some { m with stage := .sent, ticks := 0 } }, dev := s.dev.start m.op }))) := by
  have hf : fetchNext s = s ∨ ∃ e i, e ∈ s.ccc.queue ∧ victim s = some i ∧ fetchNext s = startFetch e.sector i s := by
    rcases fetchNext_cases s with h | ⟨e, i, he, hi, h⟩
    · exact .inl h
    · exact .inr ⟨e, i, nextEntry_mem he, hi, h⟩
  by_cases hp : portState s = .ready
  · unfold arbiter
    rw [if_neg (by simp [hp])]
    split
    · exact hf.imp_right fun h => .inl ⟨hp, h⟩
    · split
      · next hw =>
        cases hm : s.cmp.maint with
        | none => simp [maintWaits, hm] at hw
        | some m =>
          refine .inr (.inr ⟨hp, m, rfl, (portState_ready.mp hp).2 m hm, ?_⟩)
          by_cases hb : s.dev.busy = none
          · exact .inr ⟨hb, (start_cases hm).2 hb⟩
          · exact .inl ⟨hb, (start_cases hm).1 hb⟩
      · exact hf.imp_right fun h => .inl ⟨hp, h⟩
  · left
    unfold arbiter
    rw [if_pos hp]

/-- The arbiter changes only CCC, CMP and what the device runs. -/
theorem arbiter_frame (s : State) : { arbiter s with ccc := s.ccc, cmp := s.cmp, dev := s.dev } = s ∧
    (arbiter s).dev.bytes = s.dev.bytes ∧ (arbiter s).dev.draws = s.dev.draws := by
  rcases arbiter_cases s with h | ⟨_, _, _, _, _, h⟩ | ⟨_, _, _, _, ⟨_, h⟩ | ⟨_, h⟩⟩ <;> rw [h]
  · exact ⟨rfl, rfl, rfl⟩
  · exact ⟨rfl, rfl, rfl⟩
  · exact ⟨rfl, rfl, rfl⟩
  · exact ⟨rfl, by simp, by simp⟩

/-- Where no maintenance operation waits the arbiter starts a fetch or nothing. -/
theorem arbiter_settled {s : State} (h : PortSettled s) :
    arbiter s = if portState s = .ready then fetchNext s else s := by
  unfold arbiter
  by_cases hp : portState s = .ready
  · have hw : maintWaits s = false := by
      obtain ⟨hf, hm⟩ := portState_ready.mp hp
      cases hc : s.cmp.maint with
      | none => simp [maintWaits, hc]
      | some m => exact absurd (hm m hc) (h hf m hc)
    simp [hp, hw]
  · simp [hp]

/-- Where no maintenance operation waits the arbiter changes only CCC and CMP. -/
theorem arbiter_settled_frame {s : State} (h : PortSettled s) : { arbiter s with ccc := s.ccc, cmp := s.cmp } = s := by
  rw [arbiter_settled h]
  split
  · exact fetchNext_frame s
  · rfl

/-- An urgency above 0 at the top of the queue is an entry's. -/
theorem topUrgency_entry {q : List FetchEntry} (h : topUrgency q ≠ 0) : ∃ e, nextEntry q = some e := by
  have reached : ∀ (l : List FetchEntry) (u : Nat), l.foldl (fun u e => max u e.urgency) u = u ∨
      ∃ e ∈ l, e.urgency = l.foldl (fun u e => max u e.urgency) u := by
    intro l
    induction l with
    | nil => exact fun u => .inl rfl
    | cons e l ih =>
      intro u
      simp only [List.foldl_cons, List.mem_cons, exists_eq_or_imp]
      rcases ih (max u e.urgency) with h | h
      · rw [h]; omega
      · exact .inr (.inr h)
  rcases reached q 0 with h0 | ⟨e, he, hu⟩
  · exact absurd h0 h
  · exact Option.isSome_iff_exists.mp (List.find?_isSome.mpr ⟨e, he, by simp [topUrgency, hu]⟩)

/-- The arbiter leaves no maintenance operation waiting with the port READY (R154). -/
theorem arbiter_settles (s : State) : PortSettled (arbiter s) := by
  by_cases hp : portState s = .ready
  · unfold arbiter
    rw [if_neg (by simp [hp])]
    split
    · next hv =>
      simp only [Bool.and_eq_true, decide_eq_true_eq] at hv
      obtain ⟨e, he⟩ := topUrgency_entry (q := s.ccc.queue) (by rw [hv.1]; decide)
      obtain ⟨i, hi⟩ := Option.isSome_iff_exists.mp hv.2
      intro hf
      simp [fetchNext, he, hi, startFetch] at hf
    · split
      · next hw =>
        cases hm : s.cmp.maint with
        | none => simp [maintWaits, hm] at hw
        | some m =>
          by_cases hb : s.dev.busy = none
          · rw [(start_cases hm).2 hb]; intro _ k hk; cases hk; simp
          · rw [(start_cases hm).1 hb]; intro _ k hk; cases hk; simp
      · next hw =>
        rcases fetchNext_cases s with h | ⟨_, _, _, _, h⟩ <;> rw [h]
        · exact fun _ m hm hs => hw (by simp [maintWaits, hm, hs])
        · intro hf; simp [startFetch] at hf
  · unfold arbiter
    rw [if_pos hp]
    intro hf m hm hs
    exact hp (portState_ready.mpr ⟨hf, fun k hk => by rw [hm] at hk; cases hk; exact hs⟩)

/-- The arbiter keeps the directory and the lock table. -/
theorem arbiter_tables (s : State) :
    (arbiter s).ccc.directory = s.ccc.directory ∧ (arbiter s).ccc.locks = s.ccc.locks := by
  rcases arbiter_cases s with h | ⟨_, _, _, _, _, h⟩ | ⟨_, _, _, _, ⟨_, h⟩ | ⟨_, h⟩⟩ <;> rw [h] <;> exact ⟨rfl, rfl⟩

/-- With nothing queued and the port READY the waiting maintenance operation starts (R154), as its first status read has it
(R160, `start_cases`). -/
theorem arbiter_starts_maint {s : State} {m : Maint} (hq : s.ccc.queue = []) (hf : s.cmp.fetch = none)
    (hm : s.cmp.maint = some m) (hs : m.stage = .pending) : arbiter s = startMaint s := by
  have hp : portState s = .ready := portState_ready.mpr ⟨hf, fun k hk => by rw [hm] at hk; cases hk; exact hs⟩
  simp [arbiter, hp, hq, topUrgency, maintWaits, hm, hs]

/-! ## Requests and preloads (R150, R156) -/

/-- After a preload the sector is cached or queued. -/
theorem preload_held (s : State) (k : Nat) :
    isCached (preload s k) k = true ∨ isQueued (preload s k) k = true := by
  unfold preload
  split
  · next h => simpa using h
  · right; simp [isQueued]

/-- A preload changes only the fetch queue, and takes no entry out of it. -/
theorem preload_frame (s : State) (k : Nat) :
    (∃ l, (preload s k).ccc = { s.ccc with queue := s.ccc.queue ++ l }) ∧ { preload s k with ccc := s.ccc } = s := by
  unfold preload
  split
  · exact ⟨⟨[], by simp⟩, rfl⟩
  · exact ⟨⟨_, rfl⟩, rfl⟩

/-- A request changes only the fetch queue. -/
theorem request_frame (v : VoiceNo) (k u : Nat) (s : State) :
    { (request v k u s).ccc with queue := s.ccc.queue } = s.ccc ∧ { request v k u s with ccc := s.ccc } = s := by
  unfold request
  split
  · exact ⟨rfl, rfl⟩
  · split <;> exact ⟨rfl, rfl⟩

/-! ## Where no maintenance operation waits (R154) -/

theorem settled_of_cmp {s t : State} (h : PortSettled s) (e : t.cmp = s.cmp) : PortSettled t := by
  unfold PortSettled
  rw [e]
  exact h

theorem stopGroup_cmp (g : GroupNo) (s : State) : (stopGroup g s).cmp = s.cmp := by unfold stopGroup; split <;> rfl

theorem startGroup_cmp (g : GroupNo) (s : State) : (startGroup g s).cmp = s.cmp := by
  unfold startGroup
  split
  · exact stopGroup_cmp g s
  · rfl

theorem writePattern_cmp (g : GroupNo) (p : Pattern) (s : State) : (writePattern g p s).cmp = s.cmp := by
  unfold writePattern modeEffect
  dsimp only
  split
  · exact stopGroup_cmp g _
  · split
    · exact startGroup_cmp g _
    · rfl

theorem touch_frame (k : Nat) (s : State) : { touch k s with ccc := s.ccc } = s := by
  unfold touch
  split <;> rfl

theorem touch_cmp (k : Nat) (s : State) : (touch k s).cmp = s.cmp := by unfold touch; split <;> rfl

theorem request_cmp (v : VoiceNo) (k u : Nat) (s : State) : (request v k u s).cmp = s.cmp := by
  unfold request
  split
  · rfl
  · split <;> rfl

/-- What the voices leave alone where no maintenance operation waits: every record but VPL's, CCC's and CMP's, and ASQ's end
report. -/
structure Calm (s t : State) : Prop where
  settled : PortSettled t
  frame : { t with asq := { t.asq with report := s.asq.report }, vpl := s.vpl, ccc := s.ccc, cmp := s.cmp } = s

theorem Calm.refl {s : State} (h : PortSettled s) : Calm s s := ⟨h, rfl⟩

/-- Everything a voice does is calm. -/
theorem calm_closed (s : State) : VoiceClosed (Calm s) where
  request := fun v k u t h =>
    ⟨settled_of_cmp h.settled (request_cmp v k u t),
     by have := (request_frame v k u t).2; rw [← this] at h; exact h.frame⟩
  touch := fun k t h =>
    ⟨settled_of_cmp h.settled (touch_cmp k t),
     by have := touch_frame k t; rw [← this] at h; exact h.frame⟩
  ceaseWait := fun _ _ h => ⟨settled_of_cmp h.settled rfl, h.frame⟩
  arbiter := fun t h =>
    ⟨arbiter_settles t, by have := arbiter_settled_frame h.settled; rw [← this] at h; exact h.frame⟩
  vpl := fun _ _ h => ⟨settled_of_cmp h.settled rfl, h.frame⟩
  report := fun _ _ h => ⟨settled_of_cmp h.settled rfl, h.frame⟩

/-- No event of the route, the seats, the announcements or the lamps leaves a maintenance operation waiting with the port
READY. -/
theorem settled_closed : DeckClosed PortSettled where
  request := fun v k u t h => settled_of_cmp h (request_cmp v k u t)
  touch := fun k t h => settled_of_cmp h (touch_cmp k t)
  ceaseWait := fun _ _ h => settled_of_cmp h rfl
  arbiter := fun t _ => arbiter_settles t
  vpl := fun _ _ h => settled_of_cmp h rfl
  report := fun _ _ h => settled_of_cmp h rfl
  start := fun g t h => settled_of_cmp h (startGroup_cmp g t)
  stop := fun g t h => settled_of_cmp h (stopGroup_cmp g t)
  write := fun g p t h => settled_of_cmp h (writePattern_cmp g p t)
  notice := fun n t h => settled_of_cmp h (by unfold pushNotice; split <;> rfl)
  zou := fun _ _ h => settled_of_cmp h rfl
  asq := fun _ _ h => settled_of_cmp h rfl
  rce := fun _ _ h => settled_of_cmp h rfl
  scc := fun _ _ h => settled_of_cmp h rfl
  hmx := fun _ _ h => settled_of_cmp h rfl

/-! ## Lookups (R147) -/

/-- A lookup gives a clip of the directory with the family and the language asked for. -/
theorem lookup_some {s : State} {f l : Nat} {c : Clip} (h : lookup s f l = some c) :
    some c ∈ s.ccc.directory.toList ∧ c.family = f ∧ c.language = l := by
  unfold lookup at h
  obtain ⟨e, he, hc⟩ := List.exists_of_findSome?_eq_some h
  cases e with
  | none => simp at hc
  | some d =>
    simp only [Option.ite_none_right_eq_some, Option.some.injEq] at hc
    obtain ⟨hd, rfl⟩ := hc
    exact ⟨he, hd.1, hd.2⟩

end Sys2Proof.Laws
end

