-- ==== Sys2Proof/Laws/Frames.lean ====
section
/-! SUPPORT. Frames: what no operation inside the chip touches. `ChipClosed` holds of every property that looks at none of
the blocks' records; every request, expiry and slot-end event keeps it. -/

namespace Sys2Proof.Laws

open Sys2Proof Sys2Proof.Machine

variable {P : State → Prop}

/-- Kept by any change of the records of the chip's blocks, TIF's and the ports' apart, and of the clip memory device, to which
an event of the chip may send an operation. -/
structure ChipClosed (P : State → Prop) : Prop where
  cth : ∀ x s, P s → P { s with cth := x }
  scc : ∀ x s, P s → P { s with scc := x }
  hmx : ∀ x s, P s → P { s with hmx := x }
  zou : ∀ x s, P s → P { s with zou := x }
  rce : ∀ x s, P s → P { s with rce := x }
  asq : ∀ x s, P s → P { s with asq := x }
  vpl : ∀ x s, P s → P { s with vpl := x }
  ccc : ∀ x s, P s → P { s with ccc := x }
  cmp : ∀ x s, P s → P { s with cmp := x }
  lmc : ∀ x s, P s → P { s with lmc := x }
  dev : ∀ x s, P s → P { s with dev := x }

namespace ChipClosed

/-- The cache and the port changed together. -/
theorem cache (c : ChipClosed P) (a : Ccc) (b : Cmp) (s : State) (h : P s) : P { s with ccc := a, cmp := b } :=
  c.cmp b { s with ccc := a } (c.ccc a s h)

theorem cmpDev (c : ChipClosed P) (y : Cmp) (d : Device) (s : State) (h : P s) : P { s with cmp := y, dev := d } :=
  c.dev d _ (c.cmp y s h)

theorem pushNotice (c : ChipClosed P) (n : Notice) (s : State) (h : P s) : P (pushNotice n s) := by
  unfold Machine.pushNotice
  exact keep_ite (c.cth _ s h) (c.cth _ s h)

theorem setGroup (c : ChipClosed P) (g : GroupNo) (x : Group) (s : State) (h : P s) : P (setGroup g x s) := c.lmc _ s h

theorem stopGroup (c : ChipClosed P) (g : GroupNo) (s : State) (h : P s) : P (stopGroup g s) := by
  unfold Machine.stopGroup
  exact keep_ite (c.lmc _ _ (c.setGroup g _ s h)) h

theorem startGroup (c : ChipClosed P) (g : GroupNo) (s : State) (h : P s) : P (startGroup g s) := by
  unfold Machine.startGroup
  exact keep_ite (c.stopGroup g s h) (c.setGroup g _ s h)

theorem modeEffect (c : ChipClosed P) (g : GroupNo) (m : Mode) (s : State) (h : P s) : P (modeEffect g m s) := by
  unfold Machine.modeEffect
  exact keep_ite (c.stopGroup g s h) (keep_ite (c.startGroup g s h) h)

theorem writePattern (c : ChipClosed P) (g : GroupNo) (p : Pattern) (s : State) (h : P s) : P (writePattern g p s) :=
  c.modeEffect g _ _ (c.setGroup g _ s h)

theorem writePending (c : ChipClosed P) (g : GroupNo) (a b : Nat) (s : State) (h : P s) : P (writePending g a b s) := by
  unfold Machine.writePending
  exact keep_ite (c.setGroup g _ s h) (c.setGroup g _ s h)

theorem touch (c : ChipClosed P) (k : Nat) (s : State) (h : P s) : P (touch k s) := by
  unfold Machine.touch
  split
  · exact h
  · exact c.ccc _ s h

theorem request (c : ChipClosed P) (v : VoiceNo) (k u : Nat) (s : State) (h : P s) : P (request v k u s) := by
  unfold Machine.request
  exact keep_ite h (keep_ite (c.ccc _ s h) (c.ccc _ s h))

theorem fetchNext (c : ChipClosed P) (s : State) (h : P s) : P (fetchNext s) := by
  unfold Machine.fetchNext
  split
  · exact c.cache _ _ s h
  · exact h

theorem transfer (c : ChipClosed P) (m : Maint) (s : State) (h : P s) : P (transfer m s) :=
  c.cmpDev _ _ s h

theorem startMaint (c : ChipClosed P) (s : State) (h : P s) : P (startMaint s) := by
  unfold Machine.startMaint
  split
  · exact h
  · exact keep_ite (c.cmp _ s h) (c.transfer _ s h)

theorem arbiter (c : ChipClosed P) (s : State) (h : P s) : P (arbiter s) := by
  unfold Machine.arbiter
  exact keep_ite h (keep_ite (c.fetchNext s h) (keep_ite (c.startMaint s h) (c.fetchNext s h)))

theorem deck (c : ChipClosed P) : DeckClosed P where
  request := c.request
  touch := c.touch
  ceaseWait := fun _ s h => c.ccc _ s h
  arbiter := c.arbiter
  vpl := c.vpl
  report := fun _ s h => c.asq _ s h
  start := c.startGroup
  stop := c.stopGroup
  write := c.writePattern
  notice := c.pushNotice
  zou := c.zou
  asq := c.asq
  rce := c.rce
  scc := c.scc
  hmx := c.hmx

/-! ### The supply and the override -/

theorem moveSupply (c : ChipClosed P) (x : Supply) (s : State) (h : P s) : P (moveSupply x s) :=
  c.pushNotice _ _ (c.lmc _ s h)

theorem rampUp (c : ChipClosed P) (s : State) (h : P s) : P (rampUp s) := c.moveSupply _ _ (c.lmc _ s h)

theorem queueIgnition (c : ChipClosed P) (g : GroupNo) (s : State) (h : P s) : P (queueIgnition g s) :=
  c.lmc _ _ (c.setGroup g _ s h)

theorem queueLit (c : ChipClosed P) (p : Group → Bool) (s : State) (h : P s) : P (queueLit p s) :=
  keep_foldl (fun g s hs => c.queueIgnition g s hs) _ _ h

theorem supplyOnOp (c : ChipClosed P) (s : State) (h : P s) : P (supplyOnOp s) := by
  unfold Machine.supplyOnOp
  exact keep_ite (c.rampUp s h) h

theorem leaveSupply (c : ChipClosed P) (x : Supply) (s : State) (h : P s) : P (leaveSupply x s) :=
  c.moveSupply x _ (keep_ite (c.lmc _ s h) h)

theorem supplyOffOp (c : ChipClosed P) (s : State) (h : P s) : P (supplyOffOp s) := by
  have h1 : P (if s.lmc.supply = .off then s else Machine.leaveSupply .off s) := keep_ite h (c.leaveSupply _ s h)
  unfold Machine.supplyOffOp
  exact keep_ite h1 (c.rampUp _ h1)

theorem enterReady (c : ChipClosed P) (s : State) (h : P s) : P (enterReady s) := by
  unfold Machine.enterReady
  exact keep_ite (c.queueLit _ _ (c.moveSupply _ s h)) (c.lmc _ _ (c.moveSupply _ s h))

theorem overrideStart (c : ChipClosed P) (s : State) (h : P s) : P (overrideStart s) := by
  unfold Machine.overrideStart
  dsimp only
  have h0 : P (setOverride .active s) := c.lmc _ s h
  have h1 : P (overrideLevels (setOverride .active s)) := c.lmc _ _ h0
  have h2 := keep_lampAlarmStart c.deck.toLampClosed _ (keep_requestAlarm c.deck.toAsqClosed _
    (c.pushNotice (.alarm true) _ (keep_ite (b := (setOverride .active s).lmc.supply = .ready) h1 h0)))
  exact keep_ite (c.rampUp _ h2) h2

theorem overrideEvent (c : ChipClosed P) (s : State) (h : P s) : P (overrideEvent s) := by
  unfold Machine.overrideEvent
  split
  · exact keep_ite (c.overrideStart s h) h
  · exact keep_ite h (c.lmc _ s h)
  · exact keep_ite (c.lmc _ s h) h

theorem alarmLine (c : ChipClosed P) (b : Bool) (s : State) (h : P s) : P (alarmLine b s) :=
  c.overrideEvent _ (c.lmc _ s h)

theorem overrideClears (c : ChipClosed P) (s : State) (h : P s) : P (overrideClears s) := by
  have h0 : P (setOverride .clear s) := c.lmc _ s h
  have h1 := keep_lampAlarmEnd c.deck.toLampClosed _ (c.pushNotice (.alarm false) _ h0)
  have h2 : P (safetyLevels (lampAlarmEnd (Machine.pushNotice (.alarm false) (setOverride .clear s)))) := c.lmc _ _ h1
  unfold Machine.overrideClears
  exact keep_ite (keep_ite (c.queueLit _ _ h2) h1) h

theorem rampDone (c : ChipClosed P) (s : State) (h : P s) : P (rampDone s) := by
  unfold Machine.rampDone
  exact keep_ite (c.enterReady s h) h

theorem rampTimeout (c : ChipClosed P) (s : State) (h : P s) : P (rampTimeout s) := by
  unfold Machine.rampTimeout
  exact keep_ite (c.leaveSupply _ s h) h

theorem goodLost (c : ChipClosed P) (s : State) (h : P s) : P (goodLost s) := by
  unfold Machine.goodLost
  exact keep_ite (c.leaveSupply _ s h) h

/-! ### Tables -/

theorem storeGroup (c : ChipClosed P) (g : GroupNo) (w : GroupWrite) (s : State) (h : P s) : P (storeGroup g w s) := by
  have hs : ∀ b t, P t → P (overrideSafety g b t) := fun b t ht => by
    unfold overrideSafety
    exact keep_ite (c.setGroup g _ t ht) ht
  unfold Machine.storeGroup
  dsimp only
  split
  · exact c.modeEffect g _ _ (hs _ _ (c.setGroup g _ s h))
  · exact c.writePending g _ _ _ (c.modeEffect g _ _ (hs _ _ (c.setGroup g _ s h)))

theorem storeIf {ι α : Type} {store : ι → α → State → State} (hs : ∀ i w s, P s → P (store i w s)) (i : Option ι)
    (w : Option α) (s : State) (h : P s) : P (storeIf i w store s).1 := by
  unfold Machine.storeIf
  split
  · exact hs _ _ s h
  · exact h

theorem tableWrite (c : ChipClosed P) (t : Table) (i : Nat) (r : List Byte) (s : State) (h : P s) :
    P (t.write i r s).1 := by
  unfold Table.write
  split
  · exact storeIf (fun _ _ s hs => c.hmx _ _ (c.scc _ s hs)) _ _ s h
  · exact storeIf (fun _ _ s hs => c.zou _ s hs) _ _ s h
  · exact storeIf (fun _ _ s hs => c.scc _ s hs) _ _ s h
  · exact storeIf (fun _ _ s hs => c.hmx _ s hs) _ _ s h
  · split
    · exact h
    · exact storeIf (fun _ _ s hs => c.rce _ s hs) _ _ s h
  · exact storeIf (fun _ _ s hs => c.asq _ s hs) _ _ s h
  · exact storeIf (fun _ _ s hs => c.ccc _ s hs) _ _ s h
  · exact storeIf (fun _ _ s hs => c.lmc _ s hs) _ _ s h
  · exact storeIf (fun _ _ s hs => c.storeGroup _ _ s hs) _ _ s h
  · exact storeIf (fun _ _ s hs => c.lmc _ s hs) _ _ s h
  · exact storeIf (fun _ _ s hs => c.lmc _ s hs) _ _ s h
  · exact storeIf (fun _ _ s hs => c.cth _ s hs) _ _ s h

theorem entryWriteOp (c : ChipClosed P) (t : Byte) (i : Nat) (r : List Byte) (s : State) (h : P s) :
    P (entryWriteOp t i r s).1 := by
  unfold Machine.entryWriteOp
  split
  · exact h
  · split
    · exact h
    · split
      · exact h
      · exact c.tableWrite _ i r s h

theorem entryReadOp (t : Byte) (i : Nat) (s : State) (h : P s) : P (entryReadOp t i s).1 := by
  unfold Machine.entryReadOp
  split
  · exact h
  · split <;> exact h

/-! ### Clip memory requests -/

theorem acceptMaint (c : ChipClosed P) (op : MaintOp) (s : State) (h : P s) : P (acceptMaint op s).1 := by
  unfold Machine.acceptMaint
  split
  · exact h
  · exact c.arbiter _ (c.cmp _ s h)

theorem clipEraseOp (c : ChipClosed P) (k : Nat) (s : State) (h : P s) : P (clipEraseOp k s).1 := by
  unfold Machine.clipEraseOp
  split
  · exact h
  · exact c.acceptMaint _ s h

theorem clipProgramOp (c : ChipClosed P) (a : Nat) (d : List Byte) (s : State) (h : P s) : P (clipProgramOp a d s).1 := by
  unfold Machine.clipProgramOp
  split
  · exact h
  · exact c.acceptMaint _ s h

theorem clipReadOp (c : ChipClosed P) (a n : Nat) (s : State) (h : P s) : P (clipReadOp a n s).1 := by
  unfold Machine.clipReadOp
  split
  · exact h
  · exact c.acceptMaint _ s h

theorem preload (c : ChipClosed P) (k : Nat) (s : State) (h : P s) : P (preload s k) := by
  unfold Machine.preload
  exact keep_ite h (c.ccc _ s h)

theorem invalidateTag (c : ChipClosed P) (k : Nat) (s : State) (h : P s) : P (invalidateTag k s) := by
  unfold Machine.invalidateTag
  split
  · exact h
  · have h1 : ∀ i, P (allVoices.foldl (sectorInvalid k) (dropLine s i)) := fun i =>
      keep_foldl (fun v s hs => keep_sectorInvalid c.deck.toVoiceClosed k v s hs) _ _ (c.ccc _ _ (c.ccc _ s h))
    exact keep_ite (c.preload k _ (h1 _)) (h1 _)

theorem endMaint (c : ChipClosed P) (op : MaintOp) (p : List Byte) (s : State) (h : P s) : P (endMaint op p s) := by
  unfold Machine.endMaint
  dsimp only
  refine c.arbiter _ ?_
  split
  · exact c.invalidateTag _ _ (c.cth _ _ (c.cmp _ s h))
  · exact c.cth _ _ (c.cmp _ s h)

theorem tickCmp (c : ChipClosed P) (s : State) (h : P s) : P (tickCmp s) := by
  unfold Machine.tickCmp
  split
  · exact h
  · exact keep_ite h (c.cmp _ s h)

theorem deckResetCache (c : ChipClosed P) (s : State) (h : P s) : P (deckResetCache s) := by
  unfold Machine.deckResetCache
  exact c.arbiter _ (keep_foldl (fun k s hs => c.preload k s hs) _ _ (c.cache _ _ s h))

theorem dropLine (c : ChipClosed P) (i : LineNo) (s : State) (h : P s) : P (dropLine s i) := c.ccc _ _ (c.ccc _ s h)

/-! ### Actions -/

theorem onGroup {f : GroupNo → State × Answer} (hf : ∀ g, P (f g).1) (g : Byte) (s : State) (h : P s) :
    P (onGroup g f s).1 := by
  unfold Machine.onGroup
  split
  · exact h
  · exact hf _

theorem startAfter (c : ChipClosed P) (b : Byte) (g : GroupNo) (s : State) (h : P s) : P (startAfter b g s) := by
  unfold Machine.startAfter
  exact keep_ite (c.startGroup g s h) h

theorem announceOp (c : ChipClosed P) (ps : List Byte) (s : State) (h : P s) : P (announceOp ps s).1 := by
  unfold Machine.announceOp
  split
  · exact h
  · split
    · exact h
    · dsimp only
      exact keep_placeNew c.deck.toAsqClosed _ s h

theorem cutOp (c : ChipClosed P) (id : Byte) (b : Bool) (s : State) (h : P s) : P (cutOp id b s).1 :=
  keep_cut c.deck.toAsqClosed _ b s h

theorem sceneOp (c : ChipClosed P) (n : Byte) (s : State) (h : P s) : P (sceneOp n s).1 := by
  unfold Machine.sceneOp
  split
  · exact h
  · unfold doneWith
    dsimp only
    exact keep_applyScene c.deck.toLampClosed _ s h

theorem groupPresetOp (c : ChipClosed P) (g p b : Byte) (s : State) (h : P s) : P (groupPresetOp g p b s).1 := by
  unfold Machine.groupPresetOp
  refine onGroup (fun g => ?_) _ s h
  split
  · exact h
  · exact c.startAfter b g _ (c.writePattern g _ s h)

theorem groupFieldsOp (c : ChipClosed P) (g m a b d e f k st : Byte) (s : State) (h : P s) :
    P (groupFieldsOp g m a b d e f k st s).1 := by
  unfold Machine.groupFieldsOp
  refine onGroup (fun g => ?_) _ s h
  split
  · exact h
  · exact c.startAfter st g _ (c.writePattern g _ s h)

theorem groupStartOp (c : ChipClosed P) (g : Byte) (s : State) (h : P s) : P (groupStartOp g s).1 :=
  onGroup (fun g => c.startGroup g s h) _ s h

theorem groupStopOp (c : ChipClosed P) (g : Byte) (s : State) (h : P s) : P (groupStopOp g s).1 :=
  onGroup (fun g => c.stopGroup g s h) _ s h

theorem groupPendingOp (c : ChipClosed P) (g a b : Byte) (s : State) (h : P s) : P (groupPendingOp g a b s).1 :=
  onGroup (fun g => c.writePending g _ _ s h) _ s h

theorem groupHoldOp (c : ChipClosed P) (g b : Byte) (s : State) (h : P s) : P (groupHoldOp g b s).1 :=
  onGroup (fun g => c.setGroup g _ s h) _ s h

theorem groupOp (c : ChipClosed P) (ps : List Byte) (s : State) (h : P s) : P (groupOp ps s).1 := by
  unfold Machine.groupOp
  split
  · split
    · exact c.groupPresetOp _ _ _ s h
    · exact c.groupFieldsOp _ _ _ _ _ _ _ _ _ s h
    · exact c.groupStartOp _ s h
    · exact c.groupStopOp _ s h
    · exact c.groupPendingOp _ _ _ s h
    · exact c.groupHoldOp _ _ s h
    · exact h
  · exact h

theorem routeArmOp (c : ChipClosed P) (n : Nat) (t : Byte) (s : State) (h : P s) : P (routeArmOp n t s).1 :=
  keep_armRoute c.deck n _ s h

theorem seatOp (c : ChipClosed P) (ps : List Byte) (s : State) (h : P s) : P (seatOp ps s).1 := by
  unfold Machine.seatOp
  split
  · exact h
  · exact c.scc _ s h

theorem quietOp (c : ChipClosed P) (z b : Byte) (s : State) (h : P s) : P (quietOp z b s).1 := by
  unfold Machine.quietOp
  split
  · exact h
  · exact c.zou _ s h

theorem clipLockOp (c : ChipClosed P) (f : Nat) (l : Byte) (s : State) (h : P s) : P (clipLockOp f l s).1 := by
  unfold Machine.clipLockOp
  split
  · exact h
  · split
    · exact h
    · exact c.arbiter _ (keep_foldl (fun k s hs => c.preload k s hs) _ _ (c.ccc _ s h))

theorem clipUnlockOp (c : ChipClosed P) (p : Byte) (f : Nat) (l : Byte) (s : State) (h : P s) :
    P (clipUnlockOp p f l s).1 := by
  unfold Machine.clipUnlockOp
  split
  · exact c.arbiter _ (c.ccc _ s h)
  · split
    · exact h
    · exact c.arbiter _ (c.ccc _ s h)

theorem cacheFlushOp (c : ChipClosed P) (s : State) (h : P s) : P (cacheFlushOp s).1 := by
  unfold Machine.cacheFlushOp flushCache
  dsimp only
  exact c.arbiter _ (keep_foldl (fun i s hs => c.dropLine i s hs) _ _ h)

theorem keep_ite_fst {b : Prop} [Decidable b] {x y : State × Answer} (hx : P x.1) (hy : P y.1) :
    P (if b then x else y).1 := by
  split
  · exact hx
  · exact hy

theorem bare {f : State → State × Answer} (hf : ∀ s, P s → P (f s).1) (ps : List Byte) (s : State) (h : P s) :
    P (bareAction f ps s).1 := by
  unfold bareAction
  exact keep_ite_fst (hf s h) h

theorem actionOp (c : ChipClosed P) (code : Byte) (ps : List Byte) (s : State) (h : P s) : P (actionOp code ps s).1 := by
  unfold Machine.actionOp
  split
  · exact c.announceOp _ s h
  · unfold cutAction
    split
    · exact keep_ite_fst (c.cutOp _ _ s h) (keep_ite_fst (c.cutOp _ _ s h) h)
    · exact h
  · unfold sceneAction
    split
    · exact c.sceneOp _ s h
    · exact h
  · exact c.groupOp _ s h
  · unfold supplyAction
    split
    · exact keep_ite_fst (c.supplyOnOp s h) (c.supplyOffOp s h)
    · exact h
  · unfold routeArmAction
    split
    · exact c.routeArmOp _ _ s h
    · exact h
  · exact bare (fun s hs => keep_disarmRoute c.deck s hs) ps s h
  · exact bare (fun s hs => keep_clearLatch c.deck s hs) ps s h
  · exact c.seatOp _ s h
  · unfold quietAction
    split
    · exact c.quietOp _ _ s h
    · exact h
  · unfold clipLockAction
    split
    · exact c.clipLockOp _ _ s h
    · exact h
  · unfold clipUnlockAction
    split
    · exact c.clipUnlockOp _ _ _ s h
    · exact h
  · exact bare (fun s hs => c.cacheFlushOp s hs) ps s h
  · exact h

/-! ### CTH -/

theorem deckReset (c : ChipClosed P) (s : State) (h : P s) : P (deckReset s) :=
  c.deckResetCache _ (c.zou _ _ (c.vpl _ _ (keep_deckResetAsq c.deck.toAsqClosed _
    (keep_deckResetRce c.deck _ (c.cth _ s h)))))

theorem deckResetOp (c : ChipClosed P) (b : Bool) (s : State) (h : P s) : P (deckResetOp b s).1 := by
  unfold Machine.deckResetOp
  split
  · exact c.deckReset s h
  · exact c.cth _ s h

theorem deckResetEffect (c : ChipClosed P) (s : State) (h : P s) : P (deckResetEffect s) := by
  unfold Machine.deckResetEffect
  exact keep_ite (c.deckReset s h) h

theorem emptyPayload {f : State → State × Answer} (hf : ∀ s, P s → P (f s).1) (p : List Byte) (s : State) (h : P s) :
    P (emptyPayload p f s).1 := by
  unfold Machine.emptyPayload
  split
  · exact hf s h
  · exact h

theorem ownerOf (c : ChipClosed P) (b : Bool) (k : Byte) (p : List Byte) (s : State) (h : P s) :
    P (ownerOf b k p s).1 := by
  unfold Machine.ownerOf
  split
  · unfold entryWritePayload
    split
    · exact c.entryWriteOp _ _ _ s h
    · exact h
  · unfold entryReadPayload
    split
    · exact entryReadOp _ _ s h
    · exact h
  · unfold actionPayload
    split
    · exact c.actionOp _ _ s h
    · exact h
  · exact emptyPayload (fun s hs => hs) p s h
  · unfold clipErasePayload
    split
    · exact c.clipEraseOp _ s h
    · exact h
  · unfold clipProgramPayload
    split
    · exact c.clipProgramOp _ _ s h
    · exact h
  · unfold clipReadPayload
    split
    · exact c.clipReadOp _ _ s h
    · exact h
  · exact emptyPayload (fun s hs => c.deckResetOp b s hs) p s h
  · exact h

theorem takeRequest (c : ChipClosed P) {f : State → State × Answer} (hf : ∀ s, P s → P (f s).1) (b : Bool) (k : Byte)
    (s : State) (h : P s) : P (takeRequest b k f s) := by
  unfold Machine.takeRequest
  exact keep_ite h (keep_ite (hf s h) (c.cth _ _ (hf s h)))

theorem sortPacket (c : ChipClosed P) (bs : List Byte) (s : State) (h : P s) : P (sortPacket bs s) := by
  have hr : ∀ b k p, P (handleRequest b k p s) := fun b k p => c.takeRequest (fun s hs => c.ownerOf b k p s hs) b _ s h
  unfold Machine.sortPacket
  split
  · exact h
  · split
    · exact keep_ite (keep_ite (hr _ _ _) h) (keep_ite (hr _ _ _) h)
    · exact h

theorem takeSlot (c : ChipClosed P) (t : Slot) (s : State) (h : P s) : P (takeSlot t s) := by
  unfold Machine.takeSlot
  split
  · exact keep_ite (c.cth _ s h) h
  · exact keep_ite (c.sortPacket _ _ (c.cth _ s h)) (c.cth _ s h)

theorem afterSlot (c : ChipClosed P) (x : Transmission) (s : State) (h : P s) : P (afterSlot x s) := by
  unfold Machine.afterSlot
  exact keep_ite (c.cth _ s h) (c.cth _ s h)

theorem returnTurn (c : ChipClosed P) (s : State) (h : P s) : P (returnTurn s).1 := by
  unfold Machine.returnTurn
  split
  · exact c.afterSlot _ s h
  · split
    · exact c.afterSlot _ _ (c.cth _ s h)
    · split
      · dsimp only
        exact c.afterSlot _ _ (c.cth _ s h)
      · exact h

end ChipClosed

/-- What no block of the chip touches inside an event: the queue, power, TIF and the ports. -/
structure Inner (s t : State) : Prop where
  pending : t.pending = s.pending
  power : t.power = s.power
  tif : t.tif = s.tif
  out : t.out = s.out

theorem Inner.refl (s : State) : Inner s s := ⟨rfl, rfl, rfl, rfl⟩

theorem inner_closed (s : State) : ChipClosed (Inner s) where
  cth := fun _ _ h => ⟨h.pending, h.power, h.tif, h.out⟩
  scc := fun _ _ h => ⟨h.pending, h.power, h.tif, h.out⟩
  hmx := fun _ _ h => ⟨h.pending, h.power, h.tif, h.out⟩
  zou := fun _ _ h => ⟨h.pending, h.power, h.tif, h.out⟩
  rce := fun _ _ h => ⟨h.pending, h.power, h.tif, h.out⟩
  asq := fun _ _ h => ⟨h.pending, h.power, h.tif, h.out⟩
  vpl := fun _ _ h => ⟨h.pending, h.power, h.tif, h.out⟩
  ccc := fun _ _ h => ⟨h.pending, h.power, h.tif, h.out⟩
  cmp := fun _ _ h => ⟨h.pending, h.power, h.tif, h.out⟩
  lmc := fun _ _ h => ⟨h.pending, h.power, h.tif, h.out⟩
  dev := fun _ _ h => ⟨h.pending, h.power, h.tif, h.out⟩

end Sys2Proof.Laws
end

