-- ==== Sys2Proof/Laws/Lamps.lean ====
section
/-! SUPPORT. Lamp groups: each start, stop, load, pending pair and event said once as what it makes of every group
(`withGroups`). -/

namespace Sys2Proof.Laws

open Sys2Proof Sys2Proof.Machine

/-! ## withGroups -/

theorem lmc_ext {a b : Lmc} (hg : ∀ g, a.groups.get g = b.groups.get g) (hq : a.ignQueue = b.ignQueue)
    (h : { a with groups := b.groups, ignQueue := b.ignQueue } = b) : a = b := by
  have hg' : a.groups = b.groups := table_ext hg
  rw [← h, ← hg', ← hq]

/-- Two states of one lamp controller, alike elsewhere. -/
theorem state_ext {a b : State} (hl : a.lmc = b.lmc) (hr : { a with lmc := b.lmc } = b) : a = b := by
  rw [← hr, ← hl]

variable {f h : GroupNo → Group → Group} {g : GroupNo} {s : State}

@[simp] theorem groupOf_withGroups : groupOf (withGroups f s) g = f g (groupOf s g) := by
  simp [groupOf, withGroups]

@[simp] theorem withGroups_get : (withGroups f s).lmc.groups.get g = f g (s.lmc.groups.get g) := by
  simp [withGroups]

@[simp] theorem withGroups_ignQueue : (withGroups f s).lmc.ignQueue = s.lmc.ignQueue.filter fun g =>
    !((s.lmc.groups.get g).running && !(f g (s.lmc.groups.get g)).running) := by simp only [withGroups]

/-- Nothing else of LMC, and nothing else of the chip, changes. -/
@[simp] theorem withGroups_rest : { (withGroups f s).lmc with groups := s.lmc.groups, ignQueue := s.lmc.ignQueue } = s.lmc := by
  simp only [withGroups]

@[simp] theorem withGroups_frame : { withGroups f s with lmc := s.lmc } = s := by simp only [withGroups]
@[simp] theorem withGroups_pending : (withGroups f s).pending = s.pending := by simp only [withGroups]
@[simp] theorem withGroups_power : (withGroups f s).power = s.power := by simp only [withGroups]
@[simp] theorem withGroups_tif : (withGroups f s).tif = s.tif := by simp only [withGroups]
@[simp] theorem withGroups_cth : (withGroups f s).cth = s.cth := by simp only [withGroups]
@[simp] theorem withGroups_scc : (withGroups f s).scc = s.scc := by simp only [withGroups]
@[simp] theorem withGroups_hmx : (withGroups f s).hmx = s.hmx := by simp only [withGroups]
@[simp] theorem withGroups_zou : (withGroups f s).zou = s.zou := by simp only [withGroups]
@[simp] theorem withGroups_rce : (withGroups f s).rce = s.rce := by simp only [withGroups]
@[simp] theorem withGroups_asq : (withGroups f s).asq = s.asq := by simp only [withGroups]
@[simp] theorem withGroups_vpl : (withGroups f s).vpl = s.vpl := by simp only [withGroups]
@[simp] theorem withGroups_ccc : (withGroups f s).ccc = s.ccc := by simp only [withGroups]
@[simp] theorem withGroups_cmp : (withGroups f s).cmp = s.cmp := by simp only [withGroups]
@[simp] theorem withGroups_dev : (withGroups f s).dev = s.dev := by simp only [withGroups]
@[simp] theorem withGroups_out : (withGroups f s).out = s.out := by simp only [withGroups]
@[simp] theorem withGroups_supply : (withGroups f s).lmc.supply = s.lmc.supply := by simp only [withGroups]
@[simp] theorem withGroups_override : (withGroups f s).lmc.override = s.lmc.override := by simp only [withGroups]

/-- A group that runs and then does not, between which it did not run, is what one change makes of it. -/
theorem withGroups_withGroups
    (hr : ∀ g x, (h g x).running = x.running ∨ (f g (h g x)).running = (h g x).running) :
    withGroups f (withGroups h s) = withGroups (fun g x => f g (h g x)) s := by
  have hl : (withGroups f (withGroups h s)).lmc = (withGroups (fun g x => f g (h g x)) s).lmc := by
    refine lmc_ext (fun g => by simp) ?_ (by simp only [withGroups])
    simp only [withGroups_ignQueue, withGroups_get, List.filter_filter]
    apply List.filter_congr
    intro g _
    have := hr g (s.lmc.groups.get g)
    cases h1 : (s.lmc.groups.get g).running <;> cases h2 : (h g (s.lmc.groups.get g)).running <;>
      cases h3 : (f g (h g (s.lmc.groups.get g))).running <;> simp_all
  exact state_ext hl (by simp only [withGroups])

theorem withGroups_id (hf : ∀ g, f g (s.lmc.groups.get g) = s.lmc.groups.get g) : withGroups f s = s := by
  have hl : (withGroups f s).lmc = s.lmc := by
    refine lmc_ext (fun g => by simp [hf]) ?_ (by simp only [withGroups])
    simp [hf]
  exact state_ext hl (by simp only [withGroups])

theorem withGroups_congr (hf : ∀ g, f g (s.lmc.groups.get g) = h g (s.lmc.groups.get g)) :
    withGroups f s = withGroups h s := by
  have hl : (withGroups f s).lmc = (withGroups h s).lmc := by
    refine lmc_ext (fun g => by simp [hf]) ?_ (by simp only [withGroups])
    simp [hf]
  exact state_ext hl (by simp only [withGroups])

/-- One group's record replaced, where it does not stop a running group. -/
theorem setGroup_eq {x : Group} (hr : (s.lmc.groups.get g).running = true → x.running = true) :
    setGroup g x s = withGroups (onlyGroup g fun _ => x) s := by
  have hl : (setGroup g x s).lmc = (withGroups (onlyGroup g fun _ => x) s).lmc := by
    refine lmc_ext (fun k => ?_) ?_ (by simp only [withGroups, setGroup])
    · simp only [setGroup, get_put, withGroups_get, onlyGroup]
    · rw [withGroups_ignQueue]
      symm
      apply List.filter_eq_self.mpr
      intro k _
      unfold onlyGroup
      split
      · next hk =>
        subst hk
        cases h1 : (s.lmc.groups.get k).running <;> simp [hr, h1]
      · simp
  exact state_ext hl (by simp only [withGroups, setGroup])

/-- One group's record changed, where the change does not stop a running group. -/
theorem setGroup_map (F : Group → Group) (g : GroupNo) (s : State) (hr : ∀ x, (F x).running = x.running) :
    setGroup g (F (s.lmc.groups.get g)) s = withGroups (onlyGroup g F) s := by
  rw [setGroup_eq fun h => (hr _).trans h]
  apply withGroups_congr
  intro k
  unfold onlyGroup
  split
  · next hk => subst hk; rfl
  · rfl

/-! ## Starts and stops (R169) -/

theorem stopGroup_eq (g : GroupNo) (s : State) : stopGroup g s = withGroups (onlyGroup g afterStop) s := by
  unfold stopGroup
  by_cases hr : (groupOf s g).running = true
  · rw [if_pos hr]
    have hl : (dequeueIgnition g (setGroup g (stoppedGroup (groupOf s g)) s)).lmc =
        (withGroups (onlyGroup g afterStop) s).lmc := by
      refine lmc_ext (fun k => ?_) ?_ (by simp only [withGroups, setGroup, dequeueIgnition])
      · simp only [dequeueIgnition, setGroup, get_put, withGroups_get, onlyGroup]
        split
        · next hk =>
          subst hk
          exact (if_pos hr).symm
        · rfl
      · rw [withGroups_ignQueue]
        show s.lmc.ignQueue.filter _ = _
        apply List.filter_congr
        intro k _
        unfold onlyGroup
        by_cases hk : k = g
        · subst hk
          have hr2 : (s.lmc.groups.get k).running = true := hr
          simp [afterStop, hr2]
        · simp [hk]
    exact state_ext hl (by simp only [withGroups, setGroup, dequeueIgnition])
  · rw [if_neg hr]
    symm
    apply withGroups_id
    intro k
    unfold onlyGroup
    split
    · next hk => subst hk; exact if_neg hr
    · rfl

theorem startGroup_eq (g : GroupNo) (s : State) : startGroup g s = withGroups (onlyGroup g afterStart) s := by
  unfold startGroup
  split
  · next hm =>
    rw [stopGroup_eq]
    apply withGroups_congr
    intro k
    unfold onlyGroup
    split
    · next hk => subst hk; exact (if_pos hm).symm
    · rfl
  · next hm =>
    rw [setGroup_eq (by intro _; rfl)]
    apply withGroups_congr
    intro k
    unfold onlyGroup
    split
    · next hk => subst hk; exact (if_neg hm).symm
    · rfl

theorem onlyGroup_comp (g : GroupNo) (f h : Group → Group) :
    (fun k x => onlyGroup g f k (onlyGroup g h k x)) = onlyGroup g fun x => f (h x) := by
  funext k x
  unfold onlyGroup
  split <;> rfl

/-- Two changes of one group, the second not restarting what the first stopped. -/
theorem onlyGroup_onlyGroup {f h : Group → Group}
    (hr : ∀ x, (h x).running = x.running ∨ (f (h x)).running = (h x).running) :
    withGroups (onlyGroup g f) (withGroups (onlyGroup g h) s) = withGroups (onlyGroup g fun x => f (h x)) s := by
  rw [withGroups_withGroups, onlyGroup_comp]
  intro k x
  unfold onlyGroup
  split
  · exact hr x
  · exact .inl rfl

theorem modeEffect_eq (g : GroupNo) (m : Mode) (s : State) :
    modeEffect g m s = withGroups (onlyGroup g fun x =>
      if x.running && x.pat.mode == .off then afterStop x
      else if x.running && x.pat.mode != m then afterStart x else x) s := by
  unfold modeEffect
  dsimp only
  split
  · next hc =>
    rw [stopGroup_eq]
    apply withGroups_congr
    intro k
    unfold onlyGroup
    split
    · next hk => subst hk; exact (if_pos hc).symm
    · rfl
  · next hc =>
    split
    · next hd =>
      rw [startGroup_eq]
      apply withGroups_congr
      intro k
      unfold onlyGroup
      split
      · next hk => subst hk; exact ((if_neg hc).trans (if_pos hd)).symm
      · rfl
    · next hd =>
      symm
      apply withGroups_id
      intro k
      unfold onlyGroup
      split
      · next hk => subst hk; exact (if_neg hc).trans (if_neg hd)
      · rfl

theorem writePattern_eq (g : GroupNo) (p : Pattern) (s : State) :
    writePattern g p s = withGroups (onlyGroup g (afterPattern p)) s := by
  have e : writePattern g p s = modeEffect g (s.lmc.groups.get g).pat.mode
      (setGroup g ((fun x : Group => { x with pat := p }) (s.lmc.groups.get g)) s) := rfl
  rw [e, setGroup_map (fun x : Group => { x with pat := p }) g s (fun _ => rfl), modeEffect_eq]
  rw [onlyGroup_onlyGroup (h := fun x : Group => { x with pat := p }) (fun _ => .inl rfl)]
  apply withGroups_congr
  intro k
  unfold onlyGroup
  split
  · next hk =>
    subst hk
    unfold afterPattern
    dsimp only
    by_cases h1 : (s.lmc.groups.get k).running = true <;> by_cases h2 : p.mode = .off <;>
      by_cases h3 : p.mode = (s.lmc.groups.get k).pat.mode <;> simp [h1, h2, h3]
  · rfl

theorem writePending_eq (g : GroupNo) (a b : Nat) (s : State) :
    writePending g a b s = withGroups (onlyGroup g fun x =>
      if x.running then { x with pending := some (a, b) }
      else { x with pat := { x.pat with onLen := a, offLen := b }, pending := none }) s := by
  have e : writePending g a b s = if (s.lmc.groups.get g).running then
      setGroup g ((fun x : Group => { x with pending := some (a, b) }) (s.lmc.groups.get g)) s
    else setGroup g ((fun x : Group => { x with pat := { x.pat with onLen := a, offLen := b }, pending := none })
      (s.lmc.groups.get g)) s := rfl
  rw [e]
  split
  · next hr =>
    rw [setGroup_map (fun x : Group => { x with pending := some (a, b) }) g s (fun _ => rfl)]
    apply withGroups_congr
    intro k
    unfold onlyGroup
    split
    · next hk => subst hk; exact (if_pos hr).symm
    · rfl
  · next hr =>
    rw [setGroup_map (fun x : Group => { x with pat := { x.pat with onLen := a, offLen := b }, pending := none }) g s
      (fun _ => rfl)]
    apply withGroups_congr
    intro k
    unfold onlyGroup
    split
    · next hk => subst hk; exact (if_neg hr).symm
    · rfl

/-! ## Events and scenes, over all groups (R174, R176) -/

/-- The changes of a list of groups, each at its own group. -/
theorem foldl_onlyGroup {op : GroupNo → State → State} (F : GroupNo → Group → Group)
    (hop : ∀ g s, op g s = withGroups (onlyGroup g (F g)) s) :
    ∀ (l : List GroupNo), l.Nodup → ∀ s : State, l.foldl (fun s g => op g s) s =
      withGroups (fun k x => if k ∈ l then F k x else x) s
  | [], _, s => by
    symm
    apply withGroups_id
    intro k
    simp
  | g :: l, hn, s => by
    rw [List.nodup_cons] at hn
    rw [List.foldl_cons, foldl_onlyGroup F hop l hn.2, hop, withGroups_withGroups]
    · apply withGroups_congr
      intro k
      unfold onlyGroup
      by_cases hk : k = g
      · subst hk
        simp [hn.1]
      · simp [hk]
    · intro k x
      unfold onlyGroup
      by_cases hk : k = g
      · subst hk
        rw [if_neg hn.1]
        exact .inr rfl
      · rw [if_neg hk]
        exact .inl rfl

theorem allGroups_nodup : allGroups.Nodup := List.nodup_finRange 24

theorem mem_allGroups (g : GroupNo) : g ∈ allGroups := List.mem_finRange g

theorem foldl_allGroups {op : GroupNo → State → State} (F : GroupNo → Group → Group)
    (hop : ∀ g s, op g s = withGroups (onlyGroup g (F g)) s) (s : State) :
    allGroups.foldl (fun s g => op g s) s = withGroups F s := by
  rw [foldl_onlyGroup F hop allGroups allGroups_nodup]
  apply withGroups_congr
  intro g
  simp [mem_allGroups]

theorem forGroups_eq {p : Group → Bool} {op : GroupNo → State → State} {F : Group → Group}
    (hop : ∀ g s, op g s = withGroups (onlyGroup g F) s) (s : State) :
    forGroups p op s = withGroups (fun _ x => if p x then F x else x) s := by
  unfold forGroups
  apply foldl_allGroups (op := fun g s => if p (groupOf s g) then op g s else s) fun _ x => if p x then F x else x
  intro g s
  split
  · next hp =>
    rw [hop]
    apply withGroups_congr
    intro k
    unfold onlyGroup
    split
    · next hk => subst hk; exact (if_pos hp).symm
    · rfl
  · next hp =>
    symm
    apply withGroups_id
    intro k
    unfold onlyGroup
    split
    · next hk => subst hk; exact if_neg hp
    · rfl

theorem lampStopRequest_eq (s : State) :
    lampStopRequest s = withGroups (fun _ x => if x.source == .stopRequest then afterStart x else x) s :=
  forGroups_eq (fun g s => startGroup_eq g s) s

theorem lampStopEnd_eq (s : State) :
    lampStopEnd s = withGroups (fun _ x => if x.source == .stopRequest && x.follow then afterStop x else x) s :=
  forGroups_eq (fun g s => stopGroup_eq g s) s

theorem lampAnnounceStart_eq (a : Announcement) (s : State) :
    lampAnnounceStart a s = withGroups (fun _ x => if qualifies a.mask a.priority x then afterStart x else x) s :=
  forGroups_eq (fun g s => startGroup_eq g s) s

theorem lampAnnounceEnd_eq (a : Announcement) (s : State) :
    lampAnnounceEnd a s =
      withGroups (fun _ x => if qualifies a.mask a.priority x && x.follow then afterStop x else x) s :=
  forGroups_eq (fun g s => stopGroup_eq g s) s

theorem lampAlarmStart_eq (s : State) :
    lampAlarmStart s = withGroups (fun _ x => if x.source == .alarm then afterStart x else x) s :=
  forGroups_eq (fun g s => startGroup_eq g s) s

theorem lampAlarmEnd_eq (s : State) :
    lampAlarmEnd s = withGroups (fun _ x => if x.source == .alarm && x.follow then afterStop x else x) s :=
  forGroups_eq (fun g s => stopGroup_eq g s) s

theorem lampChain_eq (k : GroupNo) (s : State) :
    lampChain k s = withGroups (fun _ x => if x.source == .chain k then afterStart x else x) s :=
  forGroups_eq (fun g s => startGroup_eq g s) s

/-- What a scene's setting makes of a group. -/
def afterSetting (presets : Vector Pattern 32) (x : Group) : SceneSetting → Group
  | .leave => x
  | .stop => afterStop x
  | .load p => afterStart (afterPattern (presets.get p) x)

theorem afterStart_after_pattern (p : Pattern) (x : Group) : (afterPattern p x).running = x.running ∨
    (afterStart (afterPattern p x)).running = (afterPattern p x).running := by
  unfold afterPattern afterStart afterStop
  by_cases h1 : x.running = true <;> by_cases h2 : p.mode = .off <;> by_cases h3 : p.mode = x.pat.mode <;>
    simp [h1, h2, h3] <;> simp [← h3, h2]

theorem applyScene_eq (n : Fin 16) (s : State) :
    applyScene n s = withGroups (fun g x =>
      if x.hold then x else afterSetting s.lmc.presets x ((s.lmc.scenes.get n).get g)) s := by
  unfold applyScene
  generalize s.lmc.scenes.get n = sc
  have key : ∀ (l : List GroupNo), l.Nodup → ∀ t : State, t.lmc.presets = s.lmc.presets →
      l.foldl (applySetting sc) t = withGroups (fun g x =>
        if g ∈ l then (if x.hold then x else afterSetting s.lmc.presets x (sc.get g)) else x) t := by
    intro l
    induction l with
    | nil =>
      intro _ t _
      symm
      apply withGroups_id
      intro k
      simp
    | cons g l ih =>
      intro hn t ht
      rw [List.nodup_cons] at hn
      have hg : applySetting sc t g = withGroups (onlyGroup g fun x =>
          if x.hold then x else afterSetting s.lmc.presets x (sc.get g)) t := by
        unfold applySetting
        by_cases hh : (groupOf t g).hold = true
        · rw [if_pos hh]
          symm
          apply withGroups_id
          intro k
          unfold onlyGroup
          split
          · next hk => subst hk; exact if_pos hh
          · rfl
        · rw [if_neg hh]
          have hcong : ∀ F : Group → Group, F (groupOf t g) = afterSetting s.lmc.presets (groupOf t g) (sc.get g) →
              withGroups (onlyGroup g F) t = withGroups (onlyGroup g fun x =>
                if x.hold then x else afterSetting s.lmc.presets x (sc.get g)) t := by
            intro F hF
            apply withGroups_congr
            intro k
            unfold onlyGroup
            split
            · next hk =>
              subst hk
              refine hF.trans ?_
              exact (if_neg hh).symm
            · rfl
          split
          · next he =>
            rw [← hcong (fun x => x) (by rw [he]; rfl)]
            symm
            apply withGroups_id
            intro k
            unfold onlyGroup
            split <;> rfl
          · next he => rw [stopGroup_eq]; exact hcong _ (by rw [he]; rfl)
          · next p he =>
            unfold loadPreset
            rw [startGroup_eq, writePattern_eq, ht, onlyGroup_onlyGroup]
            · exact hcong _ (by rw [he]; rfl)
            · intro x
              exact afterStart_after_pattern _ x
      rw [List.foldl_cons, hg, ih hn.2 _ (by simpa only [withGroups] using ht), withGroups_withGroups]
      · apply withGroups_congr
        intro k
        unfold onlyGroup
        by_cases hk : k = g
        · subst hk
          simp [hn.1]
        · simp [hk]
      · intro k x
        unfold onlyGroup
        by_cases hk : k = g
        · subst hk
          rw [if_neg hn.1]
          exact .inr rfl
        · rw [if_neg hk]
          exact .inl rfl
  rw [key allGroups allGroups_nodup s rfl]
  apply withGroups_congr
  intro g
  simp [mem_allGroups]

end Sys2Proof.Laws
end

