-- ==== Sys2Proof/Laws/Requests.lean ====
section
/-! SUPPORT. Requests: a command past warm-up is its operation, and a request that is taken is its owner's change with the
reply at the tail (R23). -/

namespace Sys2Proof.Laws

open Sys2Proof Sys2Proof.Machine

theorem whenRunning_running {f : State → State} {s : State} (h : s.power.running = true) : whenRunning f s = .next (f s) := by
  simp [whenRunning, h]

theorem whenRunning_warm {f : State → State} {s : State} (h : s.power.running = false) : whenRunning f s = .next s := by
  simp [whenRunning, h]

theorem whenLocked_takes {f : State → State} {bc : Bool} {s : State} (h : takes bc s) : whenLocked f s = .next (f s) := by
  simp [whenLocked, whenRunning, h.1, h.2.1]

/-- Out of LOCKED no request reaches CTH (R14, R189). -/
theorem whenLocked_unlocked {f : State → State} {s : State} (h : s.tif.trunk ≠ .locked) : whenLocked f s = .next s := by
  simp [whenLocked, whenRunning, h]

theorem discarded_takes {bc : Bool} {s : State} (h : takes bc s) : discarded bc s = false := by
  obtain ⟨_, _, hp, hl⟩ := h
  cases bc
  · have := hl rfl
    rw [discarded, hp]
    exact decide_eq_false (by simp only [Config.replyPlaces]; omega)
  · simp [discarded, hp]

theorem takeRequest_takes {bc : Bool} {kind : Byte} {f : State → State × Answer} {s t : State} {p : List Byte}
    (h : takes bc s) (hf : f s = (t, .reply p)) : takeRequest bc kind f s = withReply bc kind p t := by
  unfold takeRequest withReply
  rw [discarded_takes h, hf]
  cases bc <;> rfl

/-- A clip memory request that is accepted: its owner's change, with its place RESERVED at the tail (R26, R159). -/
theorem takeRequest_deferred {kind : Byte} {f : State → State × Answer} {s t : State} (h : takes false s)
    (hf : f s = (t, .deferred)) :
    takeRequest false kind f s = { t with cth := { t.cth with replies := t.cth.replies ++
      [{ state := .reserved, kind := kind, payload := [], resetsDeck := false }] } } := by
  unfold takeRequest
  rw [discarded_takes h, hf]
  rfl

/-- A request that is taken and answered at once: the owner's change, with the reply at the tail. -/
theorem request_takes {bc : Bool} {kind : Byte} {f : State → State × Answer} {s t : State} {p : List Byte}
    (h : takes bc s) (hf : f s = (t, .reply p)) :
    whenLocked (takeRequest bc kind f) s = .next (withReply bc kind p t) := by
  rw [whenLocked_takes h, takeRequest_takes h hf]

/-- The same for an action. -/
theorem action_takes {bc : Bool} {f : State → State × Answer} {s t : State} {p : List Byte} (h : takes bc s)
    (hf : f s = (t, .reply p)) : takeAction bc f s = .next (withReply bc 0x83 p t) :=
  request_takes h hf

theorem takeRequest_discarded {bc : Bool} {kind : Byte} {f : State → State × Answer} {s : State}
    (h : s.cth.deckPending = true ∨ (bc = false ∧ 4 ≤ s.cth.replies.length)) : takeRequest bc kind f s = s := by
  unfold takeRequest discarded
  rcases h with h | ⟨rfl, h⟩
  · simp [h]
  · simp [Config.replyPlaces, h]

/-! ## A reply touches CTH's replies only -/

@[simp] theorem withReply_true (k : Byte) (p : List Byte) (s : State) : withReply true k p s = s := rfl

variable (bc : Bool) (k : Byte) (p : List Byte) (s : State)

@[simp] theorem withReply_pending : (withReply bc k p s).pending = s.pending := by cases bc <;> rfl
@[simp] theorem withReply_power : (withReply bc k p s).power = s.power := by cases bc <;> rfl
@[simp] theorem withReply_tif : (withReply bc k p s).tif = s.tif := by cases bc <;> rfl
@[simp] theorem withReply_scc : (withReply bc k p s).scc = s.scc := by cases bc <;> rfl
@[simp] theorem withReply_hmx : (withReply bc k p s).hmx = s.hmx := by cases bc <;> rfl
@[simp] theorem withReply_zou : (withReply bc k p s).zou = s.zou := by cases bc <;> rfl
@[simp] theorem withReply_rce : (withReply bc k p s).rce = s.rce := by cases bc <;> rfl
@[simp] theorem withReply_asq : (withReply bc k p s).asq = s.asq := by cases bc <;> rfl
@[simp] theorem withReply_vpl : (withReply bc k p s).vpl = s.vpl := by cases bc <;> rfl
@[simp] theorem withReply_ccc : (withReply bc k p s).ccc = s.ccc := by cases bc <;> rfl
@[simp] theorem withReply_cmp : (withReply bc k p s).cmp = s.cmp := by cases bc <;> rfl
@[simp] theorem withReply_lmc : (withReply bc k p s).lmc = s.lmc := by cases bc <;> rfl
@[simp] theorem withReply_dev : (withReply bc k p s).dev = s.dev := by cases bc <;> rfl
@[simp] theorem withReply_out : (withReply bc k p s).out = s.out := by cases bc <;> rfl

end Sys2Proof.Laws
end

