-- ==== Sys2Proof/Laws/Slots.lean ====
section
/-! SUPPORT. The events of a slot end: what the events of one order, a period's end and a slot command can touch, said once.
A property that every change of the blocks, of TIF, the device and the ports keeps is kept by them. -/

namespace Sys2Proof.Laws

open Sys2Proof Sys2Proof.Machine

variable {P : State → Prop}

/-- Kept by any change of any record but the queue of commands and the power record. -/
structure SlotClosed (P : State → Prop) : Prop extends ChipClosed P where
  tif : ∀ x s, P s → P { s with tif := x }
  out : ∀ x s, P s → P { s with out := x }

namespace SlotClosed

theorem cacheDev (c : SlotClosed P) (x : Ccc) (y : Cmp) (d : Device) (s : State) (h : P s) :
    P { s with ccc := x, cmp := y, dev := d } :=
  c.dev d _ (c.cache x y s h)

theorem tifOut (c : SlotClosed P) (x : Tif) (y : Ports) (s : State) (h : P s) : P { s with tif := x, out := y } :=
  c.out y _ (c.tif x s h)

theorem seatParts (c : SlotClosed P) (x : Tif) (y : Scc) (z : Hmx) (w : Ports) (s : State) (h : P s) :
    P { s with tif := x, scc := y, hmx := z, out := w } :=
  c.out w _ (c.hmx z _ (c.scc y _ (c.tif x s h)))

theorem recordGrant (c : SlotClosed P) (s : State) (h : P s) : P (recordGrant s) := c.lmc _ s h

theorem serveIgnition (c : SlotClosed P) : ∀ (n : Nat) (s : State), P s → P (serveIgnition n s).1
  | 0, _, h => h
  | n + 1, s, h => by
    unfold Machine.serveIgnition
    split
    · exact h
    · split
      · exact serveIgnition c n _ (c.lmc _ _ (c.setGroup _ _ _ (c.recordGrant s h)))
      · exact h

theorem advanceGroup (c : SlotClosed P) (g : GroupNo) (s : State) (h : P s) : P (advanceGroup s g) := by
  unfold Machine.advanceGroup
  exact keep_ite (c.stopGroup g s h) (keep_ite
    (keep_ite (c.setGroup _ _ _ (c.recordGrant s h)) (c.queueIgnition g _ (c.setGroup _ _ s h))) (c.setGroup _ _ s h))

theorem boundary (c : SlotClosed P) (s : State) (h : P s) : P (boundary s) := by
  unfold Machine.boundary advanceFrame driveRow
  refine keep_ite (c.out _ _ (keep_foldl (fun k t ht => keep_lampChain c.deck.toLampClosed k t ht) _ _
    (keep_foldl (fun g t ht => c.advanceGroup g t ht) _ _ ?_))) h
  split
  · exact c.serveIgnition _ _ (c.lmc _ s h)
  · exact c.lmc _ s h

theorem tickOf (c : SlotClosed P) (b : TickBlock) (s : State) (h : P s) : P (tickOf b s) := by
  cases b
  · exact c.hmx _ s h
  · exact c.zou _ s h
  · exact c.asq _ s h
  · exact c.vpl _ s h
  · exact c.tickCmp s h
  · unfold Machine.tickOf tickLmc driveRow advanceScan
    exact c.out _ _ (keep_ite (c.lmc _ _ (c.lmc _ _ h)) (c.lmc _ _ (c.lmc _ _ h)))

/-- A block takes its tick. -/
theorem tickAt (c : SlotClosed P) (b : TickBlock) (s : State) (h : P s) : P (tickAt b s) :=
  keep_ite (c.tickOf b _ (c.tif _ s h)) h

theorem tickEnds (c : SlotClosed P) (s : State) (h : P s) : P (tickEnds s) :=
  keep_foldl (fun b t ht => c.tickAt b t ht) _ s h

theorem fetchCompletes (c : SlotClosed P) (s : State) (h : P s) : P (fetchCompletes s) := by
  unfold Machine.fetchCompletes
  split
  · exact h
  · exact c.arbiter _ (keep_foldl (fun v t ht => keep_tellValid c.deck.toVoiceClosed _ v t ht) _ _
      (c.cacheDev _ _ _ s h))

theorem memoryReady (c : SlotClosed P) (s : State) (h : P s) : P (memoryReady s) := by
  have hd : P (finishDevice s) := c.dev _ s h
  unfold Machine.memoryReady
  dsimp only
  split
  · exact hd
  · split
    · exact hd
    · exact c.transfer _ _ hd
    · exact c.endMaint _ _ _ hd

theorem maintenanceTimesOut (c : SlotClosed P) (s : State) (h : P s) : P (maintenanceTimesOut s) := by
  unfold Machine.maintenanceTimesOut
  split
  · exact h
  · exact keep_ite h (c.endMaint _ _ _ (keep_ite (c.dev _ s h) h))

/-- An event of the clock, the counts or the ports. -/
theorem takeEvent (c : SlotClosed P) (e : EndEvent) (s : State) (h : P s) : P (takeEvent e s) := by
  cases e
  case tick => exact c.tickEnds s h
  case tickAt b => exact c.tickAt b s h
  case downstreamReturnFrame f => exact keep_ite (c.tif _ s h) h
  case boxReply r => exact keep_takeReply c.deck r s h
  case deckResetEffect => exact c.deckResetEffect s h
  case talkHangExpiry => exact keep_hangExpires c.deck.toAsqClosed s h
  case voicesFinished => exact keep_takeReport c.deck.toAsqClosed s h
  case gapExpiry v => exact keep_gapExpires c.deck.toVoiceClosed v s h
  case clipStall v => exact keep_clipStalls c.deck.toVoiceClosed c.pushNotice v s h
  case fadeEnd v => exact keep_fadeEnds c.deck.toVoiceClosed v s h
  case fetchComplete => exact c.fetchCompletes s h
  case memoryReady => exact c.memoryReady s h
  case maintenanceTimeout => exact c.maintenanceTimesOut s h
  case scanFrameBoundary => exact c.boundary s h
  case supplyRampDone => exact c.rampDone s h
  case supplyRampTimeout => exact c.rampTimeout s h
  case supplyGoodLost => exact c.goodLost s h
  case deckAlarmInput low => exact c.alarmLine low s h
  case overrideClear => exact c.overrideClears s h

/-- An event of a slot end. -/
theorem slotEvent (c : SlotClosed P) (old new : Tif) (ce : ControlEvent) (waits : CueOwner → Bool) (e : SlotEvent) (s : State)
    (h : P s) : P (slotEvent old new ce waits s e) := by
  cases e
  case trunkNotice => exact keep_ite (c.pushNotice _ s h) (keep_ite (c.pushNotice _ s h) h)
  case control =>
    cases ce
    · exact keep_takeDue c.deck _ _ (c.takeSlot _ s h)
    · exact c.cth _ s h
    · exact h
  case route =>
    have ht := c.tif { s.tif with drive := withRouteFields s.tif.drive new.drive } s h
    exact keep_takeDue c.deck _ _ (keep_ite ht (keep_routeChange c.deck _ ht))
  case talk =>
    exact keep_ite (keep_ite h (keep_talkRise c.deck.toAsqClosed s h))
      (keep_ite (keep_talkFall c.deck.toAsqClosed s h) h)
  case alarm => exact keep_ite h (c.overrideEvent _ (c.lmc _ s h))
  case voice v => exact keep_followSample c.deck.toVoiceClosed v s h
  case delivery o => exact keep_takeNext c.deck o s h
  case also e => exact c.takeEvent e s h

/-- The events of a slot end, in whatever order. -/
theorem takeEvents (c : SlotClosed P) (old new : Tif) (ce : ControlEvent) (order : List SlotEvent) (s : State) (h : P s) :
    P (takeEvents old new ce order s) :=
  keep_settle c.deck _ (keep_foldl (fun e t ht => c.slotEvent old new ce _ e t ht) _ s h)

theorem sendReturn (c : SlotClosed P) (n : Byte) (b : Bool) (s : State) (h : P s) : P (sendReturn n b s) := by
  unfold Machine.sendReturn
  dsimp only
  refine c.tifOut _ _ _ ?_
  split
  · split
    · exact c.returnTurn s h
    · exact h
  · exact h

/-- A period's end. -/
theorem endPeriod (c : SlotClosed P) (new : Tif) (b : Bool) (ce : ControlEvent) (order : List SlotEvent) (s : State)
    (h : P s) : P (endPeriod new b ce order s) := by
  have hp : P (playVoices (Machine.sendReturn new.counter b s)).1 :=
    keep_playVoices c.deck.toVoiceClosed _ (c.sendReturn _ _ s h)
  unfold Machine.endPeriod
  dsimp only
  refine c.takeEvents _ _ _ _ _ ?_
  generalize (playVoices (Machine.sendReturn new.counter b s)).1 = t at hp ⊢
  exact c.seatParts _ _ _ _ t hp

theorem validSlot (c : SlotClosed P) (f : Vector Word16 21) (order : List SlotEvent) (s : State) (h : P s) :
    P (validSlot f order s) := c.endPeriod _ _ _ _ s h

theorem invalidSlot (c : SlotClosed P) (order : List SlotEvent) (s : State) (h : P s) : P (invalidSlot order s) :=
  c.endPeriod _ _ _ _ s h

theorem forward (c : SlotClosed P) (ws : TrunkWords) (x : Option ShortFrames) (s : State) (h : P s) :
    P (forward ws x s) := c.out _ s h

/-- A slot command. -/
theorem slotEnds (c : SlotClosed P) (ws : TrunkWords) (short order : List SlotEvent) (s : State) (h : P s) :
    P (slotEnds ws short order s) := by
  unfold Machine.slotEnds
  split <;> split
  · exact c.forward _ _ _ (c.validSlot _ _ s h)
  · exact c.forward _ _ _ (c.invalidSlot _ s h)
  · exact c.forward _ _ _ (c.validSlot _ _ _ (c.endPeriod _ _ _ _ s h))
  · exact c.forward _ _ _ (c.invalidSlot _ s h)

end SlotClosed

/-- What no event touches: the queue of commands and the power record. -/
structure Outer (s t : State) : Prop where
  pending : t.pending = s.pending
  power : t.power = s.power

theorem Outer.refl (s : State) : Outer s s := ⟨rfl, rfl⟩

theorem outer_closed (s : State) : SlotClosed (Outer s) where
  cth := fun _ _ h => ⟨h.pending, h.power⟩
  scc := fun _ _ h => ⟨h.pending, h.power⟩
  hmx := fun _ _ h => ⟨h.pending, h.power⟩
  zou := fun _ _ h => ⟨h.pending, h.power⟩
  rce := fun _ _ h => ⟨h.pending, h.power⟩
  asq := fun _ _ h => ⟨h.pending, h.power⟩
  vpl := fun _ _ h => ⟨h.pending, h.power⟩
  ccc := fun _ _ h => ⟨h.pending, h.power⟩
  cmp := fun _ _ h => ⟨h.pending, h.power⟩
  lmc := fun _ _ h => ⟨h.pending, h.power⟩
  tif := fun _ _ h => ⟨h.pending, h.power⟩
  dev := fun _ _ h => ⟨h.pending, h.power⟩
  out := fun _ _ h => ⟨h.pending, h.power⟩

/-- A slot command leaves the queue of commands and the power record as they were. -/
theorem slotEnds_outer (ws : TrunkWords) (short order : List SlotEvent) (s : State) : Outer s (slotEnds ws short order s) :=
  (outer_closed s).slotEnds ws short order s (Outer.refl s)

/-! ## Where nothing is due -/

@[simp] theorem boundary_none {s : State} (h : s.lmc.boundaryDue = false) : boundary s = s := by simp [boundary, h]

@[simp] theorem tickAt_none {b : TickBlock} {s : State} (h : b ∉ s.tif.tickFor) : tickAt b s = s := by simp [tickAt, h]

@[simp] theorem tickEnds_none {s : State} (h : s.tif.tickFor = []) : tickEnds s = s := by
  simp [tickEnds, tickBlocks, tickAt, h]

theorem boundary_due {s : State} (h : s.lmc.boundaryDue = true) : boundary s = advanceFrame s := by simp [boundary, h]

/-- A block that takes its tick is no longer due it, and its part of the tick is made (R5). -/
theorem tickAt_due {b : TickBlock} {s : State} (h : b ∈ s.tif.tickFor) :
    tickAt b s = tickOf b { s with tif := { s.tif with tickFor := s.tif.tickFor.filter (· != b) } } := by
  simp [tickAt, h]

/-- With no delivery waiting there is none to take (R102). -/
theorem takeDue_none {s : State} (waits : CueOwner → Bool) (h : s.rce.due = []) : takeDue waits s = s := by
  obtain ⟨pending, power, tif, cth, scc, hmx, zou, rce, asq, vpl, ccc, cmp, lmc, dev, out⟩ := s
  obtain ⟨cues, count, state, armedTag, cursor, lastOdo, due⟩ := rce
  subst h
  rfl

theorem settle_none {s : State} (h : s.rce.due = []) : settle s = s := takeDue_none _ h

/-- With no delivery waiting for it a block takes none (R102). -/
theorem takeNext_none {s : State} (o : CueOwner) (h : s.rce.due = []) : takeNext o s = s := by
  simp [takeNext, h, takeFirst]

/-- A reply where none is awaited is discarded (R44). -/
theorem takeReply_none {s : State} (r : Option (Vector Word16 3)) (h : s.scc.awaited = none) : takeReply r s = s := by
  simp [takeReply, h]

end Sys2Proof.Laws
end

