-- ==== Sys2Proof/Laws/State.lean ====
section
/-! SUPPORT. Each field of the state after each update of one block: the updated block is the new record, every other field
stands. -/

namespace Sys2Proof.Laws

open Sys2Proof Sys2Proof.Machine

/-! ## setAsq -/

@[simp] theorem setAsq_pending (a : Asq) (s : State) : (setAsq a s).pending = s.pending := by unfold setAsq; rfl
@[simp] theorem setAsq_power (a : Asq) (s : State) : (setAsq a s).power = s.power := by unfold setAsq; rfl
@[simp] theorem setAsq_tif (a : Asq) (s : State) : (setAsq a s).tif = s.tif := by unfold setAsq; rfl
@[simp] theorem setAsq_cth (a : Asq) (s : State) : (setAsq a s).cth = s.cth := by unfold setAsq; rfl
@[simp] theorem setAsq_scc (a : Asq) (s : State) : (setAsq a s).scc = s.scc := by unfold setAsq; rfl
@[simp] theorem setAsq_hmx (a : Asq) (s : State) : (setAsq a s).hmx = s.hmx := by unfold setAsq; rfl
@[simp] theorem setAsq_zou (a : Asq) (s : State) : (setAsq a s).zou = s.zou := by unfold setAsq; rfl
@[simp] theorem setAsq_rce (a : Asq) (s : State) : (setAsq a s).rce = s.rce := by unfold setAsq; rfl
@[simp] theorem setAsq_asq (a : Asq) (s : State) :
    (setAsq a s).asq = a := by
  unfold setAsq; rfl
@[simp] theorem setAsq_vpl (a : Asq) (s : State) : (setAsq a s).vpl = s.vpl := by unfold setAsq; rfl
@[simp] theorem setAsq_ccc (a : Asq) (s : State) : (setAsq a s).ccc = s.ccc := by unfold setAsq; rfl
@[simp] theorem setAsq_cmp (a : Asq) (s : State) : (setAsq a s).cmp = s.cmp := by unfold setAsq; rfl
@[simp] theorem setAsq_lmc (a : Asq) (s : State) : (setAsq a s).lmc = s.lmc := by unfold setAsq; rfl
@[simp] theorem setAsq_dev (a : Asq) (s : State) : (setAsq a s).dev = s.dev := by unfold setAsq; rfl
@[simp] theorem setAsq_out (a : Asq) (s : State) : (setAsq a s).out = s.out := by unfold setAsq; rfl

/-! ## setRce -/

@[simp] theorem setRce_pending (r : Rce) (s : State) : (setRce r s).pending = s.pending := by unfold setRce; rfl
@[simp] theorem setRce_power (r : Rce) (s : State) : (setRce r s).power = s.power := by unfold setRce; rfl
@[simp] theorem setRce_tif (r : Rce) (s : State) : (setRce r s).tif = s.tif := by unfold setRce; rfl
@[simp] theorem setRce_cth (r : Rce) (s : State) : (setRce r s).cth = s.cth := by unfold setRce; rfl
@[simp] theorem setRce_scc (r : Rce) (s : State) : (setRce r s).scc = s.scc := by unfold setRce; rfl
@[simp] theorem setRce_hmx (r : Rce) (s : State) : (setRce r s).hmx = s.hmx := by unfold setRce; rfl
@[simp] theorem setRce_zou (r : Rce) (s : State) : (setRce r s).zou = s.zou := by unfold setRce; rfl
@[simp] theorem setRce_rce (r : Rce) (s : State) :
    (setRce r s).rce = r := by
  unfold setRce; rfl
@[simp] theorem setRce_asq (r : Rce) (s : State) : (setRce r s).asq = s.asq := by unfold setRce; rfl
@[simp] theorem setRce_vpl (r : Rce) (s : State) : (setRce r s).vpl = s.vpl := by unfold setRce; rfl
@[simp] theorem setRce_ccc (r : Rce) (s : State) : (setRce r s).ccc = s.ccc := by unfold setRce; rfl
@[simp] theorem setRce_cmp (r : Rce) (s : State) : (setRce r s).cmp = s.cmp := by unfold setRce; rfl
@[simp] theorem setRce_lmc (r : Rce) (s : State) : (setRce r s).lmc = s.lmc := by unfold setRce; rfl
@[simp] theorem setRce_dev (r : Rce) (s : State) : (setRce r s).dev = s.dev := by unfold setRce; rfl
@[simp] theorem setRce_out (r : Rce) (s : State) : (setRce r s).out = s.out := by unfold setRce; rfl

/-! ## setSeat -/

@[simp] theorem setSeat_pending (i : SeatNo) (x : Seat) (s : State) : (setSeat i x s).pending = s.pending := by unfold setSeat; rfl
@[simp] theorem setSeat_power (i : SeatNo) (x : Seat) (s : State) : (setSeat i x s).power = s.power := by unfold setSeat; rfl
@[simp] theorem setSeat_tif (i : SeatNo) (x : Seat) (s : State) : (setSeat i x s).tif = s.tif := by unfold setSeat; rfl
@[simp] theorem setSeat_cth (i : SeatNo) (x : Seat) (s : State) : (setSeat i x s).cth = s.cth := by unfold setSeat; rfl
@[simp] theorem setSeat_scc (i : SeatNo) (x : Seat) (s : State) :
    (setSeat i x s).scc = { s.scc with seats := put s.scc.seats i x } := by
  unfold setSeat; rfl
@[simp] theorem setSeat_hmx (i : SeatNo) (x : Seat) (s : State) : (setSeat i x s).hmx = s.hmx := by unfold setSeat; rfl
@[simp] theorem setSeat_zou (i : SeatNo) (x : Seat) (s : State) : (setSeat i x s).zou = s.zou := by unfold setSeat; rfl
@[simp] theorem setSeat_rce (i : SeatNo) (x : Seat) (s : State) : (setSeat i x s).rce = s.rce := by unfold setSeat; rfl
@[simp] theorem setSeat_asq (i : SeatNo) (x : Seat) (s : State) : (setSeat i x s).asq = s.asq := by unfold setSeat; rfl
@[simp] theorem setSeat_vpl (i : SeatNo) (x : Seat) (s : State) : (setSeat i x s).vpl = s.vpl := by unfold setSeat; rfl
@[simp] theorem setSeat_ccc (i : SeatNo) (x : Seat) (s : State) : (setSeat i x s).ccc = s.ccc := by unfold setSeat; rfl
@[simp] theorem setSeat_cmp (i : SeatNo) (x : Seat) (s : State) : (setSeat i x s).cmp = s.cmp := by unfold setSeat; rfl
@[simp] theorem setSeat_lmc (i : SeatNo) (x : Seat) (s : State) : (setSeat i x s).lmc = s.lmc := by unfold setSeat; rfl
@[simp] theorem setSeat_dev (i : SeatNo) (x : Seat) (s : State) : (setSeat i x s).dev = s.dev := by unfold setSeat; rfl
@[simp] theorem setSeat_out (i : SeatNo) (x : Seat) (s : State) : (setSeat i x s).out = s.out := by unfold setSeat; rfl

/-! ## setBox -/

@[simp] theorem setBox_pending (b : BoxNo) (x : Box) (s : State) : (setBox b x s).pending = s.pending := by unfold setBox; rfl
@[simp] theorem setBox_power (b : BoxNo) (x : Box) (s : State) : (setBox b x s).power = s.power := by unfold setBox; rfl
@[simp] theorem setBox_tif (b : BoxNo) (x : Box) (s : State) : (setBox b x s).tif = s.tif := by unfold setBox; rfl
@[simp] theorem setBox_cth (b : BoxNo) (x : Box) (s : State) : (setBox b x s).cth = s.cth := by unfold setBox; rfl
@[simp] theorem setBox_scc (b : BoxNo) (x : Box) (s : State) :
    (setBox b x s).scc = { s.scc with boxes := put s.scc.boxes b x } := by
  unfold setBox; rfl
@[simp] theorem setBox_hmx (b : BoxNo) (x : Box) (s : State) : (setBox b x s).hmx = s.hmx := by unfold setBox; rfl
@[simp] theorem setBox_zou (b : BoxNo) (x : Box) (s : State) : (setBox b x s).zou = s.zou := by unfold setBox; rfl
@[simp] theorem setBox_rce (b : BoxNo) (x : Box) (s : State) : (setBox b x s).rce = s.rce := by unfold setBox; rfl
@[simp] theorem setBox_asq (b : BoxNo) (x : Box) (s : State) : (setBox b x s).asq = s.asq := by unfold setBox; rfl
@[simp] theorem setBox_vpl (b : BoxNo) (x : Box) (s : State) : (setBox b x s).vpl = s.vpl := by unfold setBox; rfl
@[simp] theorem setBox_ccc (b : BoxNo) (x : Box) (s : State) : (setBox b x s).ccc = s.ccc := by unfold setBox; rfl
@[simp] theorem setBox_cmp (b : BoxNo) (x : Box) (s : State) : (setBox b x s).cmp = s.cmp := by unfold setBox; rfl
@[simp] theorem setBox_lmc (b : BoxNo) (x : Box) (s : State) : (setBox b x s).lmc = s.lmc := by unfold setBox; rfl
@[simp] theorem setBox_dev (b : BoxNo) (x : Box) (s : State) : (setBox b x s).dev = s.dev := by unfold setBox; rfl
@[simp] theorem setBox_out (b : BoxNo) (x : Box) (s : State) : (setBox b x s).out = s.out := by unfold setBox; rfl

/-! ## setVoice -/

@[simp] theorem setVoice_pending (v : VoiceNo) (x : Voice) (s : State) : (setVoice v x s).pending = s.pending := by unfold setVoice; rfl
@[simp] theorem setVoice_power (v : VoiceNo) (x : Voice) (s : State) : (setVoice v x s).power = s.power := by unfold setVoice; rfl
@[simp] theorem setVoice_tif (v : VoiceNo) (x : Voice) (s : State) : (setVoice v x s).tif = s.tif := by unfold setVoice; rfl
@[simp] theorem setVoice_cth (v : VoiceNo) (x : Voice) (s : State) : (setVoice v x s).cth = s.cth := by unfold setVoice; rfl
@[simp] theorem setVoice_scc (v : VoiceNo) (x : Voice) (s : State) : (setVoice v x s).scc = s.scc := by unfold setVoice; rfl
@[simp] theorem setVoice_hmx (v : VoiceNo) (x : Voice) (s : State) : (setVoice v x s).hmx = s.hmx := by unfold setVoice; rfl
@[simp] theorem setVoice_zou (v : VoiceNo) (x : Voice) (s : State) : (setVoice v x s).zou = s.zou := by unfold setVoice; rfl
@[simp] theorem setVoice_rce (v : VoiceNo) (x : Voice) (s : State) : (setVoice v x s).rce = s.rce := by unfold setVoice; rfl
@[simp] theorem setVoice_asq (v : VoiceNo) (x : Voice) (s : State) : (setVoice v x s).asq = s.asq := by unfold setVoice; rfl
@[simp] theorem setVoice_vpl (v : VoiceNo) (x : Voice) (s : State) :
    (setVoice v x s).vpl = { s.vpl with voices := put s.vpl.voices v x } := by
  unfold setVoice; rfl
@[simp] theorem setVoice_ccc (v : VoiceNo) (x : Voice) (s : State) : (setVoice v x s).ccc = s.ccc := by unfold setVoice; rfl
@[simp] theorem setVoice_cmp (v : VoiceNo) (x : Voice) (s : State) : (setVoice v x s).cmp = s.cmp := by unfold setVoice; rfl
@[simp] theorem setVoice_lmc (v : VoiceNo) (x : Voice) (s : State) : (setVoice v x s).lmc = s.lmc := by unfold setVoice; rfl
@[simp] theorem setVoice_dev (v : VoiceNo) (x : Voice) (s : State) : (setVoice v x s).dev = s.dev := by unfold setVoice; rfl
@[simp] theorem setVoice_out (v : VoiceNo) (x : Voice) (s : State) : (setVoice v x s).out = s.out := by unfold setVoice; rfl

/-! ## setRendering -/

@[simp] theorem setRendering_pending (r : Option RenderRec) (s : State) : (setRendering r s).pending = s.pending := by unfold setRendering; rfl
@[simp] theorem setRendering_power (r : Option RenderRec) (s : State) : (setRendering r s).power = s.power := by unfold setRendering; rfl
@[simp] theorem setRendering_tif (r : Option RenderRec) (s : State) : (setRendering r s).tif = s.tif := by unfold setRendering; rfl
@[simp] theorem setRendering_cth (r : Option RenderRec) (s : State) : (setRendering r s).cth = s.cth := by unfold setRendering; rfl
@[simp] theorem setRendering_scc (r : Option RenderRec) (s : State) : (setRendering r s).scc = s.scc := by unfold setRendering; rfl
@[simp] theorem setRendering_hmx (r : Option RenderRec) (s : State) : (setRendering r s).hmx = s.hmx := by unfold setRendering; rfl
@[simp] theorem setRendering_zou (r : Option RenderRec) (s : State) : (setRendering r s).zou = s.zou := by unfold setRendering; rfl
@[simp] theorem setRendering_rce (r : Option RenderRec) (s : State) : (setRendering r s).rce = s.rce := by unfold setRendering; rfl
@[simp] theorem setRendering_asq (r : Option RenderRec) (s : State) : (setRendering r s).asq = s.asq := by unfold setRendering; rfl
@[simp] theorem setRendering_vpl (r : Option RenderRec) (s : State) :
    (setRendering r s).vpl = { s.vpl with rendering := r } := by
  unfold setRendering; rfl
@[simp] theorem setRendering_ccc (r : Option RenderRec) (s : State) : (setRendering r s).ccc = s.ccc := by unfold setRendering; rfl
@[simp] theorem setRendering_cmp (r : Option RenderRec) (s : State) : (setRendering r s).cmp = s.cmp := by unfold setRendering; rfl
@[simp] theorem setRendering_lmc (r : Option RenderRec) (s : State) : (setRendering r s).lmc = s.lmc := by unfold setRendering; rfl
@[simp] theorem setRendering_dev (r : Option RenderRec) (s : State) : (setRendering r s).dev = s.dev := by unfold setRendering; rfl
@[simp] theorem setRendering_out (r : Option RenderRec) (s : State) : (setRendering r s).out = s.out := by unfold setRendering; rfl

/-! ## setLine -/

@[simp] theorem setLine_pending (i : LineNo) (x : Line) (s : State) : (setLine i x s).pending = s.pending := by unfold setLine; rfl
@[simp] theorem setLine_power (i : LineNo) (x : Line) (s : State) : (setLine i x s).power = s.power := by unfold setLine; rfl
@[simp] theorem setLine_tif (i : LineNo) (x : Line) (s : State) : (setLine i x s).tif = s.tif := by unfold setLine; rfl
@[simp] theorem setLine_cth (i : LineNo) (x : Line) (s : State) : (setLine i x s).cth = s.cth := by unfold setLine; rfl
@[simp] theorem setLine_scc (i : LineNo) (x : Line) (s : State) : (setLine i x s).scc = s.scc := by unfold setLine; rfl
@[simp] theorem setLine_hmx (i : LineNo) (x : Line) (s : State) : (setLine i x s).hmx = s.hmx := by unfold setLine; rfl
@[simp] theorem setLine_zou (i : LineNo) (x : Line) (s : State) : (setLine i x s).zou = s.zou := by unfold setLine; rfl
@[simp] theorem setLine_rce (i : LineNo) (x : Line) (s : State) : (setLine i x s).rce = s.rce := by unfold setLine; rfl
@[simp] theorem setLine_asq (i : LineNo) (x : Line) (s : State) : (setLine i x s).asq = s.asq := by unfold setLine; rfl
@[simp] theorem setLine_vpl (i : LineNo) (x : Line) (s : State) : (setLine i x s).vpl = s.vpl := by unfold setLine; rfl
@[simp] theorem setLine_ccc (i : LineNo) (x : Line) (s : State) :
    (setLine i x s).ccc = { s.ccc with lines := put s.ccc.lines i x } := by
  unfold setLine; rfl
@[simp] theorem setLine_cmp (i : LineNo) (x : Line) (s : State) : (setLine i x s).cmp = s.cmp := by unfold setLine; rfl
@[simp] theorem setLine_lmc (i : LineNo) (x : Line) (s : State) : (setLine i x s).lmc = s.lmc := by unfold setLine; rfl
@[simp] theorem setLine_dev (i : LineNo) (x : Line) (s : State) : (setLine i x s).dev = s.dev := by unfold setLine; rfl
@[simp] theorem setLine_out (i : LineNo) (x : Line) (s : State) : (setLine i x s).out = s.out := by unfold setLine; rfl

/-! ## setGroup -/

@[simp] theorem setGroup_pending (g : GroupNo) (x : Group) (s : State) : (setGroup g x s).pending = s.pending := by unfold setGroup; rfl
@[simp] theorem setGroup_power (g : GroupNo) (x : Group) (s : State) : (setGroup g x s).power = s.power := by unfold setGroup; rfl
@[simp] theorem setGroup_tif (g : GroupNo) (x : Group) (s : State) : (setGroup g x s).tif = s.tif := by unfold setGroup; rfl
@[simp] theorem setGroup_cth (g : GroupNo) (x : Group) (s : State) : (setGroup g x s).cth = s.cth := by unfold setGroup; rfl
@[simp] theorem setGroup_scc (g : GroupNo) (x : Group) (s : State) : (setGroup g x s).scc = s.scc := by unfold setGroup; rfl
@[simp] theorem setGroup_hmx (g : GroupNo) (x : Group) (s : State) : (setGroup g x s).hmx = s.hmx := by unfold setGroup; rfl
@[simp] theorem setGroup_zou (g : GroupNo) (x : Group) (s : State) : (setGroup g x s).zou = s.zou := by unfold setGroup; rfl
@[simp] theorem setGroup_rce (g : GroupNo) (x : Group) (s : State) : (setGroup g x s).rce = s.rce := by unfold setGroup; rfl
@[simp] theorem setGroup_asq (g : GroupNo) (x : Group) (s : State) : (setGroup g x s).asq = s.asq := by unfold setGroup; rfl
@[simp] theorem setGroup_vpl (g : GroupNo) (x : Group) (s : State) : (setGroup g x s).vpl = s.vpl := by unfold setGroup; rfl
@[simp] theorem setGroup_ccc (g : GroupNo) (x : Group) (s : State) : (setGroup g x s).ccc = s.ccc := by unfold setGroup; rfl
@[simp] theorem setGroup_cmp (g : GroupNo) (x : Group) (s : State) : (setGroup g x s).cmp = s.cmp := by unfold setGroup; rfl
@[simp] theorem setGroup_lmc (g : GroupNo) (x : Group) (s : State) :
    (setGroup g x s).lmc = { s.lmc with groups := put s.lmc.groups g x } := by
  unfold setGroup; rfl
@[simp] theorem setGroup_dev (g : GroupNo) (x : Group) (s : State) : (setGroup g x s).dev = s.dev := by unfold setGroup; rfl
@[simp] theorem setGroup_out (g : GroupNo) (x : Group) (s : State) : (setGroup g x s).out = s.out := by unfold setGroup; rfl

/-! ## setOverride -/

@[simp] theorem setOverride_pending (x : Override) (s : State) : (setOverride x s).pending = s.pending := by unfold setOverride; rfl
@[simp] theorem setOverride_power (x : Override) (s : State) : (setOverride x s).power = s.power := by unfold setOverride; rfl
@[simp] theorem setOverride_tif (x : Override) (s : State) : (setOverride x s).tif = s.tif := by unfold setOverride; rfl
@[simp] theorem setOverride_cth (x : Override) (s : State) : (setOverride x s).cth = s.cth := by unfold setOverride; rfl
@[simp] theorem setOverride_scc (x : Override) (s : State) : (setOverride x s).scc = s.scc := by unfold setOverride; rfl
@[simp] theorem setOverride_hmx (x : Override) (s : State) : (setOverride x s).hmx = s.hmx := by unfold setOverride; rfl
@[simp] theorem setOverride_zou (x : Override) (s : State) : (setOverride x s).zou = s.zou := by unfold setOverride; rfl
@[simp] theorem setOverride_rce (x : Override) (s : State) : (setOverride x s).rce = s.rce := by unfold setOverride; rfl
@[simp] theorem setOverride_asq (x : Override) (s : State) : (setOverride x s).asq = s.asq := by unfold setOverride; rfl
@[simp] theorem setOverride_vpl (x : Override) (s : State) : (setOverride x s).vpl = s.vpl := by unfold setOverride; rfl
@[simp] theorem setOverride_ccc (x : Override) (s : State) : (setOverride x s).ccc = s.ccc := by unfold setOverride; rfl
@[simp] theorem setOverride_cmp (x : Override) (s : State) : (setOverride x s).cmp = s.cmp := by unfold setOverride; rfl
@[simp] theorem setOverride_lmc (x : Override) (s : State) :
    (setOverride x s).lmc = { s.lmc with override := x, releaseCount := 0 } := by
  unfold setOverride; rfl
@[simp] theorem setOverride_dev (x : Override) (s : State) : (setOverride x s).dev = s.dev := by unfold setOverride; rfl
@[simp] theorem setOverride_out (x : Override) (s : State) : (setOverride x s).out = s.out := by unfold setOverride; rfl

/-! ## setAssembly -/

@[simp] theorem setAssembly_pending (a : Option Assembly) (s : State) : (setAssembly a s).pending = s.pending := by unfold setAssembly; rfl
@[simp] theorem setAssembly_power (a : Option Assembly) (s : State) : (setAssembly a s).power = s.power := by unfold setAssembly; rfl
@[simp] theorem setAssembly_tif (a : Option Assembly) (s : State) : (setAssembly a s).tif = s.tif := by unfold setAssembly; rfl
@[simp] theorem setAssembly_cth (a : Option Assembly) (s : State) :
    (setAssembly a s).cth = { s.cth with assembly := a } := by
  unfold setAssembly; rfl
@[simp] theorem setAssembly_scc (a : Option Assembly) (s : State) : (setAssembly a s).scc = s.scc := by unfold setAssembly; rfl
@[simp] theorem setAssembly_hmx (a : Option Assembly) (s : State) : (setAssembly a s).hmx = s.hmx := by unfold setAssembly; rfl
@[simp] theorem setAssembly_zou (a : Option Assembly) (s : State) : (setAssembly a s).zou = s.zou := by unfold setAssembly; rfl
@[simp] theorem setAssembly_rce (a : Option Assembly) (s : State) : (setAssembly a s).rce = s.rce := by unfold setAssembly; rfl
@[simp] theorem setAssembly_asq (a : Option Assembly) (s : State) : (setAssembly a s).asq = s.asq := by unfold setAssembly; rfl
@[simp] theorem setAssembly_vpl (a : Option Assembly) (s : State) : (setAssembly a s).vpl = s.vpl := by unfold setAssembly; rfl
@[simp] theorem setAssembly_ccc (a : Option Assembly) (s : State) : (setAssembly a s).ccc = s.ccc := by unfold setAssembly; rfl
@[simp] theorem setAssembly_cmp (a : Option Assembly) (s : State) : (setAssembly a s).cmp = s.cmp := by unfold setAssembly; rfl
@[simp] theorem setAssembly_lmc (a : Option Assembly) (s : State) : (setAssembly a s).lmc = s.lmc := by unfold setAssembly; rfl
@[simp] theorem setAssembly_dev (a : Option Assembly) (s : State) : (setAssembly a s).dev = s.dev := by unfold setAssembly; rfl
@[simp] theorem setAssembly_out (a : Option Assembly) (s : State) : (setAssembly a s).out = s.out := by unfold setAssembly; rfl

/-! ## addPlace -/

@[simp] theorem addPlace_pending (p : Place) (s : State) : (addPlace p s).pending = s.pending := by unfold addPlace; rfl
@[simp] theorem addPlace_power (p : Place) (s : State) : (addPlace p s).power = s.power := by unfold addPlace; rfl
@[simp] theorem addPlace_tif (p : Place) (s : State) : (addPlace p s).tif = s.tif := by unfold addPlace; rfl
@[simp] theorem addPlace_cth (p : Place) (s : State) :
    (addPlace p s).cth = { s.cth with replies := s.cth.replies ++ [p] } := by
  unfold addPlace; rfl
@[simp] theorem addPlace_scc (p : Place) (s : State) : (addPlace p s).scc = s.scc := by unfold addPlace; rfl
@[simp] theorem addPlace_hmx (p : Place) (s : State) : (addPlace p s).hmx = s.hmx := by unfold addPlace; rfl
@[simp] theorem addPlace_zou (p : Place) (s : State) : (addPlace p s).zou = s.zou := by unfold addPlace; rfl
@[simp] theorem addPlace_rce (p : Place) (s : State) : (addPlace p s).rce = s.rce := by unfold addPlace; rfl
@[simp] theorem addPlace_asq (p : Place) (s : State) : (addPlace p s).asq = s.asq := by unfold addPlace; rfl
@[simp] theorem addPlace_vpl (p : Place) (s : State) : (addPlace p s).vpl = s.vpl := by unfold addPlace; rfl
@[simp] theorem addPlace_ccc (p : Place) (s : State) : (addPlace p s).ccc = s.ccc := by unfold addPlace; rfl
@[simp] theorem addPlace_cmp (p : Place) (s : State) : (addPlace p s).cmp = s.cmp := by unfold addPlace; rfl
@[simp] theorem addPlace_lmc (p : Place) (s : State) : (addPlace p s).lmc = s.lmc := by unfold addPlace; rfl
@[simp] theorem addPlace_dev (p : Place) (s : State) : (addPlace p s).dev = s.dev := by unfold addPlace; rfl
@[simp] theorem addPlace_out (p : Place) (s : State) : (addPlace p s).out = s.out := by unfold addPlace; rfl

/-! ## setQuiet -/

@[simp] theorem setQuiet_pending (m : ZoneMask) (on : Bool) (s : State) : (setQuiet m on s).pending = s.pending := by unfold setQuiet; rfl
@[simp] theorem setQuiet_power (m : ZoneMask) (on : Bool) (s : State) : (setQuiet m on s).power = s.power := by unfold setQuiet; rfl
@[simp] theorem setQuiet_tif (m : ZoneMask) (on : Bool) (s : State) : (setQuiet m on s).tif = s.tif := by unfold setQuiet; rfl
@[simp] theorem setQuiet_cth (m : ZoneMask) (on : Bool) (s : State) : (setQuiet m on s).cth = s.cth := by unfold setQuiet; rfl
@[simp] theorem setQuiet_scc (m : ZoneMask) (on : Bool) (s : State) : (setQuiet m on s).scc = s.scc := by unfold setQuiet; rfl
@[simp] theorem setQuiet_hmx (m : ZoneMask) (on : Bool) (s : State) : (setQuiet m on s).hmx = s.hmx := by unfold setQuiet; rfl
@[simp] theorem setQuiet_rce (m : ZoneMask) (on : Bool) (s : State) : (setQuiet m on s).rce = s.rce := by unfold setQuiet; rfl
@[simp] theorem setQuiet_asq (m : ZoneMask) (on : Bool) (s : State) : (setQuiet m on s).asq = s.asq := by unfold setQuiet; rfl
@[simp] theorem setQuiet_vpl (m : ZoneMask) (on : Bool) (s : State) : (setQuiet m on s).vpl = s.vpl := by unfold setQuiet; rfl
@[simp] theorem setQuiet_ccc (m : ZoneMask) (on : Bool) (s : State) : (setQuiet m on s).ccc = s.ccc := by unfold setQuiet; rfl
@[simp] theorem setQuiet_cmp (m : ZoneMask) (on : Bool) (s : State) : (setQuiet m on s).cmp = s.cmp := by unfold setQuiet; rfl
@[simp] theorem setQuiet_lmc (m : ZoneMask) (on : Bool) (s : State) : (setQuiet m on s).lmc = s.lmc := by unfold setQuiet; rfl
@[simp] theorem setQuiet_dev (m : ZoneMask) (on : Bool) (s : State) : (setQuiet m on s).dev = s.dev := by unfold setQuiet; rfl
@[simp] theorem setQuiet_out (m : ZoneMask) (on : Bool) (s : State) : (setQuiet m on s).out = s.out := by unfold setQuiet; rfl

/-! ## hand -/

@[simp] theorem hand_pending (d : Delivery) (s : State) : (hand d s).pending = s.pending := by unfold hand setRce; rfl
@[simp] theorem hand_power (d : Delivery) (s : State) : (hand d s).power = s.power := by unfold hand setRce; rfl
@[simp] theorem hand_tif (d : Delivery) (s : State) : (hand d s).tif = s.tif := by unfold hand setRce; rfl
@[simp] theorem hand_cth (d : Delivery) (s : State) : (hand d s).cth = s.cth := by unfold hand setRce; rfl
@[simp] theorem hand_scc (d : Delivery) (s : State) : (hand d s).scc = s.scc := by unfold hand setRce; rfl
@[simp] theorem hand_hmx (d : Delivery) (s : State) : (hand d s).hmx = s.hmx := by unfold hand setRce; rfl
@[simp] theorem hand_zou (d : Delivery) (s : State) : (hand d s).zou = s.zou := by unfold hand setRce; rfl
@[simp] theorem hand_rce (d : Delivery) (s : State) : (hand d s).rce = { s.rce with due := s.rce.due ++ [d] } := by
  unfold hand setRce; rfl
@[simp] theorem hand_asq (d : Delivery) (s : State) : (hand d s).asq = s.asq := by unfold hand setRce; rfl
@[simp] theorem hand_vpl (d : Delivery) (s : State) : (hand d s).vpl = s.vpl := by unfold hand setRce; rfl
@[simp] theorem hand_ccc (d : Delivery) (s : State) : (hand d s).ccc = s.ccc := by unfold hand setRce; rfl
@[simp] theorem hand_cmp (d : Delivery) (s : State) : (hand d s).cmp = s.cmp := by unfold hand setRce; rfl
@[simp] theorem hand_lmc (d : Delivery) (s : State) : (hand d s).lmc = s.lmc := by unfold hand setRce; rfl
@[simp] theorem hand_dev (d : Delivery) (s : State) : (hand d s).dev = s.dev := by unfold hand setRce; rfl
@[simp] theorem hand_out (d : Delivery) (s : State) : (hand d s).out = s.out := by unfold hand setRce; rfl

/-! ## Notices -/

/-- A notice joins the tail, or is dropped on a full queue with the lost flag set (R33): the whole of what `pushNotice`
does. -/
theorem pushNotice_eq (n : Notice) (s : State) :
    (s.cth.notices.length < 16 ∧ pushNotice n s = { s with cth := { s.cth with notices := s.cth.notices ++ [n] } }) ∨
    (16 ≤ s.cth.notices.length ∧ pushNotice n s = { s with cth := { s.cth with lost := true } }) := by
  unfold pushNotice Config.noticePlaces
  by_cases h : 16 ≤ s.cth.notices.length
  · exact .inr ⟨h, by simp [h]⟩
  · exact .inl ⟨by omega, by simp [h]⟩

/-- Nothing but CTH's notices and the lost flag changes. -/
theorem pushNotice_frame (n : Notice) (s : State) : { pushNotice n s with cth := s.cth } = s := by
  rcases pushNotice_eq n s with ⟨_, h⟩ | ⟨_, h⟩ <;> rw [h]

theorem pushNotice_replies (n : Notice) (s : State) : (pushNotice n s).cth.replies = s.cth.replies := by
  rcases pushNotice_eq n s with ⟨_, h⟩ | ⟨_, h⟩ <;> rw [h]

@[simp] theorem pushNotice_pending (n : Notice) (s : State) : (pushNotice n s).pending = s.pending := by
  rcases pushNotice_eq n s with ⟨_, h⟩ | ⟨_, h⟩ <;> rw [h]
@[simp] theorem pushNotice_power (n : Notice) (s : State) : (pushNotice n s).power = s.power := by
  rcases pushNotice_eq n s with ⟨_, h⟩ | ⟨_, h⟩ <;> rw [h]
@[simp] theorem pushNotice_tif (n : Notice) (s : State) : (pushNotice n s).tif = s.tif := by
  rcases pushNotice_eq n s with ⟨_, h⟩ | ⟨_, h⟩ <;> rw [h]
@[simp] theorem pushNotice_scc (n : Notice) (s : State) : (pushNotice n s).scc = s.scc := by
  rcases pushNotice_eq n s with ⟨_, h⟩ | ⟨_, h⟩ <;> rw [h]
@[simp] theorem pushNotice_hmx (n : Notice) (s : State) : (pushNotice n s).hmx = s.hmx := by
  rcases pushNotice_eq n s with ⟨_, h⟩ | ⟨_, h⟩ <;> rw [h]
@[simp] theorem pushNotice_zou (n : Notice) (s : State) : (pushNotice n s).zou = s.zou := by
  rcases pushNotice_eq n s with ⟨_, h⟩ | ⟨_, h⟩ <;> rw [h]
@[simp] theorem pushNotice_rce (n : Notice) (s : State) : (pushNotice n s).rce = s.rce := by
  rcases pushNotice_eq n s with ⟨_, h⟩ | ⟨_, h⟩ <;> rw [h]
@[simp] theorem pushNotice_asq (n : Notice) (s : State) : (pushNotice n s).asq = s.asq := by
  rcases pushNotice_eq n s with ⟨_, h⟩ | ⟨_, h⟩ <;> rw [h]
@[simp] theorem pushNotice_vpl (n : Notice) (s : State) : (pushNotice n s).vpl = s.vpl := by
  rcases pushNotice_eq n s with ⟨_, h⟩ | ⟨_, h⟩ <;> rw [h]
@[simp] theorem pushNotice_ccc (n : Notice) (s : State) : (pushNotice n s).ccc = s.ccc := by
  rcases pushNotice_eq n s with ⟨_, h⟩ | ⟨_, h⟩ <;> rw [h]
@[simp] theorem pushNotice_cmp (n : Notice) (s : State) : (pushNotice n s).cmp = s.cmp := by
  rcases pushNotice_eq n s with ⟨_, h⟩ | ⟨_, h⟩ <;> rw [h]
@[simp] theorem pushNotice_lmc (n : Notice) (s : State) : (pushNotice n s).lmc = s.lmc := by
  rcases pushNotice_eq n s with ⟨_, h⟩ | ⟨_, h⟩ <;> rw [h]
@[simp] theorem pushNotice_dev (n : Notice) (s : State) : (pushNotice n s).dev = s.dev := by
  rcases pushNotice_eq n s with ⟨_, h⟩ | ⟨_, h⟩ <;> rw [h]
@[simp] theorem pushNotice_out (n : Notice) (s : State) : (pushNotice n s).out = s.out := by
  rcases pushNotice_eq n s with ⟨_, h⟩ | ⟨_, h⟩ <;> rw [h]

end Sys2Proof.Laws
end

