-- ==== Sys2Proof/Tests/Slice0.lean ====
section
/-! SUPPORT. Tests: ill-formed commands refused, the spec's worked examples, and for each statement a state and operands
that meet its hypotheses. -/

namespace Sys2Proof.Tests

open Sys2Proof Sys2Proof.Machine

/-! ## Helpers -/

/-- The state of a next outcome; the reset state for any other. -/
def after (c : Instr) (s : State) : State :=
  match exec c s with
  | .next t => t
  | _ => State.reset

/-- A trunk frame of 20 words with its check word. -/
def frameOf (ws : List Word16) : Vector Word16 21 :=
  Vector.ofFn fun i => if i.val = 20 then sumWords (ws.take 20) else ws.getD i.val 0

/-- A valid frame: sequence 7, odometer valid at 1,000, speed 50, tag 9, languages 0 and 2 live, talk flag set. -/
def frame0 : Vector Word16 21 := frameOf [0xB1E6, 0x0507, 1000, 0x0932, 0x0005, 100, 200, 300]

/-- The reset state with the trunk LOCKED. -/
def locked : State :=
  { State.reset with tif := { State.reset.tif with trunk := .locked, receiver := .expecting, invalidRun := 5 } }

/-- The chip in warm-up with both its counts run out. -/
def warm : State :=
  { State.reset with power := { State.reset.power with running := false, supplyUp := true, risen := true } }

/-- An announcement of a phrase. -/
def ann (id : Nat) (priority : Fin 4) (phrase : Fin 128) : Announcement :=
  { id := id, source := .phrase phrase, priority := priority, mask := 0xF, rendering := .both, langs := [0], stale := none,
    origin := .command, arrival := id, resume := { round := 0, items := 0 }, played := false, hang := .pressed }

/-- A TALK announcement whose hang has run n of k ticks. -/
def talk (id n k : Nat) : Announcement :=
  { ann id 2 0 with source := .talk, origin := .talk, hang := .released n k }

/-- Phrase 5 is one item of family 7. -/
def phrased : State :=
  { locked with asq := { locked.asq with phrases := put locked.asq.phrases 5 [{ family := 7, neutral := true }] } }

/-- An announcement current. -/
def playing (a : Announcement) (s : State) : State := { s with asq := { s.asq with current := some a } }

/-- Sixteen announcements of a priority queued. -/
def queued (priority : Fin 4) (n : Nat) (s : State) : State :=
  { s with asq := { s.asq with queue := (List.range n).map fun k => ann (k + 20) priority 5 } }

/-- A voice of an announcement's rendering. -/
def voiceIn (st : VoiceState) : Voice := { Reset.voice with state := st, owner := some 1, role := .speaker }

/-- The rendering record of announcement 1, one item of family 7. -/
def rendering : RenderRec :=
  { owner := 1, priority := 1, mask := 0xF, rendering := .both, items := [{ family := 7, neutral := true }],
    langs := [0, 2], progress := { round := 0, items := 0 }, played := false, softCut := false,
    map := Vector.replicate 64 none, talk := false }

/-- A clip of family 7 for any language, in sector 9. -/
def clip7 : Clip := { family := 7, language := 15, first := 9, length := 100 }

/-- The directory with that clip in it. -/
def withClip (s : State) : State :=
  { s with ccc := { s.ccc with directory := put s.ccc.directory 0 (some clip7) } }

/-- Announcement 1 rendered with one voice. -/
def rendered (x : Voice) : State :=
  { withClip State.reset with
    vpl := { State.reset.vpl with voices := put State.reset.vpl.voices 0 x, rendering := some rendering } }

/-- A lamp group with a pattern, running. -/
def lampOn (m : Mode) : Group :=
  { Reset.group with pat := { Reset.pattern with mode := m, levelOn := 20 }, running := true }

/-- One lamp group set. -/
def withGroup (x : Group) (s : State) : State := { s with lmc := { s.lmc with groups := put s.lmc.groups 0 x } }

/-- The lamp supply in a state. -/
def withSupply (x : Supply) (s : State) : State := { s with lmc := { s.lmc with supply := x } }

/-- The override in a state, with its release count. -/
def withOverride (x : Override) (n : Nat) (s : State) : State :=
  { s with lmc := { s.lmc with override := x, releaseCount := n } }

/-- The maintenance operation at a stage. -/
def withMaint (op : MaintOp) (stage : Stage) (ticks : Nat) (s : State) : State :=
  { s with cmp := { s.cmp with maint := some { op := op, stage := stage, ticks := ticks } } }

/-- Box 0 with a record, polled. -/
def withBox (x : Box) (s : State) : State := { s with scc := { s.scc with boxes := put s.scc.boxes 0 x } }

/-- Seat 0 with a record. -/
def withSeat (x : Seat) (s : State) : State := { s with scc := { s.scc with seats := put s.scc.seats 0 x } }

/-- A seat present and enabled. -/
def seated : Seat := { Reset.seat 0 with present := true }

/-- The route in a state with two armed entries. -/
def route (st : RouteState) (s : State) : State := { s with rce := { s.rce with state := st, count := 2 } }

/-- The box polled in the period that has ended, whose reply is still to be judged. -/
def awaiting (b : BoxNo) : State := { State.reset with scc := { State.reset.scc with awaited := some b } }

/-- A scan-frame boundary due. -/
def atBoundary (s : State) : State := { s with lmc := { s.lmc with boundaryDue := true } }

/-- Sector 9 VALID in cache sector 0. -/
def cached (s : State) : State := { s with ccc := { s.ccc with lines := put s.ccc.lines 0 (.valid 9 [(1, 2)]) } }

/-- A slot order with every event of the slot itself, ZOU's tick and a delivery. -/
def fullSlot : List SlotEvent :=
  [.talk, .trunkNotice, .also (.tickAt .zou), .route, .delivery .zou, .also .tick, .control, .alarm]

/-! ## Well-formed commands -/

theorem test_wf_frame : (Instr.validSlot ⟨[], Vector.replicate 21 0, []⟩ [] []).wellFormed = false := by decide
theorem test_wf_frame_good : (Instr.validSlot ⟨[none], frame0, []⟩ [] [.control, .also .tick, .route]).wellFormed = true := by decide
theorem test_wf_order : (Instr.validSlot ⟨[], frame0, []⟩ [] [.route, .route]).wellFormed = false := by decide
theorem test_wf_order_again : (Instr.invalidSlot [] [.also .voicesFinished, .also .voicesFinished]).wellFormed = true := by decide
theorem test_wf_short_order : (Instr.validSlot ⟨[], frame0, []⟩ [.talk, .talk] []).wellFormed = false := by decide
theorem test_wf_order_invalid : (Instr.invalidSlot [] [.talk, .talk]).wellFormed = false := by decide
theorem test_wf_order_voice : (Instr.invalidSlot [] [.voice 3, .talk, .voice 3]).wellFormed = false ∧
    (Instr.invalidSlot [] [.voice 3, .talk, .voice 4]).wellFormed = true := by decide
theorem test_wf_kind : (Instr.badKind 8).wellFormed = false := by decide
theorem test_wf_kind_low : (Instr.badKind 1).wellFormed = false := by decide
theorem test_wf_record : (Instr.entryWrite 1 0 (List.replicate 54 0)).wellFormed = false := by decide
theorem test_wf_data : (Instr.clipProgram 0 (List.replicate 54 0)).wellFormed = false := by decide
theorem test_wf_code : (Instr.unknownAction false 0x52).wellFormed = false := by decide
theorem test_wf_announce : (Instr.announce false (List.replicate 56 0)).wellFormed = false := by decide
theorem test_wf_seat : (Instr.seat false (List.replicate 56 0)).wellFormed = false := by decide

/-! ## The spec's worked examples -/

/-- The slots of the ENTRY_READ example of section 2.1: seat record 5 of node 0. -/
theorem test_packet_entry_read :
    packet 0 2 [1, 0, 5] = [0xC5, 0x00, 0x02, 0x03, 0x01, 0x00, 0x05, 0xF5] := by decide

/-- The same two slots are taken as the request; its reply is DONE with seat record 5 (section 2.1, R29, R38). -/
theorem test_entry_read_slots :
    (takeSlot { b0 := 0x01, b1 := 0x00, b2 := 0x05, b3 := 0xF5 }
      (takeSlot { b0 := 0xC5, b1 := 0x00, b2 := 0x02, b3 := 0x03 } locked)).cth.replies =
    [{ state := .ready, kind := 0x82, payload := [0, 1, 0, 5, 0, 1, 0, 0, 8, 8, 0, 0], resetsDeck := false }] := by decide +kernel

/-- The multipliers of R69's table. -/
theorem test_multipliers : [0, 6, 10, 12, 16, 34, 36, 60, 120, 121].map multiplier =
    [32768, 23170, 18390, 16384, 13004, 4597, 4096, 1024, 32, 0] := by decide

/-- The scaled samples of R70's table. -/
theorem test_scale : [scale 32767 32768, scale (-32768) 32768, scale 1 32768, scale (-1) 32768, scale 1 16384,
    scale (-1) 16384, scale (-32768) 32, scale 5000 0] = [32767, -32768, 1, -1, 1, 0, -32, 0] := by decide

/-- The entries of section 12.5's relocation, at indexes 0 to 6. -/
def tour : State :=
  let announce (p : Fin 128) : CueAction := .announce p 1 0xF .speakers [0]
  let cue (t : Nat) (l : Option Nat) (a : CueAction) : Cue := { trigger := t, latest := l, action := a, state := .pending }
  let s := phrased
  { s with rce := { s.rce with
      cues := Vector.ofFn fun i => ([cue 8300 (some 8400) (announce 5), cue 8350 none (.scene 4), cue 8400 none (.quietOn 4),
        cue 8500 none .mark, cue 8550 none (.scene 6), cue 8600 (some 8800) (announce 5),
        cue 8700 none (.quietOff 4)]).getD i.val Reset.cue,
      count := 7, state := .running, armedTag := 9, cursor := 0, lastOdo := 8200 } }

/-- Section 12.5: the relocation from 8,200 to 8,650 skips three entries and leaves the cursor at the seventh. -/
theorem test_relocation : (relocate 8650 tour).rce.cursor = 6 ∧ (relocate 8650 tour).rce.lastOdo = 8650 ∧
    Notice.relocation 8200 8650 3 ∈ (relocate 8650 tour).cth.notices := by decide +kernel

/-- Section 12.5: which of its entries are FIRED. -/
theorem test_relocation_entries :
    ((List.range 7).map fun i => ((relocate 8650 tour).rce.cues[i]?.map Cue.state)) =
    [some .skipped, some .skipped, some .fired, some .skipped, some .fired, some .fired, some .pending] := by decide +kernel

/-- Section 12.5: zone 2 is quiet and announcement 1 of priority 1 is current. -/
theorem test_relocation_delivers : ((settle (relocate 8650 tour)).zou.zones.get 2).quiet = true ∧
    (settle (relocate 8650 tour)).asq.current.map (fun a => (a.id, a.priority)) = some (1, 1) := by decide +kernel

/-! ## Steps -/

theorem test_idle : step State.reset = .next State.reset := rfl
theorem test_seat_defaults : (State.reset.scc.seats.get 16).zone = 1 ∧ (State.reset.scc.seats.get 63).zone = 3 := by decide
theorem test_language_default : (State.reset.scc.languages.get 0).offered = true ∧
    (State.reset.scc.languages.get 1).offered = false := by decide

/-- The sixteenth VALID slot locks (R6). -/
theorem test_lock : (validTif frame0 { State.reset.tif with validRun := 15 }).trunk = .locked := by decide

/-- The drive record of a frame (R10). -/
theorem test_drive : (validTif frame0 locked.tif).drive =
    { odometer := 1000, odoValid := true, speed := 50, tag := 9, alarm := false, talk := true } := by decide

/-- Talk pressed in the first frame taken after warm-up makes no announcement (R127), at regain it makes one (R11). -/
theorem test_first_talk :
    (let t := { State.reset.tif with validRun := 15 }
     let u := { t with trunk := .lost }
     (slotEvent t (validTif frame0 t) .nothing (fun _ => false) State.reset .talk).asq.current = none ∧
     (slotEvent u (validTif frame0 u) .nothing (fun _ => false) State.reset .talk).asq.current.isSome = true) := by decide +kernel

/-- The 64th INVALID slot loses the trunk (R8, R9). -/
theorem test_lost : (invalidTif { locked.tif with invalidRun := 63 }).trunk = .lost := by decide

/-- A return frame's words and check word (R16). -/
theorem test_return_frame : returnWords 6 { b0 := 1, b1 := 2, b2 := 3, b3 := 4 } =
    [0xB1E7, 0x0006, 0x0102, 0x0304, 0xB5F3] := by decide

/-- The first seat chain frame: 66 words, the poll of box 0 (R43). -/
theorem test_seat_frame : (seatFrame State.reset).length = 66 ∧ (seatFrame State.reset).head? = some 0x5E00 := by decide +kernel

/-- Two downs from step 1 saturate at 0, three ups from 14 at 15 (R51). -/
theorem test_press_volume : pressVolume 1 0 2 = 0 ∧ pressVolume 14 3 0 = 15 ∧ pressVolume 8 1 3 = 6 := by decide

/-- An advance of language wraps from the highest offered to the lowest (R50). -/
theorem test_advance : advanceLang [0, 3, 7] 7 = 0 ∧ advanceLang [0, 3, 7] 3 = 7 ∧ advanceLang [0, 3, 7] 5 = 7 := by decide

/-- The ramp: up to 4 steps toward quiet, 1 toward loud, never past the target (R64). -/
theorem test_ramp : ramp 10 30 = 14 ∧ ramp 10 12 = 12 ∧ ramp 10 3 = 9 ∧ ramp 10 10 = 10 := by decide

/-- With default settings t_c of volume 8 is 28, t_a is 34 (R62). -/
theorem test_targets : commentaryTarget 8 0 0 0 0 = 28 ∧ announcementTarget 8 0 0 0 6 = 34 := by decide

/-- A negative slope of the curve truncates toward zero (R61). -/
theorem test_interpolate : interpolate { speed := 0, boost := 10 } { speed := 3, boost := 0 } 1 = 7 := by decide

/-- An erase of one sector leaves the next (R145). -/
theorem test_erase : Memory.clear [(4095, 1), (4096, 2), (8191, 3), (8192, 4)] 4096 8192 = [(4095, 1), (8192, 4)] := by decide

/-- A program ANDs, and a byte that becomes 0xFF again is not listed (R145). -/
theorem test_program : Memory.program [(5, 0xF0)] 4 [0x0F, 0x3C] = [(4, 0x0F), (5, 0x30)] ∧
    Memory.program [] 4 [0xFF] = [] := by decide

/-- A full notice queue drops the newest with the lost flag (R33). -/
theorem test_notice_full :
    (pushNotice .trunkLost { locked with cth := { locked.cth with notices := List.replicate 16 .trunkRegained } }).cth.lost =
      true := by decide

/-- ANNOUNCE on an idle chip: current, DONE with id 1 (R110, R111). -/
theorem test_announce : (after (.announce false [5, 1, 15, 2, 0, 0, 0, 0, 0, 0, 0, 0]) phrased).asq.current.map (·.id) = some 1 ∧
    (after (.announce false [5, 1, 15, 2, 0, 0, 0, 0, 0, 0, 0, 0]) phrased).cth.replies.map (·.payload) = [[0, 1]] := by decide +kernel

/-- The duck of priority 1 is the settings' second depth (R78). -/
theorem test_duck : ((duckChange (some { mask := 0b0010, priority := 1, talk := false }) State.reset).zou.zones.get 1).duck = 24 ∧
    ((duckChange (some { mask := 0b0010, priority := 1, talk := false }) State.reset).zou.zones.get 0).duck = 0 := by decide

/-- A PULSES group of one pulse ends after its OFF phase (R172). -/
theorem test_pulses_end : (advance { lampOn .pulses with begun := true, phaseOn := false, framesLeft := 1, pulsesLeft := 1 }).ended =
    true := by decide

/-- A FADE group moves one level each fade step (R171). -/
theorem test_fade : (advance { lampOn .fade with begun := true, level := 7, framesLeft := 1 }).full.level = 8 := by decide

/-- SUPPLY on from OFF answers RAMP (R180). -/
theorem test_supply_on : (after (.supplyOn false) locked).cth.replies.map (·.payload) = [[0, 1]] := by decide

/-- R182: a granted group is LIT, also where its level on was written to 0 while it waited. -/
theorem test_grant_at_level_0 :
    let x : Group := { lampOn .blink with pat := { (lampOn .blink).pat with levelOn := 0 }, ign := .waiting }
    let s := withSupply .ready (atBoundary (withGroup x State.reset))
    let t := after .scanFrameBoundary { s with lmc := { s.lmc with ignQueue := [0] } }
    ((t.lmc.groups.get 0).ign, (t.lmc.groups.get 0).level, t.lmc.ignQueue, t.lmc.history) = (.lit, 0, [], [0]) := by
  decide +kernel

/-- R134: a round none of whose items resolves is passed in the event; after the last round the voice is IDLE. -/
theorem test_unresolved_round :
    let s := rendered { voiceIn .gap with gap := 300, gapKept := 300 }
    let t := after (.gapExpiry 0) { s with ccc := State.reset.ccc }
    t.vpl.voices.get 0 = Reset.voice ∧ t.asq.report = some (1, false) := by decide +kernel

/-- Safety groups stand ahead of the others in the ignition queue (R183). -/
theorem test_insert_ignition : insertIgnition (fun g => g == 4 || g == 9) 9 [4, 1, 2] = [4, 9, 1, 2] := by decide

/-- CLIP_ERASE of sector 4,096 is refused; of sector 4,095, over an idle memory, it is sent in its own event (R159, R160). -/
theorem test_clip_erase : (after (.clipErase 4096) locked).cth.replies.map (·.payload) = [[4]] ∧
    (after (.clipErase 4095) locked).cmp.maint = some { op := .erase 4095, stage := .sent, ticks := 0 } ∧
    (after (.clipErase 4095) locked).dev.busy = some (.erase 4095) := by decide

/-- Section 9.11: the fetch of sector 40 completes, and CLIP_ERASE of sector 11, pending behind it, starts before the fetch
of urgency 2 that is queued, its erase command sent. -/
theorem test_erase_behind_fetch :
    (let s := withMaint (.erase 11) .pending 0 locked
     let t := after .fetchComplete { s with
       cmp := { s.cmp with fetch := some { sector := 40, line := 0, overBusy := false } },
       ccc := { s.ccc with lines := put s.ccc.lines 0 (.filling 40),
                           queue := [{ sector := 41, urgency := 2, waiting := [] }] } }
     t.cmp.maint = some { op := .erase 11, stage := .sent, ticks := 0 } ∧ t.dev.busy = some (.erase 11) ∧
     t.cmp.fetch = none ∧ t.ccc.queue.map (·.sector) = [41]) := by decide +kernel

/-- Section 2.11: a CLIP_READ of 4 bytes over an idle memory has the port READING and its place A RESERVED; the ENTRY_READ
of seat 5 taken behind it has its place B READY first; A is READY where the read completes. -/
theorem test_read_transaction :
    (let s := { locked with dev := { locked.dev with bytes := [(256, 7)] } }
     let a := after (.clipRead 256 4) s
     let b := after (.entryRead 1 5) a
     let c := after .memoryReady b
     portState a = .reading ∧ a.cth.replies.map (·.state) = [.reserved] ∧ portState b = .reading ∧
     b.cth.replies.map (·.state) = [.reserved, .ready] ∧ portState c = .ready ∧
     c.cth.replies.map (·.state) = [.ready, .ready] ∧
     c.cth.replies.head?.map (·.payload) = some [0, 7, 0xFF, 0xFF, 0xFF]) := by decide +kernel

/-- A read over a busy memory waits for ready, is then READING, and ends DONE (R160); a second request meanwhile is BUSY
(R159). -/
theorem test_read_waits :
    (let s := after (.clipRead 256 1) { locked with dev := { locked.dev with busy := some (.erase 5) } }
     let t := after .memoryReady s
     s.cmp.maint.map (·.stage) = some .waitReady ∧ t.cmp.maint.map (·.stage) = some .sent ∧ t.dev.busy = none ∧
     (after (.clipErase 3) t).cth.replies.map (·.payload) = [[], [7]] ∧
     (after .memoryReady t).cth.replies.map (·.payload) = [[0, 0xFF]]) := by decide

/-- A state read right after power-on (R32): product 0x28, version 1, the defaults. -/
theorem test_state_record : stateRecord State.reset =
    [0x28, 1, 0, 0, 0, 0, 0, 0, 0, 0, 0, 0xFF, 0, 0, 0, 0, 0, 0, 0, 0, 0, 0, 0, 0, 0] := by decide

/-! ## Witnesses: states and operands that meet the hypotheses of the statements -/

theorem witness_StepRunsFrontCommand : ({ State.reset with pending := [.tick] }).pending = .tick :: [] ∧
    State.reset.pending = [] := ⟨rfl, rfl⟩

theorem witness_PowerAndWarmUp : warm.power.running = false ∧ actsInWarmUp .stateRead = false ∧
    actsInWarmUp (.boxReply none) = false := by decide

theorem witness_WarmUpEndValues : warm.power.running = false ∧ warm.power.supplyUp = true ∧ warm.power.resetLow = false ∧
    warm.power.powerLeft = 0 ∧ warm.power.lineLeft = 0 ∧ State.reset.power.running = true := by decide

theorem witness_FrameValidity : frameValid (Vector.replicate 21 0) = false := by decide

/-- A frame at the start, one word later, two words later, and found by hunting after a gap and a word
and at the first word. -/
theorem witness_ReceiverFindsFrames : frameValid frame0 = true ∧
    ((frame0.toList.map some).drop 0).take 21 = frame0.toList.map some ∧
    frameInWindow (frame0.toList.map some) = some frame0 ∧ frameInWindow (none :: frame0.toList.map some) = some frame0 ∧
    frameInWindow (none :: none :: frame0.toList.map some) = none ∧ locked.tif.receiver = .expecting ∧
    (State.reset.power.running = true ∧ State.reset.tif.receiver = .hunting ∧ State.reset.tif.trunk ≠ .locked ∧
      State.reset.tif.validRun = 0 ∧ huntFrame ([none, some 7] ++ frame0.toList.map some ++ []) = some frame0 ∧
      huntFrame ([] ++ frame0.toList.map some ++ []) = some frame0) := by
  decide +kernel

/-- The slot of frame 0 in LOCKED. -/
theorem slot_locked (order : List SlotEvent) :
    slotHas (.validSlot ⟨[], frame0, []⟩ [] order) ([] ++ frame0.toList.map some ++ []) (some frame0) order locked :=
  ⟨.inl ⟨[], frame0, [], [], rfl, rfl⟩, .inl ⟨rfl, by decide +kernel⟩⟩

/-- With no operation in the port none waits there. -/
theorem port_settled {s : State} (h : s.cmp.maint = none) : PortSettled s := by
  intro _ m e
  cases h.symm.trans e

/-- A slot of one gap in LOCKED. -/
theorem gap_locked (order : List SlotEvent) : slotHas (.invalidSlot [none] order) [none] none order locked :=
  ⟨.inr rfl, .inl ⟨rfl, by decide⟩⟩

/-- No event but the slot's own. -/
theorem own_route : ownEvents [.route, .talk] := by
  intro e h
  simp at h

theorem witness_LockedValidSlot : locked.power.running = true ∧ locked.tif.trunk = .locked ∧
    slotHas (.validSlot ⟨[], frame0, []⟩ [] [.route, .talk]) ([] ++ frame0.toList.map some ++ []) (some frame0) [.route, .talk]
      locked ∧ ownEvents [.route, .talk] :=
  ⟨rfl, rfl, slot_locked _, own_route⟩

/-- The clauses of the 63rd and of the 64th INVALID slot. -/
theorem witness_LockedInvalidSlot : locked.power.running = true ∧ locked.tif.trunk = .locked ∧
    slotHas (.invalidSlot [none] [.route, .talk]) [none] none [.route, .talk] locked ∧ ownEvents [.route, .talk] ∧
    PortSettled locked ∧ (62 + 1 < 64 ∧ 64 ≤ 63 + 1) ∧ ({ locked.tif with invalidRun := 63 }).trunk = .locked :=
  ⟨rfl, rfl, gap_locked _, own_route, port_settled rfl, by decide, rfl⟩

/-- The clauses of the fifteenth and of the sixteenth VALID slot, expecting, from SEEKING and from LOST, and of an
INVALID one while hunting. -/
theorem witness_UnlockedSlots :
    let at' := fun (n : Nat) (t : TrunkState) =>
      ({ State.reset with tif := { State.reset.tif with trunk := t, receiver := .expecting, validRun := n } } : State)
    (∀ n t, slotHas (.validSlot ⟨[], frame0, []⟩ [] []) ([] ++ frame0.toList.map some ++ []) (some frame0) [] (at' n t)) ∧
    slotHas (.invalidSlot [some 7] []) [some 7] none [] State.reset ∧ ownEvents [] ∧
    ((at' 14 .seeking).power.running = true ∧ (at' 14 .seeking).tif.trunk ≠ .locked ∧ 14 + 1 < 16 ∧ 16 ≤ 15 + 1 ∧
      (at' 15 .lost).tif.trunk = .lost ∧ (at' 15 .lost).cth.assembly = none ∧ (at' 15 .lost).rce.state = .idle) :=
  ⟨fun _ _ => ⟨.inl ⟨[], frame0, [], [], rfl, rfl⟩, .inl ⟨rfl, by decide +kernel⟩⟩, ⟨.inr rfl, .inr ⟨rfl, by decide, rfl⟩⟩,
    fun _ h => by simp at h, by decide⟩

/-- An order of every event of a slot with a tick and a delivery beside them, and one that lists a single event of its
own. -/
theorem witness_SlotHandsEventsOn : locked.power.running = true ∧ PortSettled locked ∧
    slotHas (.validSlot ⟨[], frame0, []⟩ [] fullSlot) ([] ++ frame0.toList.map some ++ []) (some frame0) fullSlot locked ∧
    slotHas (.invalidSlot [none] fullSlot) [none] none fullSlot locked ∧
    (fullSlot.filter SlotEvent.own).Nodup ∧
    slotHas (.invalidSlot [none] [.also .tick, .route]) [none] none [.also .tick, .route] locked ∧
    ([SlotEvent.also .tick, .route].filter SlotEvent.own).Nodup :=
  ⟨rfl, port_settled rfl, slot_locked _, gap_locked _, by decide, gap_locked _, by decide⟩

/-- A return frame of counter 6 and bytes 1 to 4, and one of a wrong check word. -/
theorem witness_DownstreamFrameTaken : State.reset.power.running = true ∧
    returnValid #v[0xB1E7, 0x0006, 0x0102, 0x0304, 0xB5F3] = true ∧
    returnValid #v[0xB1E7, 0x0006, 0x0102, 0x0304, 0xB5F4] = false := by decide

/-- The turn of frame 0 is node 3's: another's for node 0, node 3's own; and an INVALID slot after counter 3 is node 0's. -/
theorem witness_ReturnFrameOfSlot : locked.power.running = true ∧
    slotHas (.validSlot ⟨[], frame0, []⟩ [] fullSlot) ([] ++ frame0.toList.map some ++ []) (some frame0) fullSlot locked ∧
    slotHas (.invalidSlot [none] []) [none] none [] locked ∧
    (((frame0.get 1).extractLsb' 0 8).toNat % 4 = 3 ∧ (0 + 1 : Byte).toNat % 4 ≠ locked.tif.node.toNat ∧
      (3 + 1 : Byte).toNat % 4 = locked.tif.node.toNat) :=
  ⟨rfl, slot_locked _, gap_locked _, by decide⟩

/-- The arbiter's clauses: a packet with slots left and one at its last, a READY reply behind a RESERVED place, a notice,
and nothing. -/
theorem witness_ReturnSlotArbiter : State.reset.cth.tx = none ∧ State.reset.cth.notices = [] ∧
    (∀ q ∈ State.reset.cth.replies, q.state ≠ .ready) ∧ 4 * (1 + 1) < (List.replicate 9 (0 : Byte)).length ∧
    (List.replicate 8 (0 : Byte)).length ≤ 4 * (1 + 1) ∧
    (let p : Place := { state := .reserved, kind := 0x85, payload := [], resetsDeck := false }
     let q : Place := { state := .ready, kind := 0x83, payload := [0], resetsDeck := false }
     [p, q] = [p] ++ q :: [] ∧ q.state = .ready ∧ ∀ x ∈ [p], x.state ≠ .ready) ∧
    (pushNotice .trunkLost State.reset).cth.notices = .trunkLost :: [] := by decide

theorem witness_SeatChainFrame : locked.power.running = true ∧
    slotHas (.validSlot ⟨[], frame0, []⟩ [] fullSlot) ([] ++ frame0.toList.map some ++ []) (some frame0) fullSlot locked ∧
    (locked.scc.seats.get 63).present = false ∧ warm.power.running = false :=
  ⟨rfl, slot_locked _, by decide⟩

/-- Seat 0 present and enabled, its language 0 live in frame 0; the box of the ended period is polled. -/
theorem witness_SeatHearsCommentary : (withSeat seated locked).power.running = true ∧
    slotHas (.validSlot ⟨[], frame0, []⟩ [] [.route, .talk]) ([] ++ frame0.toList.map some ++ []) (some frame0) [.route, .talk]
      (withSeat seated locked) ∧ ownEvents [.route, .talk] ∧
    (((withSeat seated locked).scc.seats.get 0).present = true ∧ ((withSeat seated locked).scc.seats.get 0).enabled = true ∧
      (frame0.get 4).getLsbD 0 = true ∧ (frame0.get 4).getLsbD 1 = false) :=
  ⟨rfl, ⟨.inl ⟨[], frame0, [], [], rfl, rfl⟩, .inl ⟨rfl, by decide +kernel⟩⟩, own_route, by decide⟩

theorem witness_ChannelsCarryProgram : locked.power.running = true ∧
    slotHas (.validSlot ⟨[], frame0, []⟩ [] [.route, .talk]) ([] ++ frame0.toList.map some ++ []) (some frame0) [.route, .talk]
      locked ∧ ownEvents [.route, .talk] :=
  ⟨rfl, slot_locked _, own_route⟩

/-- The bounds 120 and 121 of an index, and the three cases of a curve of speeds 10, 20, ..., 80. -/
theorem witness_GainArithmetic : (121 ≤ 121 ∧ 108 + 12 < 121 ∧ (120 : Nat) < 121) ∧
    (let c : Vector CurvePoint 8 := Vector.ofFn fun i => { speed := 10 * (i.val + 1), boost := 3 * i.val }
     10 ≤ (c.get 0).speed ∧ ((c.get 0).speed < 80 ∧ (c.get 7).speed ≤ 80) ∧
     ((∀ j : Fin 8, j.val ≤ 0 → (c.get j).speed < 20) ∧ 20 < (c.get 7).speed ∧ 20 ≤ (c.get (Fin.succ (0 : Fin 7))).speed)) := by
  decide

/-- A tick due to two blocks and not to a third, and none due; a waiting voice, a gap, a hang, an operation, a ramp and
a release, each one tick from its end. -/
theorem witness_TickActs :
    (let s : State := { State.reset with tif := { State.reset.tif with tickFor := [.hmx, .lmc] } }
     s.power.running = true ∧ TickBlock.hmx ∈ s.tif.tickFor ∧ TickBlock.zou ∉ s.tif.tickFor) ∧ State.reset.tif.tickFor = [] ∧
    (let x : Voice := { voiceIn .priming with stall := 1999 }
     x.state = .priming ∧ x.stall < 2000) ∧
    (let x : Voice := { voiceIn .gap with gap := 299, gapKept := 300 }
     x.state = .gap ∧ x.gap < x.gapKept) ∧
    ((talk 3 9 10).source = .talk ∧ (talk 3 9 10).hang = .released 9 10 ∧ 9 < 10) ∧
    (Stage.sent ≠ Stage.pending ∧ 2999 < 3000) ∧
    ((withSupply .ramp State.reset).lmc.supply = .ramp ∧ (withSupply .ramp State.reset).lmc.rampCount < 0 + 500) ∧
    (let s := withOverride .releasing 99 State.reset
     s.lmc.override = .releasing ∧ s.lmc.lineSource = false ∧ s.lmc.flagSource = false ∧ s.lmc.releaseCount < 100) := by
  decide

/-- The longest payload, to this node, to all and to another; packets that make no request; a packet with one slot still to
come and one that completes. -/
theorem witness_PacketIsTaken : State.reset.cth.assembly = none ∧ (List.replicate 56 (0 : Byte)).length ≤ 56 ∧
    56 < (57 : Byte).toNat ∧ ([0xC5, 0, 4, 0, 1] : List Byte).tail.foldl (· + ·) 0 ≠ (0 : Byte) ∧
    ((15 : Byte) = 15 ∧ (0 : Byte) = State.reset.tif.node.setWidth 8 ∧ (4 : Byte) ≠ 15 ∧
      (4 : Byte) ≠ State.reset.tif.node.setWidth 8) ∧ ((4 : Byte) ≠ 3 ∧ (4 : Byte) ≠ 8) ∧ (56 : Byte).toNat ≤ 56 ∧
    (let a : Assembly := { buffer := [0xC5, 0, 4, 4], total := 9 }
     (a.buffer ++ [1, 2, 3, 4]).length < a.total ∧ ¬(a.buffer ++ [1, 2, 3, 4] ++ [0xC5, 0, 0, 0]).length < a.total) := by decide

/-- A request out of LOCKED, one with deck reset pending, one that finds four places taken, one taken, and unknown kinds. -/
theorem witness_RequestsSortedOut : requestOf .stateRead = some false ∧ State.reset.power.running = true ∧
    State.reset.rce.due = [] ∧
    State.reset.tif.trunk ≠ .locked ∧ ({ locked.cth with deckPending := true }).deckPending = true ∧
    4 ≤ (List.replicate 4 ({ state := .ready, kind := 0, payload := [], resetsDeck := false } : Place)).length ∧
    ((0 : Byte).toNat < 1 ∧ 8 < (9 : Byte).toNat) ∧
    (0x53 : Byte) ∉ ([0x01, 0x02, 0x10, 0x11, 0x12, 0x20, 0x21, 0x30, 0x31, 0x40, 0x50, 0x51, 0x52] : List Byte) ∧
    (locked.power.running = true ∧ locked.tif.trunk = .locked ∧ takes true locked) ∧ ([1, 0] : List Byte).length < 3 ∧
    1 < (2 : Byte).toNat ∧ 5 < (6 : Byte).toNat :=
  ⟨rfl, rfl, rfl, by decide, rfl, by decide, by decide, by decide, ⟨rfl, rfl, rfl, rfl, rfl, by simp⟩, by decide⟩

theorem takes_locked (bc : Bool) : takes bc locked := ⟨rfl, rfl, rfl, fun _ => by decide⟩

/-- Table ids 0 and 13, the seat table's first index past its end and its last, and the group table. -/
theorem witness_EntryReadAnswers : takes false locked ∧ ((0 : Byte).toNat < 1 ∧ 12 < (13 : Byte).toNat) ∧
    Table.ofId 1 = some .seat ∧ Table.seat.entries ≤ (64 : Word16).toNat ∧ (63 : Word16).toNat < Table.seat.entries ∧
    Table.ofId 9 = some .group :=
  ⟨takes_locked false, by decide⟩

theorem witness_SeatRecordWritten : takes false locked ∧ (63 : Word16).toNat < 64 ∧ 3 < (4 : Byte).toNat ∧
    11 < (12 : Byte).toNat ∧ (3 : Byte).toNat < 4 ∧ (11 : Byte).toNat < 12 :=
  ⟨takes_locked false, by decide⟩

/-- Scan rows refused and taken, bad phrases, rendering and speaker lists, and a record that passes. -/
theorem witness_SettingsWritten : takes false locked ∧ ((5 : Byte) ≠ 4 ∧ (5 : Byte) ≠ 6 ∧ (5 : Byte) ≠ 8) ∧
    ((1 : Byte) ≠ 0 ∧ 127 < (128 : Byte).toNat) ∧ 2 < (3 : Byte).toNat ∧ 4 < (5 : Byte).toNat ∧
    (∃ k ∈ ([12, 0, 0, 0] : List Byte).take 1, 11 < k.toNat) ∧ (127 : Byte).toNat ≤ 127 ∧ (2 : Byte).toNat ≤ 2 ∧
    1 ≤ (4 : Byte).toNat ∧ ∀ k ∈ ([11, 11, 11, 11] : List Byte).take 4, k.toNat < 12 :=
  ⟨takes_locked false, by decide⟩

/-- Records at the ends of their ranges; a curve of equal points and the settings' defaults. -/
theorem witness_RecordsDecodeBack : (15 ≤ 15 ∧ 24 ≤ 24 ∧ 12 ≤ 12 ∧ 60 ≤ 60) ∧ some (1 : Lang) ≠ some 0 ∧
    (65535 < 65536 ∧ 65535 ≤ 65535) ∧ ([0, 1, 2, 3] : List Lang).length ≤ 4 ∧
    (1023 ≤ 1023 ∧ (15 ≤ 11 ∨ 15 = 15) ∧ 4095 ≤ 4095 ∧ 1 ≤ 2048 ∧ 4095 + (2048 + 2047) / 2048 - 1 ≤ 4095) ∧
    (63 ≤ 63 ∧ 1 ≤ 255 ∧ 255 ≤ 255) ∧
    (∀ i j : Fin 8, i ≤ j → (State.reset.hmx.curve.get i).speed ≤ (State.reset.hmx.curve.get j).speed) ∧
    (Reset.settings.trim ≤ 24 ∧ (∀ p, Reset.settings.duck.get p ≤ 121) ∧ Reset.settings.hang ≤ 1000 ∧
      Reset.settings.gap ≤ 2000 ∧ 10 ≤ Reset.settings.jump ∧ 16 ≤ Reset.settings.ramp ∧ Reset.settings.rows = 8 ∧
      1 ≤ Reset.settings.speakers.length ∧ Reset.settings.speakers.length ≤ 4) := by decide

theorem witness_StateReadAnswers : takes false locked ∧ locked.rce.cursor < 65536 ∧
    locked.rce.lastOdo < 65536 ∧ locked.asq.current = none ∧
    ((playing (ann 255 3 5) locked).asq.current = some (ann 255 3 5) ∧ (ann 255 3 5).id < 256) ∧
    locked.asq.queue.length ≤ 16 ∧ locked.asq.stack.length ≤ 3 ∧ locked.ccc.locks.length ≤ 16 :=
  ⟨takes_locked false, by decide⟩

/-- A record of each table that is stored, each at its clamps, and each refusal of an ENTRY_WRITE. -/
theorem witness_RecordsStored : takes false locked ∧ locked.rce.state = .idle ∧
    (let v := fun k : Nat => (([3, 13, 11, 61, 1, 11, 0, 0] : List Byte).getD k 0).toNat
     (3 : Word16).toNat < 4 ∧ v 0 ≤ 3 ∧ v 2 ≤ 11 ∧ v 5 ≤ 11 ∧ 12 < v 1 ∧ 60 < v 3) ∧
    (let v := fun k : Nat => (([1, 1, 11, 0] : List Byte).getD k 0).toNat
     (11 : Word16).toNat < 12 ∧ v 2 ≤ 11 ∧ v 2 = (11 : Word16).toNat) ∧
    (let v := fun k : Nat => ((List.replicate 17 (25 : Byte)).getD k 0).toNat
     (List.replicate 17 (25 : Byte)).length = 17 ∧ (∀ i < 7, v (2 * i) ≤ v (2 * i + 2)) ∧ 24 < v 1) ∧
    (let record : List Byte := [0, 9, 1, 0, 9, 0, 127, 3, 15, 2, 4, 11, 11, 11, 11, 7, 0]
     let v := fun k : Nat => (record.getD k 0).toNat
     (255 : Word16).toNat < 256 ∧ record.length = 17 ∧ v 0 * 256 + v 1 ≤ v 3 * 256 + v 4 ∧ v 5 = 0 ∧
     (127 : Fin 128).val = v 6 ∧ (3 : Fin 4).val = v 7 ∧ (0xF : ZoneMask).toNat = v 8 ∧ v 10 ≤ 4 ∧
     ([11, 11, 11, 11] : List Lang).map Fin.val = ((record.drop 11).take (v 10)).map BitVec.toNat) ∧
    (let v := fun k : Nat => ((1 :: 3 :: 255 :: List.replicate 22 (255 : Byte)).getD k 0).toNat
     (127 : Word16).toNat < 128 ∧ v 0 ≤ 8 ∧ ∀ i < v 0, v (3 * i + 1) * 256 + v (3 * i + 2) ≤ 1023) ∧
    (let v := fun k : Nat => (([1, 3, 255, 15, 15, 255, 0, 8, 0] : List Byte).getD k 0).toNat
     (511 : Word16).toNat < 512 ∧ v 1 * 256 + v 2 ≤ 1023 ∧ v 3 = 15 ∧ v 4 * 256 + v 5 ≤ 4095 ∧
     v 4 * 256 + v 5 + (v 6 * 65536 + v 7 * 256 + v 8 + 2047) / 2048 - 1 ≤ 4095) ∧
    ((191 : Word16).toNat < 192 ∧ (([1, 23] : List Byte).getD 1 0).toNat ≤ 23) ∧
    ((31 : Word16).toNat < 32 ∧ ([4, 64, 63, 0, 0, 0, 0] : List Byte).length = 7) ∧
    ((15 : Word16).toNat < 16 ∧ ∀ i < 24, ((List.replicate 24 (33 : Byte)).getD i 0).toNat ≤ 33) ∧ (0 : Byte).toNat < 1 ∧
    Table.cell.entries ≤ (192 : Word16).toNat ∧ ([] : List Byte).length ≠ Table.cell.size ∧
    (route .armed locked).rce.state ≠ .idle ∧
    (([4, 0, 0, 0, 0, 0, 0, 0] : List Byte).length = Table.zone.size ∧ 3 < (([4] : List Byte).getD 0 0).toNat) ∧
    (([1, 3, 255, 16, 0, 0, 0, 0, 1] : List Byte).length = Table.clip.size ∧
      (11 < (([1, 3, 255, 16] : List Byte).getD 3 0).toNat ∧ (16 : Byte).toNat ≠ 15)) :=
  ⟨takes_locked false, by decide⟩

theorem witness_FreshIds : AnnouncementsKept { State.reset with pending := [.tick] } := by
  refine ⟨by decide, by decide, by decide, by decide, by decide, by decide, fun _ => ⟨rfl, rfl⟩⟩

/-- ANNOUNCE's parameters with a limit, its refusals, and a phrase that is not empty. -/
theorem witness_AnnounceStarts : takes true phrased ∧ PortSettled phrased ∧
    (decodeAnnounce [5, 3, 15, 2, 4, 11, 11, 11, 11, 1, 0, 9]).isSome = true ∧ phrased.asq.phrases.get 5 ≠ [] ∧
    phrased.asq.current = none ∧ phrased.rce.lastOdo ≤ 9 ∧ ([] : List Byte).length ≠ 12 ∧
    (127 < (128 : Byte).toNat ∧ 3 < (4 : Byte).toNat ∧ 15 < (16 : Byte).toNat ∧ 4 < (5 : Byte).toNat) ∧
    phrased.asq.phrases.get 127 = [] ∧
    (let s : State := { phrased with rce := { phrased.rce with state := .complete, lastOdo := 10 } }
     s.rce.state = .complete ∧ 9 < s.rce.lastOdo ∧ s.power.running = true ∧ s.cth.deckPending = false ∧
     (decodeAnnounce [5, 3, 15, 2, 0, 0, 0, 0, 0, 1, 0, 9]).map (·.stale) = some (some 9)) :=
  ⟨⟨rfl, rfl, rfl, fun h => by cases h⟩, port_settled rfl, by decide⟩

/-- The queue with room, full below the new priority, and full at it. -/
theorem witness_AnnounceQueues : takes true (queued 1 16 (playing (ann 7 2 5) phrased)) ∧
    (decodeAnnounce [5, 2, 15, 2, 0, 0, 0, 0, 0, 0, 0, 0]).isSome = true ∧ (2 : Fin 4) ≤ (ann 7 2 5).priority ∧
    (queued 1 15 phrased).asq.queue.length < 16 ∧
    ((queued 1 16 phrased).asq.queue = (queued 1 15 phrased).asq.queue ++ [ann 35 1 5] ∧
      16 ≤ (queued 1 16 phrased).asq.queue.length ∧ (ann 35 1 5).priority < 2) ∧
    ((queued 2 16 phrased).asq.queue = (queued 2 15 phrased).asq.queue ++ [ann 35 2 5] ∧ 2 ≤ (ann 35 2 5).priority) :=
  ⟨⟨rfl, rfl, rfl, fun h => by cases h⟩, by decide⟩

theorem witness_AnnouncePreempts : takes true (playing (ann 7 2 5) phrased) ∧
    PortSettled (playing (ann 7 2 5) phrased) ∧ (ann 7 2 5).priority < 3 ∧
    (decodeAnnounce [5, 3, 15, 2, 0, 0, 0, 0, 0, 0, 0, 0]).isSome = true ∧ (ann 7 2 5).source ≠ .talk ∧
    (talk 7 0 9).source = .talk ∧ (talk 7 0 9).priority < 3 ∧
    ((queued 1 16 (playing (talk 7 0 9) phrased)).asq.queue.getLast? = some (ann 35 1 5) ∧ (ann 35 1 5).priority < 2) ∧
    ((rendered (voiceIn .gap)).vpl.rendering = some rendering ∧
      ((rendered (voiceIn .gap)).vpl.voices.get 0).owner = some rendering.owner ∧
      ((rendered (voiceIn .gap)).vpl.voices.get 0).state = .gap) :=
  ⟨⟨rfl, rfl, rfl, fun h => by cases h⟩, port_settled rfl, by decide⟩

/-- A TALK live and none; a hang that has not run, one of time 0 that is current and one in the queue; a chime and an alarm
phrase, empty and not, with none of their origin live; an entry that announces. -/
theorem witness_InternalAnnouncementsPlaced :
    (PortSettled phrased ∧ PortSettled (playing (talk 7 0 9) phrased) ∧ PortSettled tour) ∧
    talk 7 0 9 ∈ liveAnnouncements (playing (talk 7 0 9) phrased) ∧ liveAnnouncements phrased = [] ∧
    ((talk 7 0 9).hang = .released 0 9 ∧ 0 < 9) ∧
    (let s : State := { playing { talk 7 0 0 with hang := .pressed } phrased with
       cth := { phrased.cth with settings := { phrased.cth.settings with hang := 0, chime := some 5, alarm := some 6 } } }
     s.cth.settings.hang = 0 ∧ s.asq.current = some { talk 7 0 0 with hang := .pressed } ∧ s.asq.queue = [] ∧
     s.cth.settings.chime = some 5 ∧ s.cth.settings.alarm = some 6 ∧ s.asq.phrases.get 5 ≠ [] ∧ s.asq.phrases.get 6 = [] ∧
     (∀ a ∈ liveAnnouncements s, a.origin ≠ .chime ∧ a.origin ≠ .alarm)) ∧
    ([{ talk 7 0 0 with hang := .pressed }] = [] ++ { talk 7 0 0 with hang := .pressed } :: []) ∧
    (tour.rce.cues.get 0).action = .announce 5 1 0xF .speakers [0] :=
  ⟨⟨port_settled rfl, port_settled rfl, port_settled rfl⟩, by decide +kernel⟩

/-- An id in the queue, on the stack, current, TALK, and of no announcement. -/
theorem witness_CutActs : takes true phrased ∧ (∀ a ∈ liveAnnouncements phrased, a.id ≠ 7) ∧
    (queued 1 1 phrased).asq.queue.any (fun a => a.id == 20) = true ∧
    (let s : State := { phrased with asq := { phrased.asq with stack := [ann 8 0 5] } }
     s.asq.queue.any (fun a => a.id == 8) = false ∧ s.asq.stack.any (fun a => a.id == 8) = true) ∧
    (let s := playing (ann 7 2 5) phrased
     s.asq.queue.any (fun a => a.id == 7) = false ∧ s.asq.stack.any (fun a => a.id == 7) = false ∧
     s.asq.current = some (ann 7 2 5) ∧ (ann 7 2 5).source ≠ .talk ∧ s.asq.softCut = false) ∧
    (talk 7 0 9).source = .talk ∧ PortSettled (playing (ann 7 2 5) phrased) :=
  ⟨⟨rfl, rfl, rfl, fun h => by cases h⟩, by decide, by decide, by decide, by decide, by decide, port_settled rfl⟩

/-- A report of the current announcement and of another, a current TALK whose hang has run, and a queued one. -/
theorem witness_AnnouncementEndsAct :
    (PortSettled (playing (ann 7 2 5) phrased) ∧ PortSettled (playing (talk 7 9 9) phrased)) ∧
    (let s : State := { playing (ann 7 2 5) phrased with
       asq := { (playing (ann 7 2 5) phrased).asq with report := some (7, true) } }
     s.power.running = true ∧ s.asq.report = some (7, true) ∧ s.asq.current = some (ann 7 2 5) ∧
     (ann 7 2 5).source ≠ .talk ∧ (ann 7 2 5).id ≠ 8) ∧
    ((playing (talk 7 9 9) phrased).asq.current = some (talk 7 9 9) ∧ (talk 7 9 9).hang = .released 9 9 ∧ 9 ≤ 9) ∧
    ([talk 7 9 9] = [] ++ talk 7 9 9 :: [] ∧ phrased.asq.current = none) :=
  ⟨⟨port_settled rfl, port_settled rfl⟩, by decide⟩

/-- IDLE and another state, the counts 256 and 257, triggers in order and not. -/
theorem witness_RouteArmDisarmActs : takes true locked ∧ locked.rce.state = .idle ∧
    (route .held locked).rce.state ≠ .idle ∧ 256 < (257 : Word16).toNat ∧ (256 : Word16).toNat ≤ 256 ∧
    (∀ i j : Fin 256, i.val < j.val → j.val < 256 →
      (locked.rce.cues.get i).trigger ≤ (locked.rce.cues.get j).trigger) ∧
    (((put locked.rce.cues 0 { Reset.cue with trigger := 5 }).get 1).trigger <
      ((put locked.rce.cues 0 { Reset.cue with trigger := 5 }).get 0).trigger) ∧
    locked.rce.due = [] ∧ ¬(locked.tif.drive.odoValid = true) ∧
    (let s : State := { locked with tif := { locked.tif with drive := { locked.tif.drive with odoValid := true, tag := 9 } } }
     s.tif.trunk = .locked ∧ s.tif.drive.odoValid = true ∧ s.tif.drive.tag = (9 : Byte).toNat) := by
  refine ⟨takes_locked true, rfl, by decide, by decide, by decide, fun i j _ _ => ?_, by decide, rfl, by decide, by decide⟩
  simp only [locked, State.reset, Reset.rce, Laws.get_replicate, Nat.le_refl]

/-- Section 12.5's entries: a step to 8,300, which handles the first entry; and deliveries that wait for ZOU and LMC, with
none for ASQ. -/
theorem witness_NormalStepMarks : (tour.rce.count ≤ 256 ∧ tour.rce.cursor ≤ tour.rce.count ∧
    (normalStep 8300 tour).rce.cursor = 1) ∧ takes true locked ∧
    (let s := hand { index := 1, action := .scene 4, stale := none }
       (hand { index := 0, action := .quietOn 4, stale := none } locked)
     s.rce.due = [{ index := 0, action := .quietOn 4, stale := none }] ++
         { index := 1, action := .scene 4, stale := none } :: [] ∧
       (CueAction.scene 4).owner = some .lmc ∧ (CueAction.quietOn 4).owner ≠ some .lmc ∧
       ∀ d ∈ s.rce.due, d.action.owner ≠ some .asq) :=
  ⟨by decide +kernel, takes_locked true, by decide⟩

/-- Each route state, the test of R92 passed and failed; a backward step, a step at the limit and section 12.5's
relocation. -/
theorem witness_RouteStepsAct : State.reset.rce.state = .idle ∧ (route .armed State.reset).rce.state = .armed ∧
    ¬(State.reset.tif.trunk = .locked) ∧
    (let s := route .held { locked with tif := { locked.tif with drive := { locked.tif.drive with odoValid := true } } }
     s.rce.state = .held ∧ s.tif.trunk = .locked ∧ s.tif.drive.odoValid = true ∧ s.tif.drive.tag = s.rce.armedTag) ∧
    8199 < tour.rce.lastOdo ∧ 8350 - tour.rce.lastOdo ≤ tour.cth.settings.jump ∧
    tour.cth.settings.jump < 8650 - tour.rce.lastOdo ∧ tour.rce.count ≤ 256 ∧ tour.rce.cursor ≤ tour.rce.count := by
  decide +kernel

theorem witness_SeatActs : takes true locked ∧ ([] : List Byte).length ≠ 7 ∧ 63 < (64 : Byte).toNat ∧
    ((1 : Byte) ≠ 0 ∧ 11 < (12 : Byte).toNat) ∧ (63 : Byte).toNat < 64 ∧ (11 : Byte).toNat < 12 :=
  ⟨takes_locked true, by decide⟩

theorem witness_QuietActs : takes true locked ∧ 15 < (16 : Byte).toNat ∧ (15 : Byte).toNat ≤ 15 :=
  ⟨takes_locked true, by decide⟩

/-- A CLEAR and a SET latch, an enabled and a disabled seat, and replies with and without the stop press of each jack. -/
theorem witness_StopLatchActs : takes true locked ∧ locked.scc.latch = none ∧
    (some (5 : SeatNo) ≠ none) ∧ (locked.scc.seats.get 63).enabled = true ∧
    ({ seated with enabled := false }).enabled = false ∧ (awaiting 0).power.running = true ∧
    (awaiting 0).scc.awaited = some 0 ∧
    (let q : Vector Word16 3 := #v[0x3C60, 0x003F, 0x3C9F]
     let r : Vector Word16 3 := #v[0x3C60, 0x403F, 0x7C9F]
     (r.get 0).extractLsb' 8 8 = 0x3C ∧ ((r.get 0).extractLsb' 0 5).toNat = (0 : BoxNo).val ∧ q.get 0 = r.get 0 ∧
     r.get 2 = r.get 0 + r.get 1 ∧ q.get 2 = q.get 0 + q.get 1 ∧ r.get 1 = q.get 1 ||| 0x4000 ∧
     (q.get 1).getLsbD 14 = false) ∧
    (let q : Vector Word16 3 := #v[0x3C60, 0x003F, 0x3C9F]
     let r : Vector Word16 3 := #v[0x3C60, 0x057F, 0x41DF]
     q.get 0 = r.get 0 ∧ r.get 2 = r.get 0 + r.get 1 ∧ (r.get 1).extractLsb' 0 6 = (q.get 1).extractLsb' 0 6 ∧
     (r.get 1).getLsbD 6 = true ∧ (r.get 1).getLsbD 14 = false ∧ (q.get 1).toNat < 64) ∧
    ((awaiting 0).scc.seats.get 1).volume ≤ 15 ∧ ((awaiting 0).scc.seats.get 1).defVolume ≤ 15 :=
  ⟨takes_locked true, by decide⟩

/-- None awaited; no reply, a reply of another box, and a box with no miss, with one and with two; a reply of box 0 with
both senses, one language press of jack A, one up of jack B and no stop press. -/
theorem witness_BoxReplyTaken : State.reset.power.running = true ∧ State.reset.scc.awaited = none ∧
    (awaiting 0).power.running = true ∧ (awaiting 0).scc.awaited = some 0 ∧
    (let r : Vector Word16 3 := #v[0x3C01, 0, 0x3C01]
     ((r.get 0).extractLsb' 0 5).toNat ≠ (0 : BoxNo).val) ∧
    ((awaiting 0).scc.boxes.get 0).online = false ∧ (1 + 1 < 3 ∧ 3 ≤ 2 + 1) ∧
    ((withBox { Reset.box with online := true, miss := 2 } (awaiting 0)).scc.boxes.get 0).online = true ∧
    (let r : Vector Word16 3 := #v[0x3C60, 0x0401, 0x4061]
     (r.get 0).extractLsb' 8 8 = 0x3C ∧ r.get 2 = r.get 0 + r.get 1 ∧ ((r.get 0).extractLsb' 0 5).toNat = (0 : BoxNo).val ∧
     (r.get 1).getLsbD 6 = false ∧ (r.get 1).getLsbD 14 = false) := by decide

theorem witness_SceneActs : takes true locked ∧ 15 < (16 : Byte).toNat ∧ (15 : Byte).toNat < 16 :=
  ⟨takes_locked true, by decide⟩

theorem witness_GroupCommandsAct : takes true locked ∧ 23 < (24 : Byte).toNat ∧ (23 : Byte).toNat < 24 :=
  ⟨takes_locked true, by decide⟩

theorem witness_GroupPatternActs : takes true locked ∧ 23 < (24 : Byte).toNat ∧ 4 < (5 : Byte).toNat ∧
    31 < (32 : Byte).toNat ∧ (23 : Byte).toNat < 24 ∧ Mode.fade.code = 4 ∧ (31 : Byte).toNat < 32 :=
  ⟨takes_locked true, by decide⟩

/-- A record past its clamps; a READY supply under the override with a safety flag that changes. -/
theorem witness_GroupRecordWritten : takes false locked ∧ (23 : Word16).toNat < 24 ∧
    (let record : List Byte := [2, 64, 0, 0, 5, 1, 0, 9, 1, 0, 4, 0, 0, 23, 1, 0, 1]
     record.length = 17 ∧ (record.getD 0 0).toNat = 2 ∧ (record.getD 10 0).toNat = 4 ∧
     (23 : GroupNo).val = (record.getD 13 0).toNat) ∧
    (let s := withSupply .ready (withOverride .active 0 locked)
     s.lmc.supply = .ready ∧ s.lmc.override ≠ .clear ∧ (s.lmc.groups.get 23).safety = false) :=
  ⟨takes_locked false, by decide⟩

/-- Each supply state, with the override CLEAR and not, the ramp count at both its ends. -/
theorem witness_SupplyActs : takes true locked ∧ locked.lmc.supply = .off ∧ (withSupply .fault locked).lmc.supply ≠ .off ∧
    locked.lmc.override = .clear ∧ (withOverride .active 0 locked).lmc.override ≠ .clear ∧ locked.power.running = true ∧
    (let s : State := { locked with lmc := { locked.lmc with supply := .ramp, rampCount := 750, rampKept := 250 } }
     s.lmc.supply = .ramp ∧ s.lmc.rampKept ≤ s.lmc.rampCount ∧ s.lmc.override = .clear ∧ s.lmc.ignQueue = [] ∧
     s.lmc.rampKept + 500 ≤ s.lmc.rampCount) ∧
    (withSupply .ready locked).lmc.supply = .ready :=
  ⟨takes_locked true, by decide⟩

/-- Each override state with a source asserted and with none; release counts 99 and 100. -/
theorem witness_AlarmLineActs : State.reset.power.running = true ∧ State.reset.lmc.override = .clear ∧
    State.reset.lmc.flagSource = false ∧ (withOverride .active 0 State.reset).lmc.override = .active ∧
    State.reset.lmc.lineSource = false ∧ State.reset.lmc.ignQueue = [] ∧
    (withOverride .releasing 99 State.reset).lmc.releaseCount < 100 ∧
    100 ≤ (withOverride .releasing 100 State.reset).lmc.releaseCount ∧
    (withOverride .releasing 100 State.reset).lmc.override = .releasing := by decide

/-- No boundary due; a running group of each mode, one that stands and one whose last burst ends, in the dark and with
groups asking for light. -/
theorem witness_BoundaryAdvancesGroup : State.reset.lmc.boundaryDue = false ∧
    (let s := atBoundary (withGroup (lampOn .blink) State.reset)
     s.power.running = true ∧ s.lmc.boundaryDue = true ∧ ignitable s = false) ∧
    (lampOn .blink).ign ≠ .waiting ∧ (lampOn .blink).running = true ∧ (lampOn .blink).begun = false ∧
    (lampOn .blink).stands = false ∧ (lampOn .steady).pat.mode = .steady ∧ (lampOn .pulses).pat.mode = .pulses ∧
    (lampOn .fade).level ≠ (lampOn .fade).pat.levelOn ∧
    (let s := withSupply .ready (atBoundary (withGroup (lampOn .blink) State.reset))
     s.lmc.boundaryDue = true ∧ ignitable s = true ∧ s.lmc.ignQueue = []) ∧
    (advance (lampOn .blink)).ended = false ∧ (lampOn .blink).level = 0 ∧ 0 < (advance (lampOn .blink)).full.level ∧
    (advance { lampOn .pulses with begun := true, phaseOn := false, framesLeft := 1, pulsesLeft := 1 }).ended = true := by
  decide

/-- A group that asks for its first light at a boundary. -/
theorem witness_IgnitionBudgetHolds :
    let s := withSupply .ready (atBoundary (withGroup (lampOn .blink) State.reset))
    BudgetKept s ∧ IgnitionKept s ∧ s.power.running = true ∧ s.lmc.boundaryDue = true ∧ ignitable s = true := by
  unfold BudgetKept IgnitionKept
  decide +kernel

/-- A family and language out of range, one with no clip, one with a clip, and one too many sectors. -/
theorem witness_ClipLocksAct : takes true locked ∧ 1023 < (1024 : Word16).toNat ∧
    (11 < (12 : Byte).toNat ∧ (12 : Byte).toNat ≠ 15) ∧ (1023 : Word16).toNat ≤ 1023 ∧ (15 : Byte).toNat = 15 ∧
    lookup locked 7 15 = none ∧ lookup (withClip locked) 7 15 = some clip7 ∧ locked.ccc.locks.Nodup ∧
    16 < (List.range 16).length + 1 ∧ locked.ccc.locks.length + 1 ≤ 16 :=
  ⟨takes_locked true, by decide +kernel⟩

/-- The bounds of the three requests' parameters; an operation there, and a fetch in progress; with none an idle memory and a
busy one. -/
theorem witness_ClipRequestsAct : takes false locked ∧ 4095 < (4096 : Word16).toNat ∧ (4095 : Word16).toNat ≤ 4095 ∧
    48 < (List.replicate 49 (0 : Byte)).length ∧ 256 < (250 : BitVec 24).toNat % 256 + (List.replicate 7 (0 : Byte)).length ∧
    (208 : BitVec 24).toNat % 256 + (List.replicate 48 (0 : Byte)).length ≤ 256 ∧ 48 < (49 : Byte).toNat ∧
    16777216 < (16777215 : BitVec 24).toNat + (2 : Byte).toNat ∧ (16777215 : BitVec 24).toNat + (1 : Byte).toNat ≤ 16777216 ∧
    locked.cmp.maint = none ∧ locked.cmp.fetch = none ∧ locked.ccc.queue = [] ∧
    (withMaint (.erase 3) .sent 5 locked).cmp.maint ≠ none ∧ locked.dev.busy = none ∧
    ({ locked.dev with busy := some (.erase 5) }).busy ≠ none ∧
    ({ locked.cmp with fetch := some { sector := 9, line := 0, overBusy := false } }).fetch ≠ none :=
  ⟨takes_locked false, by decide⟩

/-- A fetch of urgency 4 and one of urgency 2 beside a maintenance operation that waits, over an idle memory and a busy one, a
read among them; an INVALID cache sector and a VALID one, and a fetch in progress. -/
theorem witness_FetchesRun :
    (let e : FetchEntry := { sector := 9, urgency := 4, waiting := [0] }
     let s : State := { State.reset with ccc := { State.reset.ccc with queue := [e] } }
     s.cmp.fetch = none ∧ s.ccc.queue = [] ++ e :: [] ∧ s.ccc.lines.get 0 = .invalid ∧ s.cmp.maint = none) ∧
    ((withMaint (.erase 3) .pending 0 State.reset).cmp.maint = some { op := .erase 3, stage := .pending, ticks := 0 } ∧
      (2 : Nat) ≠ 4 ∧ (withMaint (.erase 3) .pending 0 State.reset).cmp.fetch = none ∧ State.reset.dev.busy = none ∧
      ({ State.reset.dev with busy := some (.erase 5) }).busy ≠ none) ∧
    (withMaint (.read 256 2) .pending 0 State.reset).cmp.maint = some { op := .read 256 2, stage := .pending, ticks := 0 } ∧
    (cached State.reset).ccc.lines.get 0 = .valid 9 [(1, 2)] ∧
    (let f : Fetch := { sector := 9, line := 0, overBusy := false }
     let s : State := { State.reset with cmp := { State.reset.cmp with fetch := some f } }
     s.power.running = true ∧ s.cmp.fetch = some f ∧ ∀ i, i ≠ f.line → (s.ccc.lines.get i).tag ≠ some f.sector) := by
  decide

/-- An erase and a read waiting for ready, a read and a program sent, counts of 2,999 and 3,000, and a memory that runs what the chip has
given up. -/
theorem witness_MaintenanceEnds : State.reset.power.running = true ∧ State.reset.dev.busy = none ∧
    (withMaint (.erase 3) .waitReady 5 State.reset).cmp.maint =
      some { op := .erase 3, stage := .waitReady, ticks := 5 } ∧
    (withMaint (.read 3 48) .waitReady 5 State.reset).cmp.maint =
      some { op := .read 3 48, stage := .waitReady, ticks := 5 } ∧
    ((withMaint (.read 3 48) .sent 5 State.reset).cmp.maint = some { op := .read 3 48, stage := .sent, ticks := 5 } ∧
      (withMaint (.read 3 48) .sent 5 State.reset).dev.busy = none ∧ State.reset.dev.bytes.wf = true ∧
      ∀ q ∈ State.reset.cth.replies, q.state ≠ .reserved) ∧
    (let s : State := { withMaint (.program 256 [1]) .sent 3000 State.reset with
       dev := { bytes := [(256, 3)], busy := some (.program 256 [1]), givenUp := false, draws := 0 } }
     s.cmp.maint = some { op := .program 256 [1], stage := .sent, ticks := 3000 } ∧
     s.dev.busy = some (.program 256 [1]) ∧ s.dev.givenUp = false ∧ s.dev.bytes.wf = true) ∧ 2999 < 3000 ∧ 3000 ≤ 3000 ∧
    (let p : Place := { state := .reserved, kind := 0x85, payload := [], resetsDeck := false }
     [p] = [] ++ p :: [] ∧ p.state = .reserved) ∧
    (let s : State := { State.reset with dev := { State.reset.dev with busy := some (.erase 5), givenUp := true } }
     s.cmp.maint = none ∧ s.dev.busy = some (.erase 5) ∧ s.dev.givenUp = true ∧ s.dev.bytes.wf = true ∧
     (withMaint (.erase 3) .waitReady 5 s).cmp.maint = some { op := .erase 3, stage := .waitReady, ticks := 5 } ∧
     (withMaint (.erase 3) .waitReady 5 s).dev.busy = some (.erase 5)) := by decide

/-- Announcement 1 with a neutral phrase of one and of two items, idle voices and one in ENDING, a resolved first
item and a phrase of which none resolves; a talk rise with none live. -/
theorem witness_VoicesAllocated : takes true (withClip phrased) ∧ PortSettled (withClip phrased) ∧
    (decodeAnnounce [5, 3, 15, 2, 0, 0, 0, 0, 0, 0, 0, 0]).isSome = true ∧ (withClip phrased).asq.phrases.get 5 ≠ [] ∧
    (withClip phrased).asq.current = none ∧
    (∀ v, ((withClip phrased).vpl.voices.get v).state = .idle ∨ ((withClip phrased).vpl.voices.get v).state = .ending) ∧
    firstClip (withClip phrased) ((withClip phrased).asq.phrases.get 5) 0 = some (0, clip7) ∧
    firstClip (withClip phrased) [{ family := 8, neutral := false }, { family := 7, neutral := true }] 0 = some (1, clip7) ∧
    firstClip phrased (phrased.asq.phrases.get 5) 0 = none ∧ phrased.asq.phrases.get 5 ≠ [] ∧
    liveAnnouncements phrased = [] :=
  ⟨⟨rfl, rfl, rfl, fun h => by cases h⟩, port_settled rfl, by decide +kernel⟩

/-- A PLAYING voice whose sector is VALID, and is not, before its clip's end and at it; one that gave sample 1,024 and one
that gave its clip's last, in its last round and before it; a voice in ENDING, sounding and silent. -/
theorem witness_VoicePeriods : (∀ x, PortSettled (rendered x)) ∧
    (let x : Voice := { voiceIn .playing with clip := some clip7, position := 99, cur := some 9 }
     x.state = .playing ∧ x.clip = some clip7 ∧ clip7.length ≤ x.position + 1 ∧
     (cached (rendered x)).ccc.lines.get 0 = .valid (clip7.first + x.position / 2048) [(1, 2)] ∧
     (cached (rendered x)).vpl.rendering = some rendering ∧ rendering.items.length ≤ x.item + 1) ∧
    (let x : Voice := { voiceIn .playing with clip := some clip7, position := 5, cur := none }
     x.position + 1 < clip7.length ∧ x.cur ≠ some 9 ∧ ∀ i : LineNo, ((rendered x).ccc.lines.get i).tag = none) ∧
    (let x : Voice := { voiceIn .ending with clip := some clip7, position := 5, cur := some 9 }
     x.state = .ending ∧ x.fadeSilent = false ∧ x.position < clip7.length ∧ clip7.first + x.position / 2048 = 9 ∧
     (voiceIn .ending).clip = none) ∧
    (let x : Voice := { voiceIn .playing with clip := some { clip7 with length := 3000 }, position := 1025, cur := some 9 }
     x.position < 3000 ∧ x.position % 2048 = 1025 ∧ x.next = none ∧ (x.position / 2048 + 1) * 2048 < 3000) ∧
    (let x : Voice := { voiceIn .playing with clip := some clip7, position := 100, cur := some 9 }
     x.state = .playing ∧ x.clip = some clip7 ∧ clip7.length ≤ x.position ∧ x.role = .speaker ∧ rendering.softCut = false ∧
     x.round + 1 < rendering.langs.length ∧ 0 < (rendered x).cth.settings.gap ∧
     rendering.items.length ≤ x.item + 1 ∧ rendering.langs.length ≤ ({ x with round := 1 }).round + 1 ∧
     firstClip (rendered x) rendering.items (roleLang x.role rendering.langs (x.round + 1)) = some (0, clip7) ∧
     firstClip (rendered x) ((rendering.items ++ [({ family := 8, neutral := true } : Item)] ++ rendering.items).drop (x.item + 1))
       (roleLang x.role rendering.langs x.round) = some (1, clip7) ∧
     firstClip (rendered x) (rendering.items.drop (x.item + 1)) (roleLang x.role rendering.langs x.round) = none ∧
     x.item < rendering.items.length) :=
  ⟨fun _ => port_settled rfl, by decide +kernel⟩

/-- A gap run, a headset and a speaker voice on their last item at 1,999 and 2,000 ticks, fades of 63 and 64 periods
with and without a claim, and an item that resolves. -/
theorem witness_VoiceExpiriesAct : (∀ x, PortSettled (rendered x)) ∧
    (let x : Voice := { voiceIn .gap with gap := 300, gapKept := 300 }
     ((rendered x).vpl.voices.get 0).state = .gap ∧ x.gapKept ≤ x.gap ∧ x.role = .speaker ∧
     x.owner = some rendering.owner ∧ (rendered x).vpl.rendering = some rendering ∧
     firstClip (rendered x) rendering.items (rendering.langs.getD (x.round + 1) 0) = some (0, clip7) ∧
     firstClip (rendered x) [{ family := 8, neutral := true }] (rendering.langs.getD (x.round + 1) 0) = none) ∧
    (let x : Voice := { voiceIn .priming with stall := 2000, clip := some clip7 }
     1999 < 2000 ∧ x.state = .priming ∧ 2000 ≤ x.stall ∧ x.clip = some clip7 ∧ x.role = .speaker ∧
     ({ x with role := .headset 0 }).role = .headset 0 ∧ rendering.items.length ≤ x.item + 1 ∧
     x.round + 1 < rendering.langs.length ∧ 0 < (rendered x).cth.settings.gap ∧
     ({ Reset.settings with gap := 0 }).gap = 0 ∧
     firstClip (rendered x) (rendering.items.drop (x.item + 1)) (roleLang x.role rendering.langs x.round) = none ∧
     x.item + 1 < (rendering.items ++ [({ family := 8, neutral := true } : Item)]).length ∧
     x.item + 1 = rendering.items.length ∧
     firstClip (rendered x) rendering.items (rendering.langs.getD (x.round + 1) 0) = some (0, clip7) ∧
     firstClip (rendered x) ((rendering.items ++ [({ family := 8, neutral := true } : Item)] ++ rendering.items).drop (x.item + 1))
       (roleLang x.role rendering.langs x.round) = some (1, clip7)) ∧
    (let x : Voice := { voiceIn .ending with fade := 64, claim := some { owner := 1, role := .speaker, round := 0 } }
     63 < 64 ∧ x.state = .ending ∧ 64 ≤ x.fade ∧ x.claim = some { owner := 1, role := .speaker, round := 0 } ∧
     firstClip (rendered x) rendering.items (roleLang .speaker rendering.langs 0) = some (0, clip7) ∧
     firstClip (rendered x) [{ family := 8, neutral := true }] (roleLang .speaker rendering.langs 0) = none ∧
     ({ x with claim := none }).claim = none) :=
  ⟨fun _ => port_settled rfl, by decide +kernel⟩

theorem witness_DeckResetActs : takes false locked ∧ takes true locked ∧ locked.power.running = true ∧
    locked.cth.deckDue = false ∧ ({ locked.cth with deckDue := true }).deckDue = true :=
  ⟨takes_locked false, takes_locked true, by decide⟩

/-- A state with a command waiting, from which a step answers a next state and which has every property. -/
theorem witness_kept : Bounded { State.reset with pending := [.tick] } ∧
    GainsHeld { State.reset with pending := [.tick] } ∧ IgnitionKept { State.reset with pending := [.tick] } ∧
    BudgetKept { State.reset with pending := [.tick] } ∧ MemoryKept { State.reset with pending := [.tick] } ∧
    CacheKept { State.reset with pending := [.tick] } ∧ PortKept { State.reset with pending := [.tick] } := by
  refine ⟨by unfold Bounded; decide +kernel, by unfold GainsHeld; decide +kernel, by unfold IgnitionKept; decide +kernel,
    by unfold BudgetKept; decide +kernel, ⟨rfl, fun i k d h => ?_⟩, fun _ => ⟨fun i j k h _ => ?_, fun i k => ?_, ?_, ?_⟩,
    port_settled rfl, by decide, by decide, by simp [State.reset], by decide, by simp [State.reset, Reset.cmp]⟩
  · simp [State.reset, Reset.ccc] at h
  · simp [State.reset, Reset.ccc, Line.tag] at h
  · simp [State.reset, Reset.ccc, Reset.cmp]
  · decide
  · simp [State.reset, Reset.ccc]

/-- The third miss of the box polled in the period that ended: OFFLINE with its notice, its seats unplugged (R45, R49); the
reply is then judged. -/
theorem test_third_miss :
    (let s := withSeat seated (withBox { Reset.box with online := true, miss := 2 } (awaiting 0))
     let t := after (.boxReply none) s
     t.cth.notices = [.boxState 0 false] ∧ (t.scc.seats.get 0).present = false ∧ t.scc.awaited = none) := by decide +kernel

/-- The notice of a box reply taken in a slot's end is too late for that period's return frame, and waits (R35). -/
theorem test_box_notice_waits :
    (let s := withBox { Reset.box with online := true, miss := 2 } locked
     let t := after (.invalidSlot [] [.also (.boxReply none)]) { s with tif := { s.tif with counter := 3 } }
     t.out.returnFrame = [0xB1E7, 0x0004, 0, 0, 0xB1EB] ∧ t.cth.notices = [.boxState 0 false]) := by decide +kernel

/-- The tick first, then the clearing, then the deck alarm flag (R184, R186): the release count reaches its limit, the
override is CLEAR with its notice, and ACTIVE again with another. -/
theorem test_tick_clear_alarm :
    (let s := withOverride .releasing 99 locked
     let old := { s.tif with tickFor := [.lmc] }
     let t := takeEvents old { old with drive := { old.drive with alarm := true } } .nothing
       [.also (.tickAt .lmc), .also .overrideClear, .alarm] { s with tif := old }
     t.cth.notices = [.alarm false, .alarm true, .supplyState .ramp] ∧ t.lmc.override = .active) := by decide +kernel

/-- A deck reset between RCE's step and the request of its cue: the request is placed in the emptied state (R127). -/
theorem test_reset_before_request :
    (let s := hand { index := 0, action := .announce 5 1 0xF .speakers [0], stale := none } (playing (ann 7 2 5) phrased)
     let t := { s with cth := { s.cth with deckDue := true } }
     (takeEvents t.tif t.tif .nothing [.also .deckResetEffect, .delivery .asq] t).asq.current.map (·.priority) = some 1 ∧
     (takeEvents t.tif t.tif .nothing [.delivery .asq, .also .deckResetEffect] t).asq.current = none) := by decide +kernel

/-- A voice that has given the last sample of its clip, in its last round, of two items. -/
def atClipEnd : State :=
  let x : Voice := { voiceIn .playing with clip := some clip7, position := 100, cur := some 9, round := 1 }
  let i : Item := { family := 7, neutral := true }
  let s := playing (ann 1 0 5) (rendered x)
  { s with tif := locked.tif, vpl := { s.vpl with rendering := some { rendering with items := [i, i] } } }

/-- A stop before the item's end sends the voice to ENDING and nothing has played; after it the item has (R143). -/
theorem test_stop_meets_item_end :
    (let new := { atClipEnd.tif with drive := { atClipEnd.tif.drive with talk := true } }
     let stopped := takeEvents atClipEnd.tif new .nothing [.talk, .voice 0] atClipEnd
     let finished := takeEvents atClipEnd.tif new .nothing [.voice 0, .talk] atClipEnd
     (stopped.vpl.voices.get 0).position = 100 ∧ (stopped.vpl.voices.get 0).state = .ending ∧
     stopped.asq.queue.map (·.played) ++ stopped.asq.stack.map (·.played) = [false] ∧
     (finished.vpl.voices.get 0).position = 0 ∧ (finished.vpl.voices.get 0).state = .ending ∧
     finished.asq.queue.map (·.played) ++ finished.asq.stack.map (·.played) = [true]) := by decide +kernel

/-- A soft cut before the item's end finishes the voice with that item; after it the voice has its next item (R143). -/
theorem test_soft_cut_meets_item_end :
    ((followSample 0 (after (.cutSoft true 1) atClipEnd)).vpl.voices.get 0).state = .idle ∧
    ((after (.cutSoft true 1) (followSample 0 atClipEnd)).vpl.voices.get 0).state = .priming ∧
    ((after (.cutSoft true 1) (followSample 0 atClipEnd)).vpl.voices.get 0).item = 1 := by decide +kernel

/-- A downstream return frame between the shortened period and the VALID one goes out in the VALID period's turn (R18). -/
theorem test_short_downstream :
    (after (.validSlot ⟨[none], frame0, []⟩ [.also (.downstreamReturnFrame #v[0xB1E7, 0x0006, 0x0102, 0x0304, 0xB5F3])] [])
      State.reset).out.returnFrame.drop 2 = [0x0102, 0x0304, 0xB5F4] := by decide +kernel

end Sys2Proof.Tests
end

section
/-! PROOFS. The deck trunk: what the check word of a frame is as a number, and frame validity (R2). -/

namespace Sys2Proof.Proofs

open Sys2Proof Sys2Proof.Machine

theorem sumWords_cons (w : Word16) (ws : List Word16) : sumWords (w :: ws) = w + sumWords ws := by
  unfold sumWords
  rw [← List.sum_eq_foldl, ← List.sum_eq_foldl, List.sum_cons]

/-- The model adds 16-bit words, each sum wrapping; the spec sums unsigned numbers and reduces once. They agree. -/
theorem sumWords_toNat (ws : List Word16) : (sumWords ws).toNat = (ws.map BitVec.toNat).sum % 65536 := by
  induction ws with
  | nil => rfl
  | cons w ws ih => rw [sumWords_cons, BitVec.toNat_add, ih, Nat.add_mod_mod, List.map_cons, List.sum_cons]

/-- A word is the check word of `ws` when it is their sum modulo 65,536. -/
theorem eq_sumWords_iff (w : Word16) (ws : List Word16) :
    w = sumWords ws ↔ w.toNat = (ws.map BitVec.toNat).sum % 65536 := by
  rw [← BitVec.toNat_inj, sumWords_toNat]

theorem frameValid_iff (f : Vector Word16 21) :
    frameValid f = true ↔ f.get 0 = 0xB1E6#16 ∧ f.get 20 = sumWords (f.toList.take 20) := by
  simp [frameValid]

theorem returnValid_iff (f : Vector Word16 5) :
    returnValid f = true ↔ f.get 0 = 0xB1E7#16 ∧ f.get 4 = sumWords (f.toList.take 4) := by
  simp [returnValid]

/-- Settles O5: both tests compare the last word with `sumWords` of the words before it, which is R2's sum. -/
theorem frameValidity : Obligations.FrameValidity := by
  unfold Obligations.FrameValidity
  constructor
  · intro f
    rw [frameValid_iff, eq_sumWords_iff]
  · intro f
    rw [returnValid_iff, eq_sumWords_iff]

end Sys2Proof.Proofs
end

section
/-! PROOFS. SEAT: what its 7 parameter bytes decode to, what the present ones write in a seat record, and the command (R53,
R40). -/

namespace Sys2Proof.Proofs

open Sys2Proof Sys2Proof.Machine Sys2Proof.Laws

/-! ## A selection with none (R27) -/

theorem yes_eq_true {b : Byte} (h : b ≠ 0) : yes b = true := bne_iff_ne.mpr h

theorem decodeOpt_refused {n : Nat} {present value : Byte} (hp : present ≠ 0) (hv : n ≤ value.toNat) :
    decodeOpt n present value = none := by
  rw [decodeOpt, if_pos (yes_eq_true hp), asFin_ge hv, Option.map_none]

/-- An accepted selection. `Fin.ofNat` reduces modulo `n`, which changes nothing: a present value is in range. -/
theorem decodeOpt_accepted {n : Nat} [NeZero n] {present value : Byte} (h : present = 0 ∨ value.toNat < n) :
    decodeOpt n present value = some (if present = 0 then none else some (Fin.ofNat n value.toNat)) := by
  by_cases hp : present = 0
  · rw [if_pos hp, hp]
    rfl
  · have hv : value.toNat < n := h.resolve_left hp
    have hval : Fin.ofNat n value.toNat = ⟨value.toNat, hv⟩ := Fin.ext (Nat.mod_eq_of_lt hv)
    rw [if_neg hp, hval, decodeOpt, if_pos (yes_eq_true hp), asFin_lt hv, Option.map_some]

/-! ## SEAT's parameter bytes (R53) -/

theorem decodeSeatParams_of_length_ne {params : List Byte} (h : params.length ≠ 7) : decodeSeatParams params = none := by
  unfold decodeSeatParams
  split
  · exact absurd rfl h
  · rfl

/-- Either check alone refuses: the seat's number, or the language when it is present. -/
theorem decodeSeatParams_refused {n lp l : Byte} (vp v ep e : Byte) (h : 63 < n.toNat ∨ (lp ≠ 0 ∧ 11 < l.toNat)) :
    decodeSeatParams [n, lp, l, vp, v, ep, e] = none := by
  rcases h with hseat | ⟨hpresent, hlang⟩
  · simp only [decodeSeatParams, asFin_ge hseat]
  · cases hi : asFin 64 n.toNat <;> simp only [decodeSeatParams, hi, decodeOpt_refused hpresent hlang]

/-- The parameters that pass the checks, an absent one as none. -/
def seatParams (i : SeatNo) (lp l vp v ep e : Byte) : SeatParams where
  seat := i
  lang := if lp = 0 then none else some (Fin.ofNat 12 l.toNat)
  volume := if vp = 0 then none else some (min 15 v.toNat)
  enabled := if ep = 0 then none else some (e != 0)

theorem decodeSeatParams_accepted {n lp l : Byte} (vp v ep e : Byte) (hn : n.toNat < 64) (hl : lp = 0 ∨ l.toNat < 12) :
    decodeSeatParams [n, lp, l, vp, v, ep, e] = some (seatParams ⟨n.toNat, hn⟩ lp l vp v ep e) := by
  simp only [decodeSeatParams, asFin_lt hn, decodeOpt_accepted hl, seatParams, yes_eq, bne_iff_ne, ne_eq, ite_not]

/-! ## The write (R53, R40) -/

theorem writeEnabled_byte (e : Byte) (x : Seat) :
    writeEnabled (e != 0) x =
      { x with enabled := e != 0, stopPressed := if e = 0 ∧ x.enabled = true then false else x.stopPressed } := by
  have hdrop : (x.enabled && !(e != 0)) = true ↔ e = 0 ∧ x.enabled = true := by
    rw [Bool.and_eq_true, Bool.not_eq_true', bne_eq_false_iff_eq, and_comm]
  simp only [writeEnabled, hdrop]

/-- Each present parameter is in the record after it; enabled written no over yes drops stop pressed. -/
theorem applySeatParams_seatParams (i : SeatNo) (lp l vp v ep e : Byte) (x : Seat) :
    applySeatParams (seatParams i lp l vp v ep e) x =
      { x with lang := if lp = 0 then x.lang else Fin.ofNat 12 l.toNat,
               volume := if vp = 0 then x.volume else min 15 v.toNat,
               enabled := if ep = 0 then x.enabled else e != 0,
               stopPressed := if ep ≠ 0 ∧ e = 0 ∧ x.enabled = true then false else x.stopPressed } := by
  have hlang : (seatParams i lp l vp v ep e).lang.getD x.lang = if lp = 0 then x.lang else Fin.ofNat 12 l.toNat :=
    apply_ite (Option.getD · x.lang) _ _ _
  have hvolume : (seatParams i lp l vp v ep e).volume.getD x.volume = if vp = 0 then x.volume else min 15 v.toNat :=
    apply_ite (Option.getD · x.volume) _ _ _
  have henabled : (seatParams i lp l vp v ep e).enabled = if ep = 0 then none else some (e != 0) := rfl
  rw [applySeatParams, hlang, hvolume, henabled]
  by_cases hep : ep = 0
  · simp only [hep, ite_true, ne_eq, not_true_eq_false, false_and, ite_false]
  · simp only [hep, ite_false, ne_eq, not_false_eq_true, true_and, writeEnabled_byte]

/-! ## The command -/

theorem exec_seat_refused {bc : Bool} {params : List Byte} {s : State} (ht : takes bc s)
    (h : decodeSeatParams params = none) : exec (.seat bc params) s = .next (withReply bc 0x83 [4] s) :=
  action_takes ht (by rw [seatOp, h]; rfl)

theorem exec_seat_accepted {bc : Bool} {params : List Byte} {s : State} {p : SeatParams} (ht : takes bc s)
    (h : decodeSeatParams params = some p) :
    exec (.seat bc params) s =
      .next (withReply bc 0x83 [0] (setSeat p.seat (applySeatParams p (seatOf s p.seat)) s)) :=
  action_takes ht (by rw [seatOp, h]; rfl)

/-- Settles O36: the parameters decode to none in each refused case, and else to `seatParams`, whose write is the record
of the statement. -/
theorem seatActs : Obligations.SeatActs := by
  unfold Obligations.SeatActs
  intro bc params s ht
  constructor
  · intro hlength
    exact exec_seat_refused ht (decodeSeatParams_of_length_ne hlength)
  · rintro n lp l vp v ep e rfl
    constructor
    · intro hrefused
      exact exec_seat_refused ht (decodeSeatParams_refused vp v ep e hrefused)
    · intro hn hl
      rw [exec_seat_accepted ht (decodeSeatParams_accepted vp v ep e hn hl), applySeatParams_seatParams]
      rfl

end Sys2Proof.Proofs
end

section
/-! PROOFS. Gain: the multiplier of an applied index (R69), a path's output (R70) and the speed boost of a curve (R61). -/

namespace Sys2Proof.Proofs

open Sys2Proof Sys2Proof.Machine

/-! ## The multiplier of an applied index (R69) -/

theorem multiplier_of_mute_le {g : Nat} (h : 121 ≤ g) : multiplier g = 0 := if_pos h

theorem multiplier_of_lt_mute {g : Nat} (h : g < 121) :
    multiplier g = multiplierTable.getD (g % 12) 0 / 2 ^ (g / 12) := by
  have hbelow : ¬Config.mute ≤ g := Nat.not_le.mpr h
  rw [multiplier, if_neg hbelow, Nat.shiftRight_eq_div_pow]

/-- Twelve steps more stay at the same table entry and shift by one place more. -/
theorem multiplier_add_twelve {g : Nat} (h : g + 12 < 121) : multiplier (g + 12) = multiplier g / 2 := by
  have hoctave : (g + 12) / 12 = g / 12 + 1 := Nat.add_div_right g (by decide)
  rw [multiplier_of_lt_mute h, multiplier_of_lt_mute (by omega), Nat.add_mod_right, hoctave, pow_succ,
    Nat.div_div_eq_div_mul]

theorem multiplierTable_le : ∀ r < 12, multiplierTable.getD r 0 ≤ 32768 := by decide

theorem multiplier_le (g : Nat) : multiplier g ≤ 32768 := by
  rcases Nat.lt_or_ge g 121 with hg | hg
  · rw [multiplier_of_lt_mute hg]
    exact (Nat.div_le_self _ _).trans (multiplierTable_le _ (Nat.mod_lt g (by decide)))
  · rw [multiplier_of_mute_le hg]
    exact Nat.zero_le _

/-! ## A path's output (R70) -/

/-- The divisor is positive, so the model's division is the rule's floor. -/
theorem scale_eq_fdiv (x : Int) (m : Nat) : scale x m = (x * (m : Int) + 16384).fdiv 32768 :=
  (Int.fdiv_eq_ediv_of_nonneg _ (by decide)).symm

/-- A multiplier is at most 1 in units of 1/32,768, so no path saturates. -/
theorem scale_mem_sample {x : Int} {m : Nat} (hlow : -32768 ≤ x) (hhigh : x ≤ 32767) (hm : m ≤ 32768) :
    -32768 ≤ scale x m ∧ scale x m ≤ 32767 := by
  have hproduct_low : -32768 * (m : Int) ≤ x * m := Int.mul_le_mul_of_nonneg_right hlow (Int.natCast_nonneg m)
  have hproduct_high : x * (m : Int) ≤ 32767 * m := Int.mul_le_mul_of_nonneg_right hhigh (Int.natCast_nonneg m)
  unfold scale
  omega

theorem scale_unit (x : Int) : scale x 32768 = x := by
  unfold scale
  omega

theorem scale_zero (x : Int) : scale x 0 = 0 := by
  unfold scale
  omega

/-! ## The speed boost (R61) -/

theorem speedBoost_of_le_first {curve : Vector CurvePoint 8} {u : Nat} (h : u ≤ (curve.get 0).speed) :
    speedBoost curve u = (curve.get 0).boost := if_pos h

theorem speedBoost_of_last_le {curve : Vector CurvePoint 8} {u : Nat} (hfirst : (curve.get 0).speed < u)
    (hlast : (curve.get 7).speed ≤ u) : speedBoost curve u = (curve.get 7).boost := by
  rw [speedBoost, if_neg (Nat.not_le.mpr hfirst), if_pos hlast]

theorem speedBoost_between {curve : Vector CurvePoint 8} {u : Nat} (hfirst : (curve.get 0).speed < u)
    (hlast : u < (curve.get 7).speed) : speedBoost curve u = boostFrom (curve.get 0) curve.toList.tail u := by
  rw [speedBoost, if_neg (Nat.not_le.mpr hfirst), if_neg (Nat.not_le.mpr hlast)]

/-- The segment taken ends at the first point that is not below the speed. -/
theorem boostFrom_eq_interpolate (a : CurvePoint) (rest : List CurvePoint) (u k : Nat) (hk : k + 1 < (a :: rest).length)
    (hbelow : ∀ (j : Nat) (_hj : j ≤ k), (a :: rest)[j].speed < u) (hend : u ≤ (a :: rest)[k + 1].speed) :
    boostFrom a rest u = interpolate (a :: rest)[k] (a :: rest)[k + 1] u := by
  induction rest generalizing a k with
  | nil => exact absurd (Nat.lt_of_succ_lt_succ hk) (Nat.not_lt_zero k)
  | cons b rest ih =>
    cases k with
    | zero => exact if_pos hend
    | succ k =>
      have hb : b.speed < u := hbelow 1 (Nat.le_add_left 1 k)
      rw [boostFrom, if_neg (Nat.not_le.mpr hb)]
      exact ih b k (Nat.lt_of_succ_lt_succ hk) (fun j hj => hbelow (j + 1) (Nat.succ_le_succ hj)) hend

theorem first_cons_tail_length (curve : Vector CurvePoint 8) : (curve.get 0 :: curve.toList.tail).length = 8 := by simp

/-- The list of points that `speedBoost` hands to `boostFrom` is the curve, point by point. -/
theorem first_cons_tail_getElem (curve : Vector CurvePoint 8) (j : Fin 8) :
    (curve.get 0 :: curve.toList.tail)[j.val]'(j.isLt.trans_eq (first_cons_tail_length curve).symm) = curve.get j := by
  cases j using Fin.cases with
  | zero => rfl
  | succ j => simp [Vector.get_eq_getElem]

theorem speedBoost_eq_interpolate {curve : Vector CurvePoint 8} {u : Nat} (i : Fin 7)
    (hbelow : ∀ j : Fin 8, j.val ≤ i.val → (curve.get j).speed < u) (hlast : u < (curve.get 7).speed)
    (hend : u ≤ (curve.get i.succ).speed) :
    speedBoost curve u = interpolate (curve.get i.castSucc) (curve.get i.succ) u := by
  have hpoint := first_cons_tail_getElem curve
  rw [speedBoost_between (hbelow 0 (Nat.zero_le _)) hlast, ← hpoint i.castSucc, ← hpoint i.succ]
  apply boostFrom_eq_interpolate
  · intro j hj
    have hj8 : j < 8 := by omega
    exact (hpoint ⟨j, hj8⟩).symm ▸ hbelow ⟨j, hj8⟩ hj
  · exact (hpoint i.succ).symm ▸ hend

/-- Settles O16: the laws of `multiplier`, of `scale` and of `speedBoost` above, each case by its own. -/
theorem gainArithmetic : Obligations.GainArithmetic := by
  unfold Obligations.GainArithmetic
  refine ⟨⟨fun _ => multiplier_of_mute_le, fun _ => multiplier_add_twelve, ?_, ?_⟩, ?_⟩
  · intro g hg
    rw [multiplier_of_lt_mute hg, List.getElem!_eq_getElem?_getD, List.getD_eq_getElem?_getD]
    rfl
  · intro x g hlow hhigh
    obtain ⟨hmin, hmax⟩ := scale_mem_sample hlow hhigh (multiplier_le g)
    exact ⟨scale_eq_fdiv x _, hmin, hmax, scale_unit x, scale_zero x⟩
  · intro curve u
    exact ⟨speedBoost_of_le_first, speedBoost_of_last_le, speedBoost_eq_interpolate⟩

end Sys2Proof.Proofs
end

section
/-! PROOFS. QUIET: the set of zones its byte decodes to, the owner of its request, and the command (R80). -/

namespace Sys2Proof.Proofs

open Sys2Proof Sys2Proof.Machine Sys2Proof.Laws

/-! ## A set of zones (R27) -/

theorem decodeMask_refused {b : Byte} (h : 15 < b.toNat) : decodeMask b = none := if_neg (Nat.not_lt.mpr h)

theorem decodeMask_accepted {b : Byte} (h : b.toNat ≤ 15) : decodeMask b = some (b.setWidth 4) :=
  if_pos (Nat.lt_succ_of_le h)

/-- The four bits of a zone set are the low bits of its byte. -/
theorem inMask_setWidth (b : Byte) (z : Zone) : inMask (b.setWidth 4) z = b.getLsbD z.val := by
  rw [inMask, BitVec.getLsbD_setWidth, decide_eq_true z.isLt, Bool.true_and]

/-! ## The request by its bytes (R30) -/

theorem ownerOf_quiet (bc : Bool) (params : List Byte) (s : State) :
    ownerOf bc 3 (0x40 :: params) s = quietAction params s := rfl

theorem quietAction_of_length_ne {params : List Byte} (h : params.length ≠ 2) (s : State) :
    quietAction params s = (s, answer .badValue) := by
  unfold quietAction
  split
  · exact absurd rfl h
  · rfl

/-! ## The command -/

theorem exec_quiet_refused {bc : Bool} {zones : Byte} (on : Byte) {s : State} (ht : takes bc s)
    (h : decodeMask zones = none) : exec (.quiet bc zones on) s = .next (withReply bc 0x83 [4] s) :=
  action_takes ht (by rw [quietOp, h]; rfl)

theorem exec_quiet_accepted {bc : Bool} {zones : Byte} (on : Byte) {s : State} {m : ZoneMask} (ht : takes bc s)
    (h : decodeMask zones = some m) :
    exec (.quiet bc zones on) s = .next (withReply bc 0x83 [0] (setQuiet m (on != 0) s)) :=
  action_takes ht (by rw [quietOp, h, yes_eq]; rfl)

/-- Settles O37: the byte decodes to none above 15, and else to its low four bits, whose zones `setQuiet` writes; a
payload of another length never reaches the decoding. -/
theorem quietActs : Obligations.QuietActs := by
  unfold Obligations.QuietActs
  intro bc zones on s ht
  refine ⟨?_, ?_, ?_⟩
  · intro hzones
    exact exec_quiet_refused on ht (decodeMask_refused hzones)
  · intro hzones
    rw [exec_quiet_accepted on ht (decodeMask_accepted hzones)]
    simp only [setQuiet, inMask_setWidth]
  · intro params hlength
    exact takeRequest_takes ht (by rw [ownerOf_quiet, quietAction_of_length_ne hlength]; rfl)

end Sys2Proof.Proofs
end

section
/-! PROOFS. The machine: a step, the answer of every command, power and warm-up, the values after warm-up, a return frame from
downstream, and the kept properties of the state after reset. -/

namespace Sys2Proof.Proofs

open Sys2Proof Sys2Proof.Machine Sys2Proof.Laws

/-! ## A step -/

theorem step_cons {c : Instr} {rest : List Instr} {s : State} (h : s.pending = c :: rest) :
    step s = exec c { s with pending := rest } := by
  rw [step, h]
  rfl

theorem step_nil {s : State} (h : s.pending = []) : step s = .next s := by rw [step, h]

/-- Settles O1: the two cases of the queue. -/
theorem stepRunsFrontCommand : Obligations.StepRunsFrontCommand := by
  unfold Obligations.StepRunsFrontCommand
  exact ⟨fun _ _ _ => step_cons, fun _ => step_nil⟩

/-! ## Every command answers -/

/-- A command answers a next state and leaves the queue of commands as it was. -/
def Answers (o : Host.Outcome State Fault Refusal) (s : State) : Prop := ∃ t, o = .next t ∧ t.pending = s.pending

theorem answers_whenRunning {f : State → State} {s : State} (h : (f s).pending = s.pending) :
    Answers (whenRunning f s) s := by
  refine ⟨_, rfl, ?_⟩
  split
  · exact h
  · rfl

theorem answers_whenLocked {f : State → State} {s : State} (h : (f s).pending = s.pending) : Answers (whenLocked f s) s := by
  apply answers_whenRunning
  split
  · exact h
  · rfl

/-- A request taken at CTH, whose owner touches no record outside the chip's blocks. -/
theorem answers_request {bc : Bool} {kind : Byte} {f : State → State × Answer} {s : State}
    (hf : ∀ t, Inner s t → Inner s (f t).1) : Answers (whenLocked (takeRequest bc kind f) s) s :=
  answers_whenLocked ((inner_closed s).takeRequest hf bc kind s (Inner.refl s)).pending

/-- An event of the clock, the counts or the ports. -/
theorem answers_event (e : EndEvent) (s : State) : Answers (whenRunning (takeEvent e) s) s :=
  answers_whenRunning ((outer_closed s).takeEvent e s (Outer.refl s)).pending

theorem exec_answers (c : Instr) (s : State) : Answers (exec c s) s := by
  have ci := inner_closed s
  cases c
  case powerOn => exact ⟨_, rfl, rfl⟩
  case powerFail => exact ⟨_, rfl, rfl⟩
  case resetLineAssert => exact ⟨_, rfl, rfl⟩
  case resetLineRelease => exact ⟨_, rfl, rfl⟩
  case warmUpEnd adr =>
    refine ⟨_, rfl, ?_⟩
    unfold warmUpEnds
    split <;> rfl
  case validSlot w short order => exact answers_whenRunning (slotEnds_outer _ _ _ s).pending
  case invalidSlot ws order => exact answers_whenRunning (slotEnds_outer _ _ _ s).pending
  case tick =>
    refine ⟨_, rfl, ?_⟩
    unfold tickAll
    split
    · exact ((outer_closed s).tickEnds s (Outer.refl s)).pending
    · rfl
  case memoryReady =>
    refine ⟨_, rfl, ?_⟩
    split
    · exact ((outer_closed s).memoryReady s (Outer.refl s)).pending
    · rfl
  case downstreamReturnFrame f => exact answers_event (.downstreamReturnFrame f) s
  case boxReply r => exact answers_event (.boxReply r) s
  case deckResetEffect => exact answers_event .deckResetEffect s
  case talkHangExpiry => exact answers_event .talkHangExpiry s
  case voicesFinished => exact answers_event .voicesFinished s
  case gapExpiry v => exact answers_event (.gapExpiry v) s
  case clipStall v => exact answers_event (.clipStall v) s
  case fadeEnd v => exact answers_event (.fadeEnd v) s
  case fetchComplete => exact answers_event .fetchComplete s
  case maintenanceTimeout => exact answers_event .maintenanceTimeout s
  case scanFrameBoundary => exact answers_event .scanFrameBoundary s
  case supplyRampDone => exact answers_event .supplyRampDone s
  case supplyRampTimeout => exact answers_event .supplyRampTimeout s
  case supplyGoodLost => exact answers_event .supplyGoodLost s
  case deckAlarmInput low => exact answers_event (.deckAlarmInput low) s
  case overrideClear => exact answers_event .overrideClear s
  case badKind k => exact answers_request fun _ ht => ht
  case unknownAction bc code => exact answers_request fun _ ht => ht
  case stateRead => exact answers_request fun _ ht => ht
  case entryWrite t i r => exact answers_request (ci.entryWriteOp t _ r)
  case entryRead t i => exact answers_request (ChipClosed.entryReadOp t _)
  case clipErase k => exact answers_request (ci.clipEraseOp _)
  case clipProgram a d => exact answers_request (ci.clipProgramOp _ d)
  case clipRead a n => exact answers_request (ci.clipReadOp _ _)
  case deckReset bc => exact answers_request (ci.deckResetOp bc)
  case announce bc ps => exact answers_request (ci.announceOp ps)
  case cutSoft bc id => exact answers_request (ci.cutOp id false)
  case cutHard bc id => exact answers_request (ci.cutOp id true)
  case scene bc n => exact answers_request (ci.sceneOp n)
  case groupPreset bc g p st => exact answers_request (ci.groupPresetOp g p st)
  case groupFields bc g m a b d e f k st => exact answers_request (ci.groupFieldsOp g m a b d e f k st)
  case groupStart bc g => exact answers_request (ci.groupStartOp g)
  case groupStop bc g => exact answers_request (ci.groupStopOp g)
  case groupPending bc g a b => exact answers_request (ci.groupPendingOp g a b)
  case groupHold bc g b => exact answers_request (ci.groupHoldOp g b)
  case supplyOn bc => exact answers_request ci.supplyOnOp
  case supplyOff bc => exact answers_request ci.supplyOffOp
  case routeArm bc n tag =>
    have hr : Inner s (settle (takeRequest bc replyAction (routeArmOp n.toNat tag) s)) :=
      keep_settle ci.deck _ (ci.takeRequest (ci.routeArmOp _ tag) bc _ s (Inner.refl s))
    exact answers_whenLocked (f := fun s => settle (takeRequest bc replyAction (routeArmOp n.toNat tag) s)) hr.pending
  case routeDisarm bc => exact answers_request (keep_disarmRoute ci.deck)
  case stopClear bc => exact answers_request (keep_clearLatch ci.deck)
  case seat bc ps => exact answers_request (ci.seatOp ps)
  case quiet bc z on => exact answers_request (ci.quietOp z on)
  case clipLock bc f l => exact answers_request (ci.clipLockOp _ l)
  case clipUnlock bc p f l => exact answers_request (ci.clipUnlockOp p _ l)
  case cacheFlush bc => exact answers_request ci.cacheFlushOp

/-- Settles O2, by the commands' case split in `exec_answers`. -/
theorem everyCommandAnswers : Obligations.EveryCommandAnswers := by
  unfold Obligations.EveryCommandAnswers
  exact exec_answers

/-! ## Power and warm-up (R188) -/

/-- In warm-up a command that does not act there changes nothing: it waits for the end of warm-up. -/
theorem exec_warm {c : Instr} {s : State} (h : s.power.running = false) (hc : actsInWarmUp c = false) :
    exec c s = .next s := by
  cases c
  case powerOn | powerFail | resetLineAssert | resetLineRelease | warmUpEnd | tick | memoryReady => cases hc
  all_goals exact whenRunning_warm h

theorem exec_tick_warm {s : State} (h : s.power.running = false) :
    exec .tick s = .next { s with power := tickWarmUp s.power } := by
  change Host.Outcome.next (tickAll s) = _
  rw [tickAll, h]
  rfl

theorem exec_memoryReady_warm {s : State} (h : s.power.running = false) : exec .memoryReady s = .next (finishDevice s) := by
  change Host.Outcome.next _ = _
  rw [h]
  rfl

/-- Settles O3: in warm-up the frame of `exec_warm` and the two rows that act, and the four power and line rows by their
own equations. -/
theorem powerAndWarmUp : Obligations.PowerAndWarmUp := by
  unfold Obligations.PowerAndWarmUp
  refine ⟨fun s h => ⟨fun c => exec_warm h, ?_, exec_memoryReady_warm h⟩, fun s => ⟨rfl, rfl, rfl, rfl⟩⟩
  rw [exec_tick_warm h]
  simp only [tickWarmUp, Bool.and_eq_true, Bool.not_eq_true']

/-! ## The end of warm-up (R188, R189) -/

theorem warmUpDue_iff (p : Power) : warmUpDue p = true ↔
    p.running = false ∧ p.supplyUp = true ∧ p.resetLow = false ∧ p.powerLeft = 0 ∧ p.lineLeft = 0 := by
  simp only [warmUpDue, Bool.and_eq_true, Bool.not_eq_true', beq_iff_eq, and_assoc]

theorem exec_warmUpEnd_due {adr : BitVec 2} {s : State} (h : warmUpDue s.power = true) :
    exec (.warmUpEnd adr) s = .next (freshChip adr (if s.power.risen then .power else .line) s) := by
  change Host.Outcome.next (warmUpEnds adr s) = _
  rw [warmUpEnds, if_pos h]

theorem exec_warmUpEnd_early {adr : BitVec 2} {s : State} (h : ¬warmUpDue s.power = true) :
    exec (.warmUpEnd adr) s = .next s := by
  change Host.Outcome.next (warmUpEnds adr s) = _
  rw [warmUpEnds, if_neg h]

/-- The power record at the end of warm-up: every count is out. -/
theorem power_after_warmUp {p : Power} (h : warmUpDue p = true) : { p with running := true, risen := false } =
    { running := true, supplyUp := true, resetLow := false, powerLeft := 0, lineLeft := 0, risen := false : Power } := by
  obtain ⟨_, hsupply, hline, hpower, hcount⟩ := (warmUpDue_iff p).mp h
  rw [hsupply, hline, hpower, hcount]

/-- Settles O4: where the counts are out the state is `freshChip`, whose records are the values written out; else one of
the conditions of `warmUpDue` fails. -/
theorem warmUpEndValues : Obligations.WarmUpEndValues := by
  unfold Obligations.WarmUpEndValues
  intro adr s
  refine ⟨?_, ?_⟩
  · intro hrun hsupply hline hpower hcount
    have hdue : warmUpDue s.power = true := (warmUpDue_iff _).mpr ⟨hrun, hsupply, hline, hpower, hcount⟩
    rw [exec_warmUpEnd_due hdue, freshChip, power_after_warmUp hdue]
    rfl
  · intro hearly
    apply exec_warmUpEnd_early
    rw [warmUpDue_iff]
    rintro ⟨hrun, hsupply, hline, hpower, hcount⟩
    simp [hrun, hsupply, hline, hpower, hcount] at hearly

/-! ## Downstream (R18) -/

/-- Settles O11: the two branches of `takeDownstream`. -/
theorem downstreamFrameTaken : Obligations.DownstreamFrameTaken := by
  unfold Obligations.DownstreamFrameTaken
  intro f s hrun
  have hexec : exec (.downstreamReturnFrame f) s = .next (takeDownstream f s) := whenRunning_running hrun
  rw [hexec]
  constructor
  · intro hvalid
    rw [takeDownstream, if_pos hvalid]
    rfl
  · intro hinvalid
    rw [takeDownstream, hinvalid]
    rfl

/-! ## The state after reset -/

@[simp] theorem reset_seat (i : SeatNo) : State.reset.scc.seats.get i = Reset.seat i := by
  simp [State.reset, Reset.scc, Vector.get_eq_getElem]

@[simp] theorem reset_gain (i : SeatNo) : State.reset.hmx.gains.get i = { tc := 121, ta := 121, gc := 121, ga := 121 } := by
  simp [State.reset, Reset.hmx, Vector.get_eq_getElem]

@[simp] theorem reset_zone (z : Zone) : State.reset.zou.zones.get z = Reset.zone z := by
  simp [State.reset, Reset.zou, Vector.get_eq_getElem]

@[simp] theorem reset_group (g : GroupNo) : State.reset.lmc.groups.get g = Reset.group := by
  simp [State.reset, Reset.lmc, Vector.get_eq_getElem]

@[simp] theorem reset_line (i : LineNo) : State.reset.ccc.lines.get i = .invalid := by
  simp [State.reset, Reset.ccc, Vector.get_eq_getElem]

theorem reset_bounded : Bounded State.reset := by
  simp [Bounded, Reset.seat]
  simp [State.reset, Reset.cth, Reset.tif, Reset.ccc, Reset.rce, Reset.lmc, Reset.drive]

theorem reset_gainsHeld : GainsHeld State.reset := by
  simp [GainsHeld, Reset.seat, Reset.zone]

theorem reset_ignitionKept : IgnitionKept State.reset := by
  simp [IgnitionKept, Reset.group]
  simp [State.reset, Reset.lmc]

theorem reset_budgetKept : BudgetKept State.reset := by
  simp [BudgetKept, Reset.group]
  simp [State.reset, Reset.lmc]

theorem reset_cacheKept : CacheKept State.reset := by
  intro _
  simp [Line.tag]
  simp [State.reset, Reset.ccc, Reset.cmp]

theorem reset_portKept : PortKept State.reset := by
  simp [PortKept, PortSettled, State.reset, Reset.cmp, Reset.cth]

theorem reset_memoryKept : MemoryKept State.reset := by
  simp [MemoryKept, reset_memory_wf]

theorem reset_announcementsKept : AnnouncementsKept State.reset := by
  simp [AnnouncementsKept, liveAnnouncements, State.reset, Reset.asq]

/-- Settles O60: each table of the state after reset holds one record throughout, and every queue is empty. -/
theorem resetIsKept : Obligations.ResetIsKept := by
  unfold Obligations.ResetIsKept
  exact ⟨reset_bounded, reset_gainsHeld, reset_ignitionKept, reset_budgetKept, reset_cacheKept, reset_portKept,
    reset_memoryKept, reset_announcementsKept⟩

end Sys2Proof.Proofs
end

section
/-! PROOFS. What the commands can do, block by block: a property kept by each block's operations is kept by every event, every
request and every step. Each bundle of operations has a constructor for the properties that do not look at its block. -/

namespace Sys2Proof.Proofs

open Sys2Proof Sys2Proof.Machine Sys2Proof.Laws

variable {P : State → Prop}

/-! ## The bundles -/

/-- Kept by ASQ's operations. -/
structure AsqOps (P : State → Prop) : Prop where
  internal : ∀ p pr m rd ls st o s, P s → P (takeInternal (newAnnouncement s p pr m rd ls st o) s)
  announce : ∀ ps s, P s → P (announceOp ps s).1
  cut : ∀ id b s, P s → P (cut id b s).1
  rise : ∀ s, P s → P (talkRise s)
  fall : ∀ s, P s → P (talkFall s)
  hang : ∀ s, P s → P (hangExpires s)
  report : ∀ s, P s → P (takeReport s)
  tick : ∀ s, P s → P (tickHang s)
  phrase : ∀ p x s, P s → P (storePhrase p x s)
  reset : ∀ s, P s → P (deckResetAsq s)

/-- Kept by ZOU's own operations. -/
structure ZouOps (P : State → Prop) : Prop where
  quiet : ∀ m b s, P s → P (setQuiet m b s)
  zone : ∀ z w s, P s → P (storeZone z w s)
  tick : ∀ s, P s → P (tickZou s)

/-- Kept by what SCC and HMX do to their own records by requests, presses and deliveries. -/
structure SeatRequests (P : State → Prop) : Prop where
  latch : ∀ x s, P s → P { s with scc := { s.scc with latch := x } }
  unlatch : ∀ s, P s → P { s with scc := { s.scc with
    latch := none, seats := mapTable (fun x => { x with stopPressed := false }) s.scc.seats } }
  stopMark : ∀ i s, P s → P (setSeat i { seatOf s i with stopPressed := true } s)
  seat : ∀ ps s, P s → P (seatOp ps s).1
  store : ∀ i r w s, decodeSeat r = some w → P s → P (storeSeat i w s)
  language : ∀ l x s, P s → P (storeLanguage l x s)
  curve : ∀ x s, P s → P (storeCurve x s)

/-- Kept by what SCC and HMX do to their own records, by box replies and ticks as well. -/
structure SeatOps (P : State → Prop) : Prop extends SeatRequests P where
  box : ∀ b x s, P s → P (setBox b x s)
  awaited : ∀ x s, P s → P { s with scc := { s.scc with awaited := x } }
  plugIn : ∀ i s, P s → P (plugIn i s)
  unplug : ∀ i s, P s → P (unplug i s)
  press : ∀ i l u d s, P s → P (pressSeat i l u d s)
  tick : ∀ s, P s → P (tickHmx s)

/-- Kept by the steps of the route, which make deliveries. -/
structure RouteSteps (P : State → Prop) : Prop where
  change : ∀ s, P s → P (routeChange s)
  arm : ∀ n t s, P s → P (armRoute n t s).1

/-- Kept by what RCE does to its own record outside its steps, and where the blocks take their deliveries. -/
structure RouteOps (P : State → Prop) : Prop where
  due : ∀ p s, P s → P (setRce { s.rce with due := s.rce.due.filter p } s)
  next : ∀ p d rest s, takeFirst p s.rce.due = some (d, rest) → P s → P (setRce { s.rce with due := rest } s)
  disarm : ∀ s, P s → P (disarmRoute s)
  cue : ∀ i x s, P s → P (storeCue i x s)
  reset : ∀ s, P s → P (deckResetRce s)

/-- Kept by LMC's operations. -/
structure LmcOps (P : State → Prop) : Prop extends LampClosed P where
  cell : ∀ i x s, P s → P (storeCell i x s)
  group : ∀ g r w s, decodeGroup r = some w → P s → P (storeGroup g w s)
  preset : ∀ i x s, P s → P (storePreset i x s)
  scene : ∀ i x s, P s → P (storeScene i x s)
  pending : ∀ g a b s, P s → P (writePending g a b s)
  hold : ∀ g b s, P s → P (setGroup g { groupOf s g with hold := b } s)
  supplyOn : ∀ s, P s → P (supplyOnOp s)
  supplyOff : ∀ s, P s → P (supplyOffOp s)
  rampDone : ∀ s, P s → P (rampDone s)
  rampTimeout : ∀ s, P s → P (rampTimeout s)
  goodLost : ∀ s, P s → P (goodLost s)
  line : ∀ b s, P s → P (alarmLine b s)
  clears : ∀ s, P s → P (overrideClears s)
  tick : ∀ s, P s → P (tickLmc s)
  boundary : ∀ s, P s → P (boundary s)

/-- Kept by what requests and the deck reset bring CCC, CMP and the clip memory. -/
structure CacheRequests (P : State → Prop) : Prop where
  clip : ∀ i x s, P s → P (storeClip i x s)
  lock : ∀ f l s, P s → P (clipLockOp f l s).1
  unlock : ∀ p f l s, P s → P (clipUnlockOp p f l s).1
  flush : ∀ s, P s → P (cacheFlushOp s).1
  erase : ∀ k s, P s → P (clipEraseOp k s).1
  program : ∀ a d s, P s → P (clipProgramOp a d s).1
  read : ∀ a n s, P s → P (clipReadOp a n s).1
  reset : ∀ s, s.cth.replies = [] → P s → P (deckResetCache s)

/-- Kept by the operations of CCC, CMP and the clip memory, their own events as well. -/
structure CacheOps (P : State → Prop) : Prop extends CacheRequests P where
  complete : ∀ s, P s → P (fetchCompletes s)
  ready : ∀ s, P s → P (memoryReady s)
  timeout : ∀ s, P s → P (maintenanceTimesOut s)
  tick : ∀ s, P s → P (tickCmp s)

/-- Kept by what CTH does to its own record, a request's reply apart. -/
structure CthOps (P : State → Prop) : Prop where
  notice : ∀ n s, P s → P (pushNotice n s)
  assembly : ∀ x s, P s → P (setAssembly x s)
  settings : ∀ x s, P s → P (storeSettings x s)
  pendingReset : ∀ s, P s → P { s with cth := { s.cth with deckPending := true } }
  turn : ∀ s, P s → P (returnTurn s).1
  reset : ∀ s, P s → P (deckResetCth s)

/-- Kept by what requests, deliveries and the slot's own events bring every block, the steps of the route apart. -/
structure OwnClosed (P : State → Prop) : Prop extends VoiceClosed P where
  asqOps : AsqOps P
  zouOps : ZouOps P
  seatRequests : SeatRequests P
  routeOps : RouteOps P
  lmcOps : LmcOps P
  cacheRequests : CacheRequests P
  cthOps : CthOps P

/-- Kept by every block's operations, the steps of the route apart. -/
structure OpsClosed (P : State → Prop) : Prop extends VoiceClosed P where
  asqOps : AsqOps P
  zouOps : ZouOps P
  seatOps : SeatOps P
  routeOps : RouteOps P
  lmcOps : LmcOps P
  cacheOps : CacheOps P
  cthOps : CthOps P
  tickFor : ∀ x s, P s → P { s with tif := { s.tif with tickFor := x } }
  downstream : ∀ x s, P s → P { s with tif := { s.tif with downstream := x } }

theorem deckResetRce_replies (s : State) : (deckResetRce s).cth.replies = s.cth.replies := by
  unfold deckResetRce
  dsimp only
  split
  · rfl
  · exact pushNotice_replies _ _

/-! ## Events -/

theorem OpsClosed.own (c : OpsClosed P) : OwnClosed P where
  toVoiceClosed := c.toVoiceClosed
  asqOps := c.asqOps
  zouOps := c.zouOps
  seatRequests := c.seatOps.toSeatRequests
  routeOps := c.routeOps
  lmcOps := c.lmcOps
  cacheRequests := c.cacheOps.toCacheRequests
  cthOps := c.cthOps

namespace OwnClosed

theorem requestChime (c : OwnClosed P) (s : State) (h : P s) : P (requestChime s) := by
  unfold Machine.requestChime
  split
  · exact h
  · exact keep_ite h (c.asqOps.internal _ _ _ _ _ _ _ s h)

theorem stopPress (c : OwnClosed P) (i : SeatNo) (s : State) (h : P s) : P (stopPress i s) := by
  have ht := c.seatRequests.stopMark i s h
  unfold Machine.stopPress
  refine keep_ite h ?_
  split
  · exact ht
  · exact keep_lampStopRequest c.lmcOps.toLampClosed _
      (c.requestChime _ (c.cthOps.notice _ _ (c.seatRequests.latch _ _ ht)))

theorem clearLatch (c : OwnClosed P) (s : State) (h : P s) : P (clearLatch s) := by
  unfold Machine.clearLatch
  split
  · exact h
  · exact keep_lampStopEnd c.lmcOps.toLampClosed _ (c.seatRequests.unlatch s h)

theorem takeDelivery (c : OwnClosed P) (d : Delivery) (s : State) (h : P s) : P (takeDelivery d s) := by
  unfold Machine.takeDelivery
  split
  · exact c.asqOps.internal _ _ _ _ _ _ _ s h
  · exact keep_applyScene c.lmcOps.toLampClosed _ s h
  · exact c.zouOps.quiet _ _ s h
  · exact c.zouOps.quiet _ _ s h
  · exact c.clearLatch s h
  · exact h

theorem takeNext (c : OwnClosed P) (o : CueOwner) (s : State) (h : P s) : P (takeNext o s) := by
  unfold Machine.takeNext
  split
  · exact h
  · next hd => exact c.takeDelivery _ _ (c.routeOps.next _ _ _ s hd h)

theorem takeDue (c : OwnClosed P) (waits : CueOwner → Bool) (s : State) (h : P s) : P (takeDue waits s) :=
  keep_foldl (fun d t ht => c.takeDelivery d t ht) _ _ (c.routeOps.due _ s h)

theorem settle (c : OwnClosed P) (s : State) (h : P s) : P (settle s) := c.takeDue _ s h

theorem deckReset (c : OwnClosed P) (s : State) (h : P s) : P (deckReset s) :=
  c.cacheRequests.reset _ (deckResetRce_replies (deckResetCth s)) (c.zouOps.quiet _ _ _ (c.vpl _ _ (c.asqOps.reset _ (c.routeOps.reset _ (c.cthOps.reset s h)))))

end OwnClosed

namespace OpsClosed

theorem stopPress (c : OpsClosed P) (i : SeatNo) (s : State) (h : P s) : P (stopPress i s) := c.own.stopPress i s h

theorem takeDelivery (c : OpsClosed P) (d : Delivery) (s : State) (h : P s) : P (takeDelivery d s) := c.own.takeDelivery d s h

theorem settle (c : OpsClosed P) (s : State) (h : P s) : P (settle s) := c.own.settle s h

theorem deckReset (c : OpsClosed P) (s : State) (h : P s) : P (deckReset s) := c.own.deckReset s h

theorem senseJack (c : OpsClosed P) (i : SeatNo) (a b : Bool) (s : State) (h : P s) : P (senseJack i a b s) := by
  unfold Machine.senseJack
  exact keep_ite (keep_ite (c.seatOps.plugIn i s h) (keep_ite (c.seatOps.unplug i s h) h)) h

theorem pressJack (c : OpsClosed P) (i : SeatNo) (w : Word16) (lo : Nat) (s : State) (h : P s) : P (pressJack i w lo s) := by
  have ht := c.seatOps.press i (field2 w lo) (field2 w (lo + 2)) (field2 w (lo + 4)) s h
  exact keep_ite (c.stopPress i _ ht) ht

theorem takeGood (c : OpsClosed P) (b : BoxNo) (r : Vector Word16 3) (s : State) (h : P s) : P (takeGood b r s) := by
  have hbox := fun x => c.seatOps.box b x s h
  exact c.pressJack _ _ _ _ (c.pressJack _ _ _ _ (c.senseJack _ _ _ _ (c.senseJack _ _ _ _
    (keep_ite (hbox _) (c.cthOps.notice _ _ (hbox _))))))

theorem takeMiss (c : OpsClosed P) (b : BoxNo) (s : State) (h : P s) : P (takeMiss b s) := by
  have hbox := fun x => c.seatOps.box b x s h
  exact keep_ite h (keep_ite (hbox _)
    (c.seatOps.unplug _ _ (c.seatOps.unplug _ _ (c.cthOps.notice _ _ (hbox _)))))

theorem takeReply (c : OpsClosed P) (r : Option (Vector Word16 3)) (s : State) (h : P s) : P (takeReply r s) := by
  unfold Machine.takeReply
  split
  · exact h
  · have ht := c.seatOps.awaited none s h
    cases r with
    | none => exact c.takeMiss _ _ ht
    | some r => exact keep_ite (c.takeGood _ r _ ht) (c.takeMiss _ _ ht)

theorem tickOf (c : OpsClosed P) (b : TickBlock) (s : State) (h : P s) : P (tickOf b s) := by
  cases b
  case hmx => exact c.seatOps.tick s h
  case zou => exact c.zouOps.tick s h
  case asq => exact c.asqOps.tick s h
  case vpl => exact c.vpl _ s h
  case cmp => exact c.cacheOps.tick s h
  case lmc => exact c.lmcOps.tick s h

theorem tickAt (c : OpsClosed P) (b : TickBlock) (s : State) (h : P s) : P (tickAt b s) :=
  keep_ite (c.tickOf b _ (c.tickFor _ s h)) h

theorem tickEnds (c : OpsClosed P) (s : State) (h : P s) : P (tickEnds s) :=
  keep_foldl (fun b t ht => c.tickAt b t ht) _ s h

/-- An event of the clock, the counts or the ports. -/
theorem takeEvent (c : OpsClosed P) (e : EndEvent) (s : State) (h : P s) : P (takeEvent e s) := by
  cases e
  case tick => exact c.tickEnds s h
  case tickAt b => exact c.tickAt b s h
  case downstreamReturnFrame f => exact keep_ite (c.downstream _ s h) h
  case boxReply r => exact c.takeReply r s h
  case deckResetEffect => exact keep_ite (c.deckReset s h) h
  case talkHangExpiry => exact c.asqOps.hang s h
  case voicesFinished => exact c.asqOps.report s h
  case gapExpiry v => exact keep_gapExpires c.toVoiceClosed v s h
  case clipStall v => exact keep_clipStalls c.toVoiceClosed c.cthOps.notice v s h
  case fadeEnd v => exact keep_fadeEnds c.toVoiceClosed v s h
  case fetchComplete => exact c.cacheOps.complete s h
  case memoryReady => exact c.cacheOps.ready s h
  case maintenanceTimeout => exact c.cacheOps.timeout s h
  case scanFrameBoundary => exact c.lmcOps.boundary s h
  case supplyRampDone => exact c.lmcOps.rampDone s h
  case supplyRampTimeout => exact c.lmcOps.rampTimeout s h
  case supplyGoodLost => exact c.lmcOps.goodLost s h
  case deckAlarmInput low => exact c.lmcOps.line low s h
  case overrideClear => exact c.lmcOps.clears s h

end OpsClosed

/-! ## Requests -/

/-- An owner's answer to a request: its change is made of the blocks' operations, with a step of the route only where `steps`
says so, and the reply is deferred only for an accepted clip memory request, which touches nothing of CTH (R26, R159). -/
structure Handled (steps : Bool) (s : State) (r : State × Answer) : Prop where
  keeps : ∀ Q : State → Prop, OwnClosed Q → (steps = true → RouteSteps Q) → Q s → Q r.1
  defers : r.2 = .deferred → s.cmp.maint = none ∧ r.1.cmp.maint.isSome = true ∧ r.1.cth = s.cth

namespace Handled

variable {steps : Bool}

theorem replied {s t : State} {p : List Byte} (h : ∀ Q : State → Prop, OwnClosed Q → (steps = true → RouteSteps Q) → Q s → Q t) :
    Handled steps s (t, .reply p) :=
  ⟨h, fun hd => by cases hd⟩

/-- A request answered with no change. -/
theorem refused {s : State} {p : List Byte} : Handled steps s (s, .reply p) := replied fun _ _ _ h => h

theorem ite {s : State} {b : Prop} [Decidable b] {x y : State × Answer} (hx : Handled steps s x) (hy : Handled steps s y) :
    Handled steps s (if b then x else y) := by
  split
  · exact hx
  · exact hy

theorem announceOp (ps : List Byte) (s : State) : Handled steps s (announceOp ps s) := by
  refine ⟨fun _ c _ h => c.asqOps.announce ps s h, ?_⟩
  unfold Machine.announceOp
  split
  · exact fun hd => by cases hd
  · split <;> exact fun hd => by cases hd

theorem cutOp (id : Byte) (b : Bool) (s : State) : Handled steps s (cutOp id b s) :=
  replied fun _ c _ h => c.asqOps.cut _ b s h

theorem sceneOp (n : Byte) (s : State) : Handled steps s (sceneOp n s) := by
  unfold Machine.sceneOp
  split
  · exact refused
  · exact replied fun _ c _ h => keep_applyScene c.lmcOps.toLampClosed _ s h

theorem onGroup {f : GroupNo → State × Answer} {s : State} (hf : ∀ g, Handled steps s (f g)) (g : Byte) :
    Handled steps s (onGroup g f s) := by
  unfold Machine.onGroup
  split
  · exact refused
  · exact hf _

theorem startAfter {Q : State → Prop} (c : OwnClosed Q) (b : Byte) (g : GroupNo) (s : State) (h : Q s) :
    Q (startAfter b g s) :=
  keep_ite (c.lmcOps.start g s h) h

theorem groupPresetOp (g p st : Byte) (s : State) : Handled steps s (groupPresetOp g p st s) := by
  refine onGroup (fun g => ?_) g
  split
  · exact refused
  · exact replied fun _ c _ h => startAfter c _ _ _ (c.lmcOps.write _ _ s h)

theorem groupFieldsOp (g m a b d e k f st : Byte) (s : State) : Handled steps s (groupFieldsOp g m a b d e k f st s) := by
  refine onGroup (fun g => ?_) g
  split
  · exact refused
  · exact replied fun _ c _ h => startAfter c _ _ _ (c.lmcOps.write _ _ s h)

theorem groupStartOp (g : Byte) (s : State) : Handled steps s (groupStartOp g s) :=
  onGroup (fun g => replied fun _ c _ h => c.lmcOps.start g s h) g

theorem groupStopOp (g : Byte) (s : State) : Handled steps s (groupStopOp g s) :=
  onGroup (fun g => replied fun _ c _ h => c.lmcOps.stop g s h) g

theorem groupPendingOp (g a b : Byte) (s : State) : Handled steps s (groupPendingOp g a b s) :=
  onGroup (fun g => replied fun _ c _ h => c.lmcOps.pending g _ _ s h) g

theorem groupHoldOp (g b : Byte) (s : State) : Handled steps s (groupHoldOp g b s) :=
  onGroup (fun g => replied fun _ c _ h => c.lmcOps.hold g _ s h) g

theorem groupOp (ps : List Byte) (s : State) : Handled steps s (groupOp ps s) := by
  unfold Machine.groupOp
  split
  · split
    · exact groupPresetOp _ _ _ s
    · exact groupFieldsOp _ _ _ _ _ _ _ _ _ s
    · exact groupStartOp _ s
    · exact groupStopOp _ s
    · exact groupPendingOp _ _ _ s
    · exact groupHoldOp _ _ s
    · exact refused
  · exact refused

theorem supplyOnAction (s : State) : Handled steps s (supplyOnAction s) := replied fun _ c _ h => c.lmcOps.supplyOn s h

theorem supplyOffAction (s : State) : Handled steps s (supplyOffAction s) := replied fun _ c _ h => c.lmcOps.supplyOff s h

theorem routeArmOp (n : Nat) (tag : Byte) (s : State) : Handled true s (routeArmOp n tag s) := by
  refine ⟨fun _ _ r h => (r rfl).arm n _ s h, ?_⟩
  unfold Machine.routeArmOp armRoute
  split
  · exact fun hd => by cases hd
  · split
    · exact fun hd => by cases hd
    · split <;> exact fun hd => by cases hd

theorem routeDisarmOp (s : State) : Handled steps s (routeDisarmOp s) := replied fun _ c _ h => c.routeOps.disarm s h

theorem stopClearOp (s : State) : Handled steps s (stopClearOp s) := replied fun _ c _ h => c.clearLatch s h

theorem seatOp (ps : List Byte) (s : State) : Handled steps s (seatOp ps s) := by
  refine ⟨fun _ c _ h => c.seatRequests.seat ps s h, ?_⟩
  unfold Machine.seatOp
  split <;> exact fun hd => by cases hd

theorem quietOp (z on : Byte) (s : State) : Handled steps s (quietOp z on s) := by
  unfold Machine.quietOp
  split
  · exact refused
  · exact replied fun _ c _ h => c.zouOps.quiet _ _ s h

theorem clipLockOp (f : Nat) (l : Byte) (s : State) : Handled steps s (clipLockOp f l s) := by
  refine ⟨fun _ c _ h => c.cacheRequests.lock f l s h, ?_⟩
  unfold Machine.clipLockOp
  split
  · exact fun hd => by cases hd
  · split <;> exact fun hd => by cases hd

theorem clipUnlockOp (p : Byte) (f : Nat) (l : Byte) (s : State) : Handled steps s (clipUnlockOp p f l s) := by
  refine ⟨fun _ c _ h => c.cacheRequests.unlock p f l s h, ?_⟩
  unfold Machine.clipUnlockOp
  split
  · exact fun hd => by cases hd
  · split <;> exact fun hd => by cases hd

theorem cacheFlushOp (s : State) : Handled steps s (cacheFlushOp s) := replied fun _ c _ h => c.cacheRequests.flush s h

theorem bareAction {f : State → State × Answer} {s : State} (hf : Handled steps s (f s)) (ps : List Byte) :
    Handled steps s (bareAction f ps s) :=
  ite hf refused

theorem actionOp (code : Byte) (ps : List Byte) (s : State) : Handled true s (actionOp code ps s) := by
  unfold Machine.actionOp
  split
  · exact announceOp ps s
  · unfold cutAction
    split
    · exact ite (cutOp _ _ s) (ite (cutOp _ _ s) refused)
    · exact refused
  · unfold sceneAction
    split
    · exact sceneOp _ s
    · exact refused
  · exact groupOp ps s
  · unfold supplyAction
    split
    · exact ite (supplyOnAction s) (supplyOffAction s)
    · exact refused
  · unfold routeArmAction
    split
    · exact routeArmOp _ _ s
    · exact refused
  · exact bareAction (routeDisarmOp s) ps
  · exact bareAction (stopClearOp s) ps
  · exact seatOp ps s
  · unfold quietAction
    split
    · exact quietOp _ _ s
    · exact refused
  · unfold clipLockAction
    split
    · exact clipLockOp _ _ s
    · exact refused
  · unfold clipUnlockAction
    split
    · exact clipUnlockOp _ _ _ s
    · exact refused
  · exact bareAction (cacheFlushOp s) ps
  · exact refused

/-! ### Tables -/

theorem storeIf {ι α : Type} {store : ι → α → State → State} {i : Option ι} {w : Option α} {s : State}
    (hs : ∀ k x, w = some x → ∀ Q : State → Prop, OwnClosed Q → (steps = true → RouteSteps Q) → Q s → Q (store k x s)) :
    Handled steps s (storeIf i w store s) := by
  unfold Machine.storeIf
  split
  · exact replied (hs _ _ rfl)
  · exact refused

theorem tableWrite (t : Table) (i : Nat) (r : List Byte) (s : State) : Handled steps s (t.write i r s) := by
  unfold Table.write
  cases t
  case seat => exact storeIf fun _ _ hw _ c _ h => c.seatRequests.store _ _ _ s hw h
  case zone => exact storeIf fun _ _ _ _ c _ h => c.zouOps.zone _ _ s h
  case language => exact storeIf fun _ _ _ _ c _ h => c.seatRequests.language _ _ s h
  case curve => exact storeIf fun _ _ _ _ c _ h => c.seatRequests.curve _ s h
  case cue => exact ite refused (storeIf fun _ _ _ _ c _ h => c.routeOps.cue _ _ s h)
  case phrase => exact storeIf fun _ _ _ _ c _ h => c.asqOps.phrase _ _ s h
  case clip => exact storeIf fun _ _ _ _ c _ h => c.cacheRequests.clip _ _ s h
  case cell => exact storeIf fun _ _ _ _ c _ h => c.lmcOps.cell _ _ s h
  case group => exact storeIf fun _ _ hw _ c _ h => c.lmcOps.group _ _ _ s hw h
  case preset => exact storeIf fun _ _ _ _ c _ h => c.lmcOps.preset _ _ s h
  case scene => exact storeIf fun _ _ _ _ c _ h => c.lmcOps.scene _ _ s h
  case settings => exact storeIf fun _ _ _ _ c _ h => c.cthOps.settings _ s h

theorem entryWriteOp (t : Byte) (i : Nat) (r : List Byte) (s : State) : Handled steps s (entryWriteOp t i r s) := by
  unfold Machine.entryWriteOp
  split
  · exact refused
  · exact ite refused (ite refused (tableWrite _ i r s))

theorem entryReadOp (t : Byte) (i : Nat) (s : State) : Handled steps s (entryReadOp t i s) := by
  unfold Machine.entryReadOp
  split
  · exact refused
  · exact ite refused refused

/-! ### Clip memory and the deck reset -/

/-- The arbiter leaves an operation pending or in progress. -/
theorem arbiter_maint_isSome {s : State} (h : s.cmp.maint.isSome = true) : (arbiter s).cmp.maint.isSome = true := by
  rcases arbiter_cases s with e | ⟨_, _, _, _, _, e⟩ | ⟨_, _, _, _, ⟨_, e⟩ | ⟨_, e⟩⟩ <;> rw [e]
  · exact h
  · exact h
  · rfl
  · rfl

theorem arbiter_cth (s : State) : (arbiter s).cth = s.cth := by
  have h := congrArg State.cth (arbiter_frame s).1
  exact h

theorem acceptMaint_defers {op : MaintOp} {s : State} (h : (acceptMaint op s).2 = .deferred) :
    s.cmp.maint = none ∧ (acceptMaint op s).1.cmp.maint.isSome = true ∧ (acceptMaint op s).1.cth = s.cth := by
  unfold acceptMaint at h ⊢
  split at h
  · cases h
  · next hm =>
    rw [if_neg hm]
    exact ⟨Option.not_isSome_iff_eq_none.mp hm, arbiter_maint_isSome rfl, arbiter_cth _⟩

theorem clipEraseOp (k : Nat) (s : State) : Handled steps s (clipEraseOp k s) := by
  refine ⟨fun _ c _ h => c.cacheRequests.erase k s h, ?_⟩
  unfold Machine.clipEraseOp
  split
  · exact fun hd => by cases hd
  · exact acceptMaint_defers

theorem clipProgramOp (a : Nat) (d : List Byte) (s : State) : Handled steps s (clipProgramOp a d s) := by
  refine ⟨fun _ c _ h => c.cacheRequests.program a d s h, ?_⟩
  unfold Machine.clipProgramOp
  split
  · exact fun hd => by cases hd
  · exact acceptMaint_defers

theorem clipReadOp (a n : Nat) (s : State) : Handled steps s (clipReadOp a n s) := by
  refine ⟨fun _ c _ h => c.cacheRequests.read a n s h, ?_⟩
  unfold Machine.clipReadOp
  split
  · exact fun hd => by cases hd
  · exact acceptMaint_defers

theorem deckResetOp (b : Bool) (s : State) : Handled steps s (deckResetOp b s) := by
  unfold Machine.deckResetOp
  refine ite (replied fun _ c _ h => c.deckReset s h) ⟨fun _ c _ h => c.cthOps.pendingReset s h, ?_⟩
  exact fun hd => by cases hd

/-! ### Requests by their kind -/

theorem emptyPayload {f : State → State × Answer} {s : State} (hf : Handled steps s (f s)) (p : List Byte) :
    Handled steps s (emptyPayload p f s) :=
  ite hf refused

theorem ownerOf (b : Bool) (k : Byte) (p : List Byte) (s : State) : Handled true s (ownerOf b k p s) := by
  unfold Machine.ownerOf
  split
  · unfold entryWritePayload
    split
    · exact entryWriteOp _ _ _ s
    · exact refused
  · unfold entryReadPayload
    split
    · exact entryReadOp _ _ s
    · exact refused
  · unfold actionPayload
    split
    · exact actionOp _ _ s
    · exact refused
  · exact emptyPayload refused p
  · unfold clipErasePayload
    split
    · exact clipEraseOp _ s
    · exact refused
  · unfold clipProgramPayload
    split
    · exact clipProgramOp _ _ s
    · exact refused
  · unfold clipReadPayload
    split
    · exact clipReadOp _ _ s
    · exact refused
  · exact emptyPayload (deckResetOp b s) p
  · exact refused

end Handled

/-! ## Steps -/

/-- Kept by the slot's own events: what they bring every block, with the steps of the route and a request's reply. -/
structure OwnEventClosed (P : State → Prop) : Prop extends OwnClosed P, RouteSteps P where
  answered : ∀ bc kind f s, Handled true s (f s) → P s → P (takeRequest bc kind f s)

/-- Kept by every block's operations, with the steps of the route, by a request's reply, and where the ports are driven. -/
structure EventClosed (P : State → Prop) : Prop extends OpsClosed P, RouteSteps P where
  answered : ∀ bc kind f s, Handled true s (f s) → P s → P (takeRequest bc kind f s)
  out : ∀ x s, P s → P { s with out := x }

theorem EventClosed.own (c : EventClosed P) : OwnEventClosed P where
  toOwnClosed := c.toOpsClosed.own
  toRouteSteps := c.toRouteSteps
  answered := c.answered

namespace OwnEventClosed

theorem sortPacket (c : OwnEventClosed P) (bs : List Byte) (s : State) (h : P s) : P (sortPacket bs s) := by
  have hr : ∀ b k p, P (handleRequest b k p s) := fun b k p => c.answered b _ _ s (Handled.ownerOf b k p s) h
  unfold Machine.sortPacket
  refine keep_ite h ?_
  split
  · exact keep_ite (keep_ite (hr _ _ _) h) (keep_ite (hr _ _ _) h)
  · exact h

theorem takeSlot (c : OwnEventClosed P) (t : Slot) (s : State) (h : P s) : P (takeSlot t s) := by
  unfold Machine.takeSlot
  split
  · exact keep_ite (c.cthOps.assembly _ s h) h
  · exact keep_ite (c.sortPacket _ _ (c.cthOps.assembly _ s h)) (c.cthOps.assembly _ s h)

/-- An own event of a slot end, where the property also stands the new route fields at the route's event and the new alarm
flag at the flag's. -/
theorem slotEvent (c : OwnEventClosed P) {old new : Tif} (ce : ControlEvent) (waits : CueOwner → Bool) (e : SlotEvent)
    (halso : ∀ x, e ≠ .also x)
    (hroute : e = .route → ∀ s, P s → P { s with tif := { s.tif with drive := withRouteFields s.tif.drive new.drive } })
    (halarm : e = .alarm → ∀ s, P s → P (alarmFlag new.drive.alarm s)) (s : State) (h : P s) :
    P (slotEvent old new ce waits s e) := by
  cases e
  case trunkNotice => exact keep_ite (c.cthOps.notice _ s h) (keep_ite (c.cthOps.notice _ s h) h)
  case control =>
    cases ce
    · exact c.takeDue _ _ (c.takeSlot _ s h)
    · exact c.cthOps.assembly _ s h
    · exact h
  case route => exact c.takeDue _ _ (keep_ite (hroute rfl s h) (c.change _ (hroute rfl s h)))
  case talk => exact keep_ite (keep_ite h (c.asqOps.rise s h)) (keep_ite (c.asqOps.fall s h) h)
  case alarm => exact keep_ite h (halarm rfl s h)
  case voice v => exact keep_followSample c.toVoiceClosed v s h
  case delivery o => exact c.takeNext o s h
  case also e => exact absurd rfl (halso e)

end OwnEventClosed

namespace EventClosed

theorem sendReturn (c : EventClosed P) (n : Byte) (b : Bool) (s : State) (h : P s) : P (sendReturn n b s) := by
  unfold Machine.sendReturn
  dsimp only
  refine c.out _ _ (c.downstream none _ ?_)
  split
  · split
    · exact c.cthOps.turn s h
    · exact h
  · exact h

/-- An event of a slot end, where the property also stands the new route fields and, where it is the flag's, the new alarm
flag. -/
theorem slotEvent (c : EventClosed P) {old new : Tif} (ce : ControlEvent) (waits : CueOwner → Bool)
    (hroute : ∀ s, P s → P { s with tif := { s.tif with drive := withRouteFields s.tif.drive new.drive } })
    (e : SlotEvent) (halarm : e = .alarm → ∀ s, P s → P (alarmFlag new.drive.alarm s)) (s : State) (h : P s) :
    P (slotEvent old new ce waits s e) := by
  by_cases he : ∃ x, e = .also x
  · obtain ⟨x, rfl⟩ := he
    exact c.takeEvent x s h
  · exact c.own.slotEvent ce waits e (fun x hx => he ⟨x, hx⟩) (fun _ => hroute) halarm s h

/-- The property stands the start of the period that follows a slot, with TIF's record after it. -/
def Starts (P : State → Prop) (old new : Tif) : Prop :=
  ∀ poll awaited formed ports s, P s → P { s with
    tif := countStart { new with downstream := none, drive := withRouteFields new.drive old.drive },
    scc := { s.scc with poll := poll, awaited := awaited }, hmx := { s.hmx with formed := formed }, out := ports }

/-- A period's end, where the property stands what TIF's record after it brings. -/
theorem endPeriod (c : EventClosed P) {new : Tif} (b : Bool) (ce : ControlEvent) (order : List SlotEvent) (s : State)
    (hstart : Starts P s.tif new)
    (hroute : ∀ s, P s → P { s with tif := { s.tif with drive := withRouteFields s.tif.drive new.drive } })
    (halarm : ∀ s, P s → P (alarmFlag new.drive.alarm s)) (h : P s) : P (endPeriod new b ce order s) := by
  have hp : P (playVoices (Machine.sendReturn new.counter b s)).1 :=
    keep_playVoices c.toVoiceClosed _ (c.sendReturn _ _ s h)
  exact c.settle _ (keep_foldl (fun e t ht => c.slotEvent ce _ hroute e (fun _ => halarm) t ht) _ _ (hstart _ _ _ _ _ hp))

/-- A slot command, where the property does not look at TIF. -/
theorem slotEnds (c : EventClosed P) (htif : ∀ x s, P s → P { s with tif := x })
    (hperiod : ∀ poll awaited formed s, P s → P { s with
      scc := { s.scc with poll := poll, awaited := awaited }, hmx := { s.hmx with formed := formed } })
    (halarm : ∀ b s, P s → P (alarmFlag b s)) (ws : TrunkWords) (short order : List SlotEvent) (s : State) (h : P s) :
    P (slotEnds ws short order s) := by
  have hstart : ∀ old new, Starts P old new := fun old new poll awaited formed ports u hu =>
    c.out ports _ (hperiod poll awaited formed _
      (htif (countStart { new with downstream := none, drive := withRouteFields new.drive old.drive }) u hu))
  have hend : ∀ new b ce o t, P t → P (Machine.endPeriod new b ce o t) := fun new b ce o t ht =>
    c.endPeriod b ce o t (hstart _ _) (fun _ hu => htif _ _ hu) (halarm _) ht
  unfold Machine.slotEnds
  split <;> split
  · exact c.out _ _ (hend _ _ _ _ _ h)
  · exact c.out _ _ (hend _ _ _ _ _ h)
  · exact c.out _ _ (hend _ _ _ _ _ (hend _ _ _ _ _ h))
  · exact c.out _ _ (hend _ _ _ _ _ h)

end EventClosed

/-- Kept by the rows of power and warm-up and by the queue of commands. -/
structure PowerClosed (P : State → Prop) : Prop where
  queue : ∀ q s, P s → P { s with pending := q }
  stop : ∀ p s, p.running = false → P s → P { s with power := p, cmp := Reset.cmp, out := Reset.quietPorts }
  warmTick : ∀ s, s.power.running = false → P s → P { s with power := tickWarmUp s.power }
  fresh : ∀ adr cause s, P s → P (freshChip adr cause s)
  device : ∀ s, s.power.running = false → P s → P (finishDevice s)

/-- Kept by every command: past warm-up by requests, events and slots. A ROUTE_ARM's step is followed by the deliveries it made
(R102). -/
structure StepClosed (P : State → Prop) : Prop extends PowerClosed P where
  answered : ∀ bc kind f s, s.power.running = true → Handled false s (f s) → P s → P (takeRequest bc kind f s)
  arm : ∀ bc n tag s, s.power.running = true → P s → P (settle (takeRequest bc replyAction (routeArmOp n tag) s))
  event : ∀ e s, s.power.running = true → P s → P (takeEvent e s)
  slot : ∀ ws short order s, s.power.running = true → P s → P (slotEnds ws short order s)

theorem Handled.stepping {s : State} {r : State × Answer} (h : Handled false s r) : Handled true s r :=
  ⟨fun Q c _ hq => h.keeps Q c (fun hf => nomatch hf) hq, h.defers⟩

/-- A property of every event, of a slot and of the rows of power is kept by every command. -/
theorem EventClosed.stepClosed (c : EventClosed P) (slot : ∀ ws short order s, P s → P (Machine.slotEnds ws short order s))
    (power : PowerClosed P) : StepClosed P where
  toPowerClosed := power
  answered := fun bc kind f s _ hf h => c.answered bc kind f s hf.stepping h
  arm := fun bc n tag s _ h => c.settle _ (c.answered bc _ _ s (Handled.routeArmOp n tag s) h)
  event := fun e s _ h => c.takeEvent e s h
  slot := fun ws short order s _ h => slot ws short order s h

/-- The state that an outcome answers has a property. -/
def Leads (P : State → Prop) (o : Host.Outcome State Fault Refusal) : Prop := ∀ t, o = .next t → P t

theorem leads_next {s : State} (h : P s) : Leads P (.next s) := fun _ e => Host.Outcome.next.inj e ▸ h

theorem leads_whenRunning {f : State → State} {s : State} (hf : s.power.running = true → P (f s)) (h : P s) :
    Leads P (whenRunning f s) := by
  refine leads_next ?_
  split
  · next hr => exact hf hr
  · exact h

theorem leads_whenLocked {f : State → State} {s : State} (hf : s.power.running = true → P (f s)) (h : P s) :
    Leads P (whenLocked f s) :=
  leads_whenRunning (fun hr => keep_ite (hf hr) h) h

/-! ## Requests as commands -/

/-- The owner's part of a request command with its reply kind, for all but a ROUTE_ARM, which may step the route. -/
def ownerOfCommand : Instr → Option (Bool × Byte × (State → State × Answer))
  | .badKind k => some (false, replyUnknown, badKindOp k)
  | .entryWrite t i r => some (false, replyEntryWrite, entryWriteOp t i.toNat r)
  | .entryRead t i => some (false, replyEntryRead, entryReadOp t i.toNat)
  | .stateRead => some (false, replyStateRead, stateReadOp)
  | .clipErase k => some (false, replyClipErase, clipEraseOp k.toNat)
  | .clipProgram a d => some (false, replyClipProgram, clipProgramOp a.toNat d)
  | .clipRead a n => some (false, replyClipRead, clipReadOp a.toNat n.toNat)
  | .deckReset bc => some (bc, replyDeckReset, deckResetOp bc)
  | .unknownAction bc code => some (bc, replyAction, unknownActionOp code)
  | .announce bc ps => some (bc, replyAction, announceOp ps)
  | .cutSoft bc id => some (bc, replyAction, cutOp id false)
  | .cutHard bc id => some (bc, replyAction, cutOp id true)
  | .scene bc n => some (bc, replyAction, sceneOp n)
  | .groupPreset bc g p st => some (bc, replyAction, groupPresetOp g p st)
  | .groupFields bc g m a b d e k f st => some (bc, replyAction, groupFieldsOp g m a b d e k f st)
  | .groupStart bc g => some (bc, replyAction, groupStartOp g)
  | .groupStop bc g => some (bc, replyAction, groupStopOp g)
  | .groupPending bc g a b => some (bc, replyAction, groupPendingOp g a b)
  | .groupHold bc g b => some (bc, replyAction, groupHoldOp g b)
  | .supplyOn bc => some (bc, replyAction, supplyOnAction)
  | .supplyOff bc => some (bc, replyAction, supplyOffAction)
  | .routeDisarm bc => some (bc, replyAction, routeDisarmOp)
  | .stopClear bc => some (bc, replyAction, stopClearOp)
  | .seat bc ps => some (bc, replyAction, seatOp ps)
  | .quiet bc z on => some (bc, replyAction, quietOp z on)
  | .clipLock bc f l => some (bc, replyAction, clipLockOp f.toNat l)
  | .clipUnlock bc p f l => some (bc, replyAction, clipUnlockOp p f.toNat l)
  | .cacheFlush bc => some (bc, replyAction, cacheFlushOp)
  | _ => none

theorem exec_request {c : Instr} {bc : Bool} {kind : Byte} {f : State → State × Answer}
    (h : ownerOfCommand c = some (bc, kind, f)) (s : State) : exec c s = whenLocked (takeRequest bc kind f) s := by
  cases c <;> cases h <;> rfl

theorem handled_request {c : Instr} {bc : Bool} {kind : Byte} {f : State → State × Answer} {steps : Bool}
    (h : ownerOfCommand c = some (bc, kind, f)) (s : State) : Handled steps s (f s) := by
  cases c <;> cases h
  case badKind k => exact .refused
  case stateRead => exact .refused
  case unknownAction => exact .refused
  case entryWrite => exact .entryWriteOp _ _ _ s
  case entryRead => exact .entryReadOp _ _ s
  case clipErase => exact .clipEraseOp _ s
  case clipProgram => exact .clipProgramOp _ _ s
  case clipRead => exact .clipReadOp _ _ s
  case deckReset => exact .deckResetOp _ s
  case announce => exact .announceOp _ s
  case cutSoft => exact .cutOp _ _ s
  case cutHard => exact .cutOp _ _ s
  case scene => exact .sceneOp _ s
  case groupPreset => exact .groupPresetOp _ _ _ s
  case groupFields => exact .groupFieldsOp _ _ _ _ _ _ _ _ _ s
  case groupStart => exact .groupStartOp _ s
  case groupStop => exact .groupStopOp _ s
  case groupPending => exact .groupPendingOp _ _ _ s
  case groupHold => exact .groupHoldOp _ _ s
  case supplyOn => exact .supplyOnAction s
  case supplyOff => exact .supplyOffAction s
  case routeDisarm => exact .routeDisarmOp s
  case stopClear => exact .stopClearOp s
  case seat => exact .seatOp _ s
  case quiet => exact .quietOp _ _ s
  case clipLock => exact .clipLockOp _ _ s
  case clipUnlock => exact .clipUnlockOp _ _ _ s
  case cacheFlush => exact .cacheFlushOp s

/-- The event that a command is by itself: those of the clock, the counts and the ports that act past warm-up alone. -/
def eventOfCommand : Instr → Option EndEvent
  | .downstreamReturnFrame f => some (.downstreamReturnFrame f)
  | .boxReply r => some (.boxReply r)
  | .deckResetEffect => some .deckResetEffect
  | .talkHangExpiry => some .talkHangExpiry
  | .voicesFinished => some .voicesFinished
  | .gapExpiry v => some (.gapExpiry v)
  | .clipStall v => some (.clipStall v)
  | .fadeEnd v => some (.fadeEnd v)
  | .fetchComplete => some .fetchComplete
  | .maintenanceTimeout => some .maintenanceTimeout
  | .scanFrameBoundary => some .scanFrameBoundary
  | .supplyRampDone => some .supplyRampDone
  | .supplyRampTimeout => some .supplyRampTimeout
  | .supplyGoodLost => some .supplyGoodLost
  | .deckAlarmInput low => some (.deckAlarmInput low)
  | .overrideClear => some .overrideClear
  | _ => none

theorem exec_event {c : Instr} {e : EndEvent} (h : eventOfCommand c = some e) (s : State) :
    exec c s = whenRunning (takeEvent e) s := by
  cases c <;> cases h <;> rfl

/-! ## Every command -/

/-- The commands by what they are: a request, an event, and those that are neither, a slot, a ROUTE_ARM, a tick, a ready
indication and the rows of power and warm-up. -/
theorem StepClosed.exec (k : StepClosed P) (c : Instr) (s : State) (h : P s) : Leads P (exec c s) := by
  cases hr : ownerOfCommand c with
  | some r =>
    obtain ⟨bc, kind, f⟩ := r
    rw [exec_request hr]
    exact leads_whenLocked (fun hp => k.answered bc kind f s hp (handled_request hr s) h) h
  | none =>
    cases he : eventOfCommand c with
    | some e =>
      rw [exec_event he]
      exact leads_whenRunning (fun hp => k.event e s hp h) h
    | none =>
      cases c
      case validSlot w short order => exact leads_whenRunning (fun hp => k.slot _ _ _ s hp h) h
      case invalidSlot ws order => exact leads_whenRunning (fun hp => k.slot _ _ _ s hp h) h
      case routeArm bc n tag =>
        exact leads_whenLocked (f := fun s => settle (takeRequest bc replyAction (routeArmOp n.toNat tag) s))
          (fun hp => k.arm bc n.toNat tag s hp h) h
      case tick =>
        refine leads_next ?_
        unfold tickAll
        split
        · next hp => exact k.event .tick s hp h
        · next hp => exact k.warmTick s (Bool.eq_false_iff.mpr hp) h
      case memoryReady =>
        refine leads_next ?_
        split
        · next hp => exact k.event .memoryReady s hp h
        · next hp => exact k.device s (Bool.eq_false_iff.mpr hp) h
      case powerOn => exact leads_next (k.stop _ s rfl h)
      case powerFail => exact leads_next (k.stop _ s rfl h)
      case resetLineAssert => exact leads_next (k.stop _ s rfl h)
      case resetLineRelease => exact leads_next (k.stop _ s rfl h)
      case warmUpEnd adr => exact leads_next (keep_ite (k.fresh _ _ s h) h)
      case downstreamReturnFrame | boxReply | deckResetEffect | talkHangExpiry | voicesFinished | gapExpiry | clipStall
          | fadeEnd | fetchComplete | maintenanceTimeout | scanFrameBoundary | supplyRampDone | supplyRampTimeout
          | supplyGoodLost | deckAlarmInput | overrideClear => cases he
      all_goals cases hr

/-- What every command keeps, every step keeps. -/
theorem StepClosed.step (k : StepClosed P) {s t : State} (h : P s) (hs : step s = .next t) : P t := by
  cases hq : s.pending with
  | nil =>
    rw [step_nil hq] at hs
    exact leads_next h t hs
  | cons c rest =>
    rw [step_cons hq] at hs
    exact k.exec c _ (k.queue rest s h) t hs

end Sys2Proof.Proofs
end

section
/-! PROOFS. The bundles of a property that does not look at a block: what the block does to its own record changes nothing for
the property, so its operations keep it. -/

namespace Sys2Proof.Proofs

open Sys2Proof Sys2Proof.Machine Sys2Proof.Laws

variable {P : State → Prop}

/-! ## Announcements, zones and seats -/

/-- A property kept by everything an announcement does. -/
theorem asqOps_of (c : AsqClosed P) : AsqOps P where
  internal := fun _ _ _ _ _ _ _ _ h => keep_takeInternal c _ _ h
  announce := fun ps s h => by
    unfold announceOp
    split
    · exact h
    · split
      · exact h
      · exact keep_placeNew c _ s h
  cut := keep_cut c
  rise := keep_talkRise c
  fall := keep_talkFall c
  hang := keep_hangExpires c
  report := keep_takeReport c
  tick := keep_tickHang c
  phrase := fun _ _ _ h => c.asq _ _ h
  reset := keep_deckResetAsq c

theorem zouOps_of (zou : ∀ x s, P s → P { s with zou := x }) : ZouOps P where
  quiet := fun _ _ _ h => zou _ _ h
  zone := fun _ _ _ h => zou _ _ h
  tick := fun _ h => zou _ _ h

theorem seatOps_of (scc : ∀ x s, P s → P { s with scc := x }) (hmx : ∀ x s, P s → P { s with hmx := x }) : SeatOps P where
  box := fun _ _ _ h => scc _ _ h
  awaited := fun _ _ h => scc _ _ h
  latch := fun _ _ h => scc _ _ h
  unlatch := fun _ h => scc _ _ h
  stopMark := fun _ _ h => scc _ _ h
  plugIn := fun _ _ h => hmx _ _ (scc _ _ h)
  unplug := fun _ _ h => scc _ _ h
  press := fun _ _ _ _ _ h => keep_ite (scc _ _ h) h
  seat := fun _ s h => by
    unfold seatOp
    split
    · exact h
    · exact scc _ s h
  store := fun _ _ _ _ _ h => hmx _ _ (scc _ _ h)
  language := fun _ _ _ h => scc _ _ h
  curve := fun _ _ h => hmx _ _ h
  tick := fun _ h => hmx _ _ h

/-! ## The route -/

/-- Kept by each change that the route makes of its own record, and by its notices: the cursor stays within the count, or
where it stood, and what is last processed meets `N`, as the odometer does. -/
structure RouteLeaves (N : Nat → Prop) (P : State → Prop) : Prop where
  zero : N 0
  odometer : ∀ s, P s → N s.tif.drive.odometer
  notice : ∀ n s, P s → P (pushNotice n s)
  cues : ∀ x s, P s → P (setRce { s.rce with cues := x } s)
  due : ∀ x s, P s → P (setRce { s.rce with due := x } s)
  move : ∀ x s, P s → P (setRce { s.rce with state := x } s)
  cursor : ∀ n s, n ≤ max s.rce.cursor s.rce.count → P s → P (setRce { s.rce with cursor := n } s)
  processed : ∀ n s, N n → P s → P (setRce { s.rce with lastOdo := n } s)
  begin : ∀ n tag s, n ≤ 256 → P s → P (setRce { s.rce with count := n, armedTag := tag, cursor := 0, lastOdo := 0 } s)

@[simp] theorem markCue_count (i : Nat) (x : CueState) (s : State) : (markCue i x s).rce.count = s.rce.count := by
  unfold markCue
  split <;> rfl

@[simp] theorem markCue_cursor (i : Nat) (x : CueState) (s : State) : (markCue i x s).rce.cursor = s.rce.cursor := by
  unfold markCue
  split <;> rfl

@[simp] theorem deliver_count (i : Nat) (c : Cue) (m : ZoneMask) (s : State) :
    (deliver i c m s).rce.count = s.rce.count := by
  unfold deliver
  split <;> simp [hand, setRce]

@[simp] theorem markRelocated_count (o n : Nat) (l : List (Nat × Cue)) (s : State) :
    (markRelocated o n l s).rce.count = s.rce.count := by
  induction l generalizing s with
  | nil => rfl
  | cons e later ih => simp [markRelocated, ih]

@[simp] theorem markRelocated_cursor (o n : Nat) (l : List (Nat × Cue)) (s : State) :
    (markRelocated o n l s).rce.cursor = s.rce.cursor := by
  induction l generalizing s with
  | nil => rfl
  | cons e later ih => simp [markRelocated, ih]

/-- A relocation set lies between the cursor and the count (R98). -/
theorem relocationSet_length (s : State) (n : Nat) : (relocationSet s n).length ≤ s.rce.count - s.rce.cursor := by
  unfold relocationSet
  refine (List.takeWhile_sublist _).length_le.trans ?_
  exact (List.length_filterMap_le _ _).trans (by simp)

namespace RouteLeaves

variable {N : Nat → Prop}

theorem markCue (c : RouteLeaves N P) (i : Nat) (x : CueState) (s : State) (h : P s) : P (markCue i x s) := by
  unfold Machine.markCue
  split
  · exact h
  · exact c.cues _ s h

theorem moveRoute (c : RouteLeaves N P) (x : RouteState) (s : State) (h : P s) : P (moveRoute x s) :=
  c.notice _ _ (c.move x s h)

theorem deliver (c : RouteLeaves N P) (i : Nat) (x : Cue) (m : ZoneMask) (s : State) (h : P s) : P (deliver i x m s) := by
  unfold Machine.deliver
  split
  case h_6 => exact c.notice _ s h
  all_goals exact c.due _ s h

theorem endStep (c : RouteLeaves N P) {n : Nat} (hn : N n) (s : State) (h : P s) : P (endStep n s) :=
  keep_ite (c.moveRoute _ _ (c.processed n s hn h)) (c.processed n s hn h)

theorem handleDue (c : RouteLeaves N P) (n : Nat) : ∀ (k : Nat) (s : State), P s → P (handleDue n k s)
  | 0, _, h => h
  | k + 1, s, h => by
    unfold Machine.handleDue
    split
    · exact h
    · next hcount =>
      split
      · exact h
      · split
        · exact h
        · refine c.handleDue n k _ (c.cursor _ _ (le_max_of_le_right ?_)
            (keep_ite (c.markCue _ _ s h) (c.deliver _ _ _ _ (c.markCue _ _ s h))))
          split_ifs <;> simp only [markCue_count, deliver_count] <;> omega

theorem normalStep (c : RouteLeaves N P) {n : Nat} (hn : N n) (s : State) (h : P s) : P (normalStep n s) :=
  c.endStep hn _ (c.handleDue n _ s h)

theorem markRelocated (c : RouteLeaves N P) (o n : Nat) : ∀ (l : List (Nat × Cue)) (s : State), P s →
    P (markRelocated o n l s)
  | [], _, h => h
  | (_, _) :: later, s, h => c.markRelocated o n later _ (c.markCue _ _ s h)

theorem deliverRelocated (c : RouteLeaves N P) (o n : Nat) : ∀ (l : List (Nat × Cue)) (s : State), P s →
    P (deliverRelocated o n l s)
  | [], _, h => h
  | (_, _) :: later, s, h => c.deliverRelocated o n later _ (keep_ite (c.deliver _ _ _ s h) h)

theorem relocate (c : RouteLeaves N P) {n : Nat} (hn : N n) (s : State) (h : P s) : P (relocate n s) := by
  refine c.endStep hn _ (c.notice _ _ (c.deliverRelocated _ n _ _ (c.cursor _ _ ?_ (c.markRelocated _ n _ s h))))
  have hlen := relocationSet_length s n
  rw [markRelocated_count, markRelocated_cursor]
  omega

theorem backwardStep (c : RouteLeaves N P) {n : Nat} (hn : N n) (s : State) (h : P s) : P (backwardStep n s) :=
  c.processed n _ hn (keep_ite (c.notice _ s h) h)

theorem odometerStep (c : RouteLeaves N P) {n : Nat} (hn : N n) (s : State) (h : P s) : P (odometerStep n s) :=
  keep_ite (c.backwardStep hn s h) (keep_ite (c.normalStep hn s h) (c.relocate hn s h))

theorem tryStart (c : RouteLeaves N P) (s : State) (h : P s) : P (tryStart s) :=
  keep_ite (c.odometerStep (c.odometer s h) _ (c.moveRoute _ s h)) h

theorem routeChange (c : RouteLeaves N P) (s : State) (h : P s) : P (routeChange s) := by
  have hstep := fun t (ht : P t) => c.odometerStep (c.odometer t ht) t ht
  have hmove := fun x => c.moveRoute x s h
  unfold Machine.routeChange
  split
  · exact h
  · exact c.tryStart s h
  · exact keep_ite (keep_ite h (hstep s h)) (hmove _)
  · exact keep_ite (keep_ite (hmove _) (hstep _ (hmove _))) h
  · exact keep_ite (c.processed _ s (c.odometer s h) h) h

theorem armRoute (c : RouteLeaves N P) (n t : Nat) (s : State) (h : P s) : P (armRoute n t s).1 := by
  unfold Machine.armRoute
  split
  · exact h
  · split
    · exact h
    · next hn =>
      split
      · exact h
      · exact c.tryStart _ (c.moveRoute _ _ (c.begin n t _ (Nat.le_of_not_lt hn) (c.cues _ s h)))

theorem steps (c : RouteLeaves N P) : RouteSteps P where
  change := c.routeChange
  arm := c.armRoute

theorem ops (c : RouteLeaves N P) : RouteOps P where
  due := fun _ s h => c.due _ s h
  next := fun _ _ _ s _ h => c.due _ s h
  disarm := fun s h => keep_ite h (c.moveRoute _ s h)
  cue := fun _ _ s h => c.cues _ s h
  reset := fun s h => by
    have hp : P (allPending s) := c.cues _ s h
    unfold deckResetRce
    generalize allPending s = t at hp ⊢
    have ht := c.move .idle _ (c.processed 0 _ c.zero (c.cursor 0 t (Nat.zero_le _) hp))
    exact keep_ite ht (c.notice _ _ ht)

end RouteLeaves

/-- A property that does not look at the route. -/
theorem routeLeaves_of (rce : ∀ x s, P s → P { s with rce := x }) (notice : ∀ n s, P s → P (pushNotice n s)) :
    RouteLeaves (fun _ => True) P where
  zero := trivial
  odometer := fun _ _ => trivial
  notice := notice
  cues := fun _ s h => rce _ s h
  due := fun _ s h => rce _ s h
  move := fun _ s h => rce _ s h
  cursor := fun _ s _ h => rce _ s h
  processed := fun _ s _ h => rce _ s h
  begin := fun _ _ s _ h => rce _ s h

/-! ## Lamps -/

/-- A property that looks at the override's flag source alone of LMC. -/
theorem lampClosed_of (lmc : ∀ x s, x.flagSource = s.lmc.flagSource → P s → P { s with lmc := x }) : LampClosed P := by
  have hstop : ∀ g s, P s → P (stopGroup g s) := fun _ s h => keep_ite (lmc _ _ rfl (lmc _ s rfl h)) h
  have hstart : ∀ g s, P s → P (startGroup g s) := fun g s h => keep_ite (hstop g s h) (lmc _ s rfl h)
  exact ⟨hstart, hstop, fun g _ s h => keep_ite (hstop g _ (lmc _ s rfl h)) (keep_ite (hstart g _ (lmc _ s rfl h)) (lmc _ s rfl h))⟩

/-- Kept by every change of LMC's record that leaves the override's flag source, by notices, by the ALARM request and where the
row lines are driven. -/
structure LampFree (P : State → Prop) : Prop where
  lmc : ∀ x s, x.flagSource = s.lmc.flagSource → P s → P { s with lmc := x }
  notice : ∀ n s, P s → P (pushNotice n s)
  internal : ∀ p pr m rd ls st o s, P s → P (takeInternal (newAnnouncement s p pr m rd ls st o) s)
  row : ∀ x y s, P s → P { s with out := { s.out with row := x, columns := y } }

namespace LampFree

theorem requestAlarm (c : LampFree P) (s : State) (h : P s) : P (requestAlarm s) := by
  unfold Machine.requestAlarm
  split
  · exact h
  · exact keep_ite h (c.internal _ _ _ _ _ _ _ s h)

theorem lamps (c : LampFree P) : LampClosed P := lampClosed_of c.lmc

theorem modeEffect (c : LampFree P) (g : GroupNo) (m : Mode) (s : State) (h : P s) : P (modeEffect g m s) :=
  keep_ite (c.lamps.stop g s h) (keep_ite (c.lamps.start g s h) h)

theorem moveSupply (c : LampFree P) (x : Supply) (s : State) (h : P s) : P (moveSupply x s) :=
  c.notice _ _ (c.lmc _ s rfl h)

theorem rampUp (c : LampFree P) (s : State) (h : P s) : P (rampUp s) := c.moveSupply _ _ (c.lmc _ s rfl h)

theorem leaveSupply (c : LampFree P) (x : Supply) (s : State) (h : P s) : P (leaveSupply x s) :=
  c.moveSupply x _ (keep_ite (c.lmc _ s rfl h) h)

theorem queueIgnition (c : LampFree P) (g : GroupNo) (s : State) (h : P s) : P (queueIgnition g s) :=
  c.lmc _ _ rfl (c.lmc _ s rfl h)

theorem queueLit (c : LampFree P) (p : Group → Bool) (s : State) (h : P s) : P (queueLit p s) :=
  keep_foldl (fun g s hs => c.queueIgnition g s hs) _ _ h

theorem enterReady (c : LampFree P) (s : State) (h : P s) : P (enterReady s) :=
  keep_ite (c.queueLit _ _ (c.moveSupply _ s h)) (c.lmc _ _ rfl (c.moveSupply _ s h))

theorem overrideStart (c : LampFree P) (s : State) (h : P s) : P (overrideStart s) := by
  have h0 : P (setOverride .active s) := c.lmc _ s rfl h
  have h1 : P (overrideLevels (setOverride .active s)) := c.lmc _ _ rfl h0
  have h2 := keep_lampAlarmStart c.lamps _ (c.requestAlarm _ (c.notice (.alarm true) _
    (keep_ite (b := (setOverride .active s).lmc.supply = .ready) h1 h0)))
  unfold Machine.overrideStart
  exact keep_ite (c.rampUp _ h2) h2

theorem overrideEvent (c : LampFree P) (s : State) (h : P s) : P (overrideEvent s) := by
  unfold Machine.overrideEvent
  split
  · exact keep_ite (c.overrideStart s h) h
  · exact keep_ite h (c.lmc _ s rfl h)
  · exact keep_ite (c.lmc _ s rfl h) h

theorem alarmFlag (c : LampFree P) (b : Bool) (s : State) (h : P { s with lmc := { s.lmc with flagSource := b } }) :
    P (alarmFlag b s) :=
  c.overrideEvent _ h

theorem overrideClears (c : LampFree P) (s : State) (h : P s) : P (overrideClears s) := by
  have h0 : P (setOverride .clear s) := c.lmc _ s rfl h
  have h1 := keep_lampAlarmEnd c.lamps _ (c.notice (.alarm false) _ h0)
  have h2 : ∀ t, P t → P (safetyLevels t) := fun t ht => c.lmc _ t rfl ht
  unfold Machine.overrideClears
  exact keep_ite (keep_ite (c.queueLit _ _ (h2 _ h1)) h1) h

theorem storeGroup (c : LampFree P) (g : GroupNo) (w : GroupWrite) (s : State) (h : P s) : P (storeGroup g w s) := by
  have hm : ∀ m t, P t → P (Machine.modeEffect g m (overrideSafety g (groupOf s g).safety t)) := fun m t ht =>
    c.modeEffect g m _ (keep_ite (c.lmc _ t rfl ht) ht)
  unfold Machine.storeGroup
  dsimp only
  split
  · exact hm _ _ (c.lmc _ s rfl h)
  · exact keep_ite (c.lmc _ _ rfl (hm _ _ (c.lmc _ s rfl h))) (c.lmc _ _ rfl (hm _ _ (c.lmc _ s rfl h)))

theorem serveIgnition (c : LampFree P) : ∀ (n : Nat) (s : State), P s → P (serveIgnition n s).1
  | 0, _, h => h
  | n + 1, s, h => by
    unfold Machine.serveIgnition
    split
    · exact h
    · split
      · exact c.serveIgnition n _ (c.lmc _ _ rfl (c.lmc _ _ rfl (c.lmc _ s rfl h)))
      · exact h

theorem advanceGroup (c : LampFree P) (g : GroupNo) (s : State) (h : P s) : P (advanceGroup s g) :=
  keep_ite (c.lamps.stop g s h) (keep_ite
    (keep_ite (c.lmc _ _ rfl (c.lmc _ s rfl h)) (c.queueIgnition g _ (c.lmc _ s rfl h))) (c.lmc _ s rfl h))

theorem boundary (c : LampFree P) (s : State) (h : P s) : P (boundary s) := by
  unfold Machine.boundary advanceFrame driveRow
  refine keep_ite (c.row _ _ _ (keep_foldl (fun k t ht => keep_lampChain c.lamps k t ht) _ _
    (keep_foldl (fun g t ht => c.advanceGroup g t ht) _ _ ?_))) h
  split
  · exact c.serveIgnition _ _ (c.lmc _ s rfl h)
  · exact c.lmc _ s rfl h

theorem ops (c : LampFree P) : LmcOps P where
  toLampClosed := c.lamps
  cell := fun _ _ s h => c.lmc _ s rfl h
  group := fun g _ w s _ h => c.storeGroup g w s h
  preset := fun _ _ s h => c.lmc _ s rfl h
  scene := fun _ _ s h => c.lmc _ s rfl h
  pending := fun _ _ _ s h => keep_ite (c.lmc _ s rfl h) (c.lmc _ s rfl h)
  hold := fun _ _ s h => c.lmc _ s rfl h
  supplyOn := fun s h => keep_ite (c.rampUp s h) h
  supplyOff := fun s h => by
    have h1 : P (if s.lmc.supply = .off then s else Machine.leaveSupply .off s) := keep_ite h (c.leaveSupply _ s h)
    exact keep_ite h1 (c.rampUp _ h1)
  rampDone := fun s h => keep_ite (c.enterReady s h) h
  rampTimeout := fun s h => keep_ite (c.leaveSupply _ s h) h
  goodLost := fun s h => keep_ite (c.leaveSupply _ s h) h
  line := fun _ s h => c.overrideEvent _ (c.lmc _ s rfl h)
  clears := c.overrideClears
  tick := fun s h => c.row _ _ _ (keep_ite (c.lmc _ _ rfl (c.lmc _ s rfl h)) (c.lmc _ _ rfl (c.lmc _ s rfl h)))
  boundary := c.boundary

end LampFree

/-! ## The cache and the clip memory -/

/-- Kept by every change of CCC's record that leaves its lock table, by its locks and unlocks, by every change of CMP's record
and of the clip memory, by what a voice does, and by a deferred reply. -/
structure CacheFree (P : State → Prop) : Prop extends VoiceClosed P where
  ccc : ∀ x s, x.locks = s.ccc.locks → P s → P { s with ccc := x }
  lock : ∀ ks s, (lockUnion s.ccc.locks ks).length ≤ Config.lockLimit → P s →
    P { s with ccc := { s.ccc with locks := lockUnion s.ccc.locks ks } }
  unlock : ∀ ks s, P s → P (unlockSectors ks s)
  cmp : ∀ x s, P s → P { s with cmp := x }
  dev : ∀ x s, P s → P { s with dev := x }
  deferred : ∀ p s, P s → P (deferredReply p s)

namespace CacheFree

theorem port (c : CacheFree P) (x : Cmp) (y : Device) (s : State) (h : P s) : P { s with cmp := x, dev := y } :=
  c.dev y _ (c.cmp x s h)

theorem cache (c : CacheFree P) (x : Ccc) (y : Cmp) (s : State) (hl : x.locks = s.ccc.locks) (h : P s) : P { s with ccc := x, cmp := y } :=
  c.cmp y _ (c.ccc x s hl h)

theorem acceptMaint (c : CacheFree P) (op : MaintOp) (s : State) (h : P s) : P (acceptMaint op s).1 := by
  unfold Machine.acceptMaint
  split
  · exact h
  · exact c.arbiter _ (c.cmp _ s h)

theorem preload (c : CacheFree P) (k : Nat) (s : State) (h : P s) : P (preload s k) := keep_ite h (c.ccc _ s rfl h)

theorem dropLine (c : CacheFree P) (i : LineNo) (s : State) (h : P s) : P (dropLine s i) :=
  c.ccc _ _ rfl (c.ccc _ s rfl h)

theorem invalidateTag (c : CacheFree P) (k : Nat) (s : State) (h : P s) : P (invalidateTag k s) := by
  unfold Machine.invalidateTag
  split
  · exact h
  · have h1 : ∀ i, P (allVoices.foldl (sectorInvalid k) (Machine.dropLine s i)) := fun i =>
      keep_foldl (fun v s hs => keep_sectorInvalid c.toVoiceClosed k v s hs) _ _ (c.dropLine i s h)
    exact keep_ite (c.preload k _ (h1 _)) (h1 _)

theorem endMaint (c : CacheFree P) (op : MaintOp) (p : List Byte) (s : State) (h : P s) : P (endMaint op p s) := by
  unfold Machine.endMaint
  dsimp only
  refine c.arbiter _ ?_
  split
  · exact c.invalidateTag _ _ (c.deferred _ _ (c.cmp _ s h))
  · exact c.deferred _ _ (c.cmp _ s h)

theorem lockOp (c : CacheFree P) (f : Nat) (l : Byte) (s : State) (h : P s) : P (clipLockOp f l s).1 := by
  unfold clipLockOp
  split
  · exact h
  · split
    · exact h
    · next hfits =>
      exact c.arbiter _ (keep_foldl (fun k t ht => c.preload k t ht) _ _ (c.lock _ s (Nat.le_of_not_lt hfits) h))

theorem unlockOp (c : CacheFree P) (p : Byte) (f : Nat) (l : Byte) (s : State) (h : P s) : P (clipUnlockOp p f l s).1 := by
  unfold clipUnlockOp
  split
  · exact c.arbiter _ (c.unlock _ s h)
  · split
    · exact h
    · exact c.arbiter _ (c.unlock _ s h)

theorem fetchCompletes (c : CacheFree P) (s : State) (h : P s) : P (fetchCompletes s) := by
  unfold Machine.fetchCompletes
  split
  · exact h
  · have hfill : ∀ x y z, x.locks = s.ccc.locks → P { s with ccc := x, cmp := y, dev := z } := fun x y z hx =>
      c.port y z _ (c.ccc x s hx h)
    exact c.arbiter _ (keep_foldl (fun v t ht => keep_tellValid c.toVoiceClosed _ v t ht) _ _ (hfill _ _ _ rfl))

theorem memoryReady (c : CacheFree P) (s : State) (h : P s) : P (memoryReady s) := by
  have hd : P (finishDevice s) := c.dev _ s h
  unfold Machine.memoryReady
  dsimp only
  split
  · exact hd
  · split
    · exact hd
    · exact c.port _ _ _ hd
    · exact c.endMaint _ _ _ hd

theorem maintenanceTimesOut (c : CacheFree P) (s : State) (h : P s) : P (maintenanceTimesOut s) := by
  unfold Machine.maintenanceTimesOut
  split
  · exact h
  · exact keep_ite h (c.endMaint _ _ _ (keep_ite (c.dev _ s h) h))

theorem ops (c : CacheFree P) : CacheOps P where
  clip := fun _ _ s h => c.ccc _ s rfl h
  lock := c.lockOp
  unlock := c.unlockOp
  flush := fun s h => by
    unfold cacheFlushOp flushCache
    exact c.arbiter _ (keep_foldl (fun i t ht => c.dropLine i t ht) _ s h)
  erase := fun _ s h => by
    unfold clipEraseOp
    split
    · exact h
    · exact c.acceptMaint _ s h
  program := fun _ _ s h => by
    unfold clipProgramOp
    split
    · exact h
    · exact c.acceptMaint _ s h
  read := fun _ _ s h => by
    unfold clipReadOp
    split
    · exact h
    · exact c.acceptMaint _ s h
  complete := c.fetchCompletes
  ready := c.memoryReady
  timeout := c.maintenanceTimesOut
  tick := fun s h => by
    unfold tickCmp
    split
    · exact h
    · exact keep_ite h (c.cmp _ s h)
  reset := fun s _ h => c.arbiter _ (keep_foldl (fun k t ht => c.preload k t ht) _ _ (c.cache _ _ s rfl h))

end CacheFree

/-- A property that looks at the lock table alone of the cache and the port. -/
theorem cacheClosed_of (ccc : ∀ x s, x.locks = s.ccc.locks → P s → P { s with ccc := x }) (cmp : ∀ x s, P s → P { s with cmp := x })
    (dev : ∀ x s, P s → P { s with dev := x }) : CacheClosed P where
  request := fun _ _ _ s h => keep_ite h (keep_ite (ccc _ s rfl h) (ccc _ s rfl h))
  touch := fun _ s h => by
    unfold touch
    split
    · exact h
    · exact ccc _ s rfl h
  ceaseWait := fun _ s h => ccc _ s rfl h
  arbiter := fun s h => by
    have hf : P (fetchNext s) := by
      have hfill : ∀ x y, x.locks = s.ccc.locks → P { s with ccc := x, cmp := y } := fun x y hx =>
        cmp y { s with ccc := x } (ccc x s hx h)
      unfold fetchNext
      split
      · exact hfill _ _ rfl
      · exact h
    have hsend : ∀ x y, P { s with cmp := x, dev := y } := fun x y => dev y { s with cmp := x } (cmp x s h)
    have hm : P (startMaint s) := by
      unfold startMaint
      split
      · exact h
      · exact keep_ite (cmp _ s h) (hsend _ _)
    exact keep_ite h (keep_ite hf (keep_ite hm hf))

/-- What requests bring the cache and the port, where the property looks at neither record and the arbiter keeps it. -/
theorem cacheRequests_of (ccc : ∀ x s, P s → P { s with ccc := x }) (cmp : ∀ x s, P s → P { s with cmp := x })
    (arbiter : ∀ s, P s → P (arbiter s)) : CacheRequests P := by
  have hpreload : ∀ k s, P s → P (preload s k) := fun k s h => keep_ite h (ccc _ s h)
  have haccept : ∀ op s, P s → P (acceptMaint op s).1 := fun op s h => by
    unfold acceptMaint
    split
    · exact h
    · exact arbiter _ (cmp _ s h)
  have hboth : ∀ x y s, P s → P { s with ccc := x, cmp := y } := fun x y s h => cmp y _ (ccc x s h)
  refine
    { clip := fun _ _ s h => ccc _ s h
      lock := fun f l s h => ?_
      unlock := fun p f l s h => ?_
      flush := fun s h => arbiter _ (keep_foldl (fun i t ht => ccc _ t ht) _ s h)
      erase := fun k s h => ?_
      program := fun a d s h => ?_
      read := fun a n s h => ?_
      reset := fun s _ h => arbiter _ (keep_foldl (fun k t ht => hpreload k t ht) _ _ (hboth _ _ s h)) }
  · unfold clipLockOp
    split
    · exact h
    · split
      · exact h
      · exact arbiter _ (keep_foldl (fun k t ht => hpreload k t ht) _ _ (ccc _ s h))
  · unfold clipUnlockOp
    split
    · exact arbiter _ (ccc _ s h)
    · split
      · exact h
      · exact arbiter _ (ccc _ s h)
  · unfold clipEraseOp
    split
    · exact h
    · exact haccept _ s h
  · unfold clipProgramOp
    split
    · exact h
    · exact haccept _ s h
  · unfold clipReadOp
    split
    · exact h
    · exact haccept _ s h

/-! ## CTH -/

theorem cthOps_of (cth : ∀ x s, P s → P { s with cth := x }) : CthOps P where
  notice := fun _ s h => keep_ite (cth _ s h) (cth _ s h)
  assembly := fun _ s h => cth _ s h
  settings := fun _ s h => cth _ s h
  pendingReset := fun s h => cth _ s h
  turn := fun s h => by
    have ha : ∀ x t, P t → P (afterSlot x t) := fun x t ht => keep_ite (cth _ t ht) (cth _ t ht)
    unfold returnTurn
    split
    · exact ha _ s h
    · split
      · exact ha _ _ (cth _ s h)
      · split
        · dsimp only
          exact ha _ _ (cth _ s h)
        · exact h
  reset := fun s h => cth _ s h

/-- A request is answered where the property does not look at CTH. -/
theorem answered_of (c : OwnClosed P) (r : RouteSteps P) (cth : ∀ x s, P s → P { s with cth := x }) (bc : Bool) (kind : Byte)
    (f : State → State × Answer) (s : State) (hf : Handled true s (f s)) (h : P s) : P (takeRequest bc kind f s) :=
  have hs := hf.keeps P c (fun _ => r) h
  keep_ite h (keep_ite hs (cth _ _ hs))

end Sys2Proof.Proofs
end

section
/-! PROOFS. The counts of CTH's queues and the lock table at every step: parts of the bounds that every step keeps. -/

namespace Sys2Proof.Proofs

open Sys2Proof Sys2Proof.Machine Sys2Proof.Laws

variable {P : State → Prop}

/-! ## Properties of CTH, LMC, the cache and the port -/

/-- A property that looks at none of the records of the seats, the zones, the route, the announcements and the voices, nor at
the ports. -/
structure RestFree (P : State → Prop) : Prop where
  scc : ∀ x s, P s → P { s with scc := x }
  hmx : ∀ x s, P s → P { s with hmx := x }
  zou : ∀ x s, P s → P { s with zou := x }
  rce : ∀ x s, P s → P { s with rce := x }
  asq : ∀ x s, P s → P { s with asq := x }
  vpl : ∀ x s, P s → P { s with vpl := x }
  tickFor : ∀ x s, P s → P { s with tif := { s.tif with tickFor := x } }
  downstream : ∀ x s, P s → P { s with tif := { s.tif with downstream := x } }
  row : ∀ x y s, P s → P { s with out := { s.out with row := x, columns := y } }

namespace RestFree

theorem voices (r : RestFree P) (c : CacheClosed P) : VoiceClosed P where
  toCacheClosed := c
  vpl := r.vpl
  report := fun _ s h => r.asq _ s h

theorem announcements (r : RestFree P) (c : CacheClosed P) (l : LampClosed P) (notice : ∀ n s, P s → P (pushNotice n s)) :
    AsqClosed P where
  toVoiceClosed := r.voices c
  toLampClosed := l
  notice := notice
  zou := r.zou
  asq := r.asq

/-- Such a property is kept by every block's operations where LMC's, the cache's and CTH's keep it. -/
theorem ops (r : RestFree P) (c : CacheClosed P) (l : LmcOps P) (k : CacheOps P) (t : CthOps P) : OpsClosed P where
  toVoiceClosed := r.voices c
  asqOps := asqOps_of (r.announcements c l.toLampClosed t.notice)
  zouOps := zouOps_of r.zou
  seatOps := seatOps_of r.scc r.hmx
  routeOps := (routeLeaves_of r.rce t.notice).ops
  lmcOps := l
  cacheOps := k
  cthOps := t
  tickFor := r.tickFor
  downstream := r.downstream

/-- Such a property is kept by requests, deliveries and the slot's own events where LMC's, the cache's and CTH's part of them
keep it. -/
theorem own (r : RestFree P) (c : CacheClosed P) (l : LmcOps P) (k : CacheRequests P) (t : CthOps P) : OwnClosed P where
  toVoiceClosed := r.voices c
  asqOps := asqOps_of (r.announcements c l.toLampClosed t.notice)
  zouOps := zouOps_of r.zou
  seatRequests := (seatOps_of r.scc r.hmx).toSeatRequests
  routeOps := (routeLeaves_of r.rce t.notice).ops
  lmcOps := l
  cacheRequests := k
  cthOps := t

theorem steps (r : RestFree P) (t : CthOps P) : RouteSteps P := (routeLeaves_of r.rce t.notice).steps

/-- Where such a property does not look at LMC either. -/
theorem lamps (r : RestFree P) (c : CacheClosed P) (lmc : ∀ x s, x.flagSource = s.lmc.flagSource → P s → P { s with lmc := x })
    (notice : ∀ n s, P s → P (pushNotice n s)) : LampFree P where
  lmc := lmc
  notice := notice
  internal := fun _ _ _ _ _ _ _ _ h => keep_takeInternal (r.announcements c (lampClosed_of lmc) notice) _ _ h
  row := r.row

theorem seats (r : RestFree P) (x : Scc) (y : Hmx) (s : State) (h : P s) : P { s with scc := x, hmx := y } :=
  r.hmx y _ (r.scc x s h)

/-- A slot command keeps such a property where the alarm flag's change does and it does not look at TIF. -/
theorem slots (r : RestFree P) (e : EventClosed P) (htif : ∀ x s, P s → P { s with tif := x }) (halarm : ∀ b s, P s → P (alarmFlag b s)) (ws : TrunkWords)
    (short order : List SlotEvent) (s : State) (h : P s) : P (slotEnds ws short order s) :=
  e.slotEnds htif (fun _ _ _ s hs => r.seats _ _ s hs) halarm ws short order s h

end RestFree

/-! ## The reply places and the notice queue -/

/-- At most `k` reply places are taken, and at most 16 notices wait (R23, R33). -/
def QueuesHeld (k : Nat) (s : State) : Prop := s.cth.replies.length ≤ k ∧ s.cth.notices.length ≤ 16

theorem queuesHeld_rest (k : Nat) : RestFree (QueuesHeld k) where
  scc := fun _ _ h => h
  hmx := fun _ _ h => h
  zou := fun _ _ h => h
  rce := fun _ _ h => h
  asq := fun _ _ h => h
  vpl := fun _ _ h => h
  tickFor := fun _ _ h => h
  downstream := fun _ _ h => h
  row := fun _ _ _ h => h

theorem queuesHeld_cache (k : Nat) : CacheClosed (QueuesHeld k) :=
  cacheClosed_of (fun _ _ _ h => h) (fun _ _ h => h) (fun _ _ h => h)

theorem queuesHeld_pushNotice {k : Nat} (n : Notice) {s : State} (h : QueuesHeld k s) : QueuesHeld k (pushNotice n s) := by
  refine ⟨(pushNotice_replies n s).symm ▸ h.1, ?_⟩
  rcases pushNotice_eq n s with ⟨hlen, e⟩ | ⟨_, e⟩ <;> rw [e]
  · simpa using hlen
  · exact h.2

theorem fillReserved_length (p : List Byte) (l : List Place) : (fillReserved p l).length = l.length := by
  induction l with
  | nil => rfl
  | cons x rest ih => unfold fillReserved; split <;> simp [ih]

theorem beginReply_length {l ps : List Place} {p : Place} (h : beginReply l = some (p, ps)) : ps.length = l.length := by
  induction l generalizing p ps with
  | nil => simp [beginReply] at h
  | cons x rest ih =>
    unfold beginReply at h
    split at h
    · cases h
      rfl
    · split at h
      · cases h
      · next he =>
        cases h
        simp [ih he]

theorem queuesHeld_afterSlot {k : Nat} (x : Transmission) {s : State} (h : QueuesHeld k s) : QueuesHeld k (afterSlot x s) := by
  obtain ⟨hr, hn⟩ := h
  unfold afterSlot
  split
  · refine ⟨?_, hn⟩
    dsimp only
    split
    · exact (List.length_filter_le _ _).trans hr
    · exact hr
  · exact ⟨hr, hn⟩

theorem queuesHeld_returnTurn {k : Nat} {s : State} (h : QueuesHeld k s) : QueuesHeld k (returnTurn s).1 := by
  obtain ⟨hr, hn⟩ := h
  unfold returnTurn
  split
  · exact queuesHeld_afterSlot _ ⟨hr, hn⟩
  · split
    · next he => exact queuesHeld_afterSlot _ ⟨(beginReply_length he).trans_le hr, hn⟩
    · split
      · next hq => exact queuesHeld_afterSlot _ ⟨hr, by simp [hq] at hn ⊢; omega⟩
      · exact ⟨hr, hn⟩

theorem queuesHeld_cth (k : Nat) : CthOps (QueuesHeld k) where
  notice := fun n _ h => queuesHeld_pushNotice n h
  assembly := fun _ _ h => h
  settings := fun _ _ h => h
  pendingReset := fun _ h => h
  turn := fun _ h => queuesHeld_returnTurn h
  reset := fun _ _ => ⟨Nat.zero_le _, Nat.zero_le _⟩

theorem queuesHeld_lamps (k : Nat) : LampFree (QueuesHeld k) :=
  (queuesHeld_rest k).lamps (queuesHeld_cache k) (fun _ _ _ h => h) (queuesHeld_cth k).notice

theorem queuesHeld_ops (k : Nat) : OpsClosed (QueuesHeld k) :=
  (queuesHeld_rest k).ops (queuesHeld_cache k) (queuesHeld_lamps k).ops (CacheFree.ops {
    toVoiceClosed := (queuesHeld_rest k).voices (queuesHeld_cache k)
    ccc := fun _ _ _ h => h
    lock := fun _ _ _ h => h
    unlock := fun _ _ h => h
    cmp := fun _ _ h => h
    dev := fun _ _ h => h
    deferred := fun _ _ h => ⟨(fillReserved_length _ _).trans_le h.1, h.2⟩ }) (queuesHeld_cth k)

/-- A reply takes a place only where fewer than four are taken (R23). -/
theorem queuesHeld_answered (bc : Bool) (kind : Byte) (f : State → State × Answer) (s : State) (hf : Handled true s (f s))
    (h : QueuesHeld 4 s) : QueuesHeld 4 (takeRequest bc kind f s) := by
  have hkeeps := fun k hk => hf.keeps (QueuesHeld k) (queuesHeld_ops k).own (fun _ => (queuesHeld_rest k).steps (queuesHeld_cth k)) hk
  unfold takeRequest
  split
  · exact h
  · next hd =>
    split
    · exact hkeeps 4 h
    · next hbc =>
      have hroom : s.cth.replies.length ≤ 3 := by
        simp only [discarded, hbc, Config.replyPlaces] at hd
        grind
      obtain ⟨hr, hn⟩ := hkeeps 3 ⟨hroom, h.2⟩
      exact ⟨by simp [addPlace]; omega, hn⟩

theorem queuesHeld_event : EventClosed (QueuesHeld 4) where
  toOpsClosed := queuesHeld_ops 4
  toRouteSteps := (queuesHeld_rest 4).steps (queuesHeld_cth 4)
  answered := queuesHeld_answered
  out := fun _ _ h => h

theorem queuesHeld_step : StepClosed (QueuesHeld 4) :=
  queuesHeld_event.stepClosed ((queuesHeld_rest 4).slots queuesHeld_event (fun _ _ h => h)
    (fun b s h => (queuesHeld_lamps 4).alarmFlag b s h)) {
    queue := fun _ _ h => h
    stop := fun _ _ _ h => h
    warmTick := fun _ _ h => h
    fresh := fun _ _ _ _ => ⟨Nat.zero_le _, Nat.zero_le _⟩
    device := fun _ _ h => h }

/-! ## The lock table -/

/-- The lock table holds at most 16 sectors and rises (R156). -/
def LocksHeld (s : State) : Prop := s.ccc.locks.length ≤ 16 ∧ s.ccc.locks.Pairwise (· < ·)

theorem mem_insertSector {k x : Nat} {l : List Nat} : x ∈ insertSector k l ↔ x = k ∨ x ∈ l := by
  induction l with
  | nil => simp [insertSector]
  | cons y ys ih =>
    unfold insertSector
    split_ifs with h1 h2
    · simp
    · subst h2; simp
    · simp [ih, or_left_comm]

theorem insertSector_rises {k : Nat} {l : List Nat} (h : l.Pairwise (· < ·)) : (insertSector k l).Pairwise (· < ·) := by
  induction l with
  | nil => simp [insertSector]
  | cons y ys ih =>
    obtain ⟨hy, hys⟩ := List.pairwise_cons.mp h
    unfold insertSector
    split_ifs with h1 h2
    · exact List.pairwise_cons.mpr ⟨fun x hx => by
        rcases List.mem_cons.mp hx with rfl | hx
        · exact h1
        · exact h1.trans (hy x hx), h⟩
    · exact h
    · refine List.pairwise_cons.mpr ⟨fun x hx => ?_, ih hys⟩
      rcases mem_insertSector.mp hx with rfl | hx
      · omega
      · exact hy x hx

theorem lockUnion_rises (sectors : List Nat) {locks : List Nat} (h : locks.Pairwise (· < ·)) :
    (lockUnion locks sectors).Pairwise (· < ·) := by
  unfold lockUnion
  induction sectors generalizing locks with
  | nil => exact h
  | cons k rest ih => exact ih (insertSector_rises h)

theorem locksHeld_rest : RestFree LocksHeld where
  scc := fun _ _ h => h
  hmx := fun _ _ h => h
  zou := fun _ _ h => h
  rce := fun _ _ h => h
  asq := fun _ _ h => h
  vpl := fun _ _ h => h
  tickFor := fun _ _ h => h
  downstream := fun _ _ h => h
  row := fun _ _ _ h => h

theorem locksHeld_ccc (x : Ccc) (s : State) (hx : x.locks = s.ccc.locks) (h : LocksHeld s) : LocksHeld { s with ccc := x } := by
  unfold LocksHeld
  rw [hx]
  exact h

theorem locksHeld_cache : CacheClosed LocksHeld := cacheClosed_of locksHeld_ccc (fun _ _ h => h) (fun _ _ h => h)

theorem locksHeld_cth : CthOps LocksHeld := cthOps_of fun _ _ h => h

theorem locksHeld_lamps : LampFree LocksHeld :=
  locksHeld_rest.lamps locksHeld_cache (fun _ _ _ h => h) locksHeld_cth.notice

theorem locksHeld_cacheFree : CacheFree LocksHeld where
  toVoiceClosed := locksHeld_rest.voices locksHeld_cache
  ccc := locksHeld_ccc
  lock := fun ks _ hfits h => ⟨hfits, lockUnion_rises ks h.2⟩
  unlock := fun _ _ h => ⟨(List.length_filter_le _ _).trans h.1, h.2.sublist List.filter_sublist⟩
  cmp := fun _ _ h => h
  dev := fun _ _ h => h
  deferred := fun _ _ h => h

theorem locksHeld_ops : OpsClosed LocksHeld :=
  locksHeld_rest.ops locksHeld_cache locksHeld_lamps.ops locksHeld_cacheFree.ops locksHeld_cth

theorem locksHeld_event : EventClosed LocksHeld where
  toOpsClosed := locksHeld_ops
  toRouteSteps := locksHeld_rest.steps locksHeld_cth
  answered := answered_of locksHeld_ops.own (locksHeld_rest.steps locksHeld_cth) (fun _ _ h => h)
  out := fun _ _ h => h

theorem locksHeld_step : StepClosed LocksHeld :=
  locksHeld_event.stepClosed (locksHeld_rest.slots locksHeld_event (fun _ _ h => h)
    (fun b s h => locksHeld_lamps.alarmFlag b s h)) {
    queue := fun _ _ h => h
    stop := fun _ _ _ h => h
    warmTick := fun _ _ h => h
    fresh := fun _ _ _ _ => ⟨Nat.zero_le _, .nil⟩
    device := fun _ _ h => h }

end Sys2Proof.Proofs
end

section
/-! PROOFS. Properties of the seats, the zones and the route alone: the other blocks' operations keep them, ASQ's by the duck
targets that are all it changes of ZOU's record. -/

namespace Sys2Proof.Proofs

open Sys2Proof Sys2Proof.Machine Sys2Proof.Laws

variable {P : State → Prop}

/-- A property that looks at TIF, the seats, the zones and the route alone, and that a change of the duck targets keeps. -/
structure DeckSide (P : State → Prop) : Prop where
  cth : ∀ x s, P s → P { s with cth := x }
  asq : ∀ x s, P s → P { s with asq := x }
  vpl : ∀ x s, P s → P { s with vpl := x }
  ccc : ∀ x s, P s → P { s with ccc := x }
  cmp : ∀ x s, P s → P { s with cmp := x }
  lmc : ∀ x s, P s → P { s with lmc := x }
  dev : ∀ x s, P s → P { s with dev := x }
  row : ∀ x y s, P s → P { s with out := { s.out with row := x, columns := y } }
  duck : ∀ x s, P s → P (duckChange x s)

namespace DeckSide

theorem cache (d : DeckSide P) : CacheClosed P := cacheClosed_of (fun _ s _ h => d.ccc _ s h) d.cmp d.dev

theorem voices (d : DeckSide P) : VoiceClosed P where
  toCacheClosed := d.cache
  vpl := d.vpl
  report := fun _ s h => d.asq _ s h

theorem lamps (d : DeckSide P) : LampClosed P := lampClosed_of fun _ s _ h => d.lmc _ s h

theorem cthOps (d : DeckSide P) : CthOps P := cthOps_of d.cth

theorem endNotice (d : DeckSide P) (a : Announcement) (o : AnnOutcome) (s : State) (h : P s) : P (endNotice a o s) :=
  d.cthOps.notice _ s h

theorem makeCurrent (d : DeckSide P) (a : Announcement) (b : Bool) (s : State) (h : P s) : P (makeCurrent a b s) := by
  refine keep_lampAnnounceStart d.lamps a _ ?_
  have ht := d.duck (some (summaryOf a)) _ (d.asq { s.asq with current := some a, softCut := false } s h)
  exact keep_ite (keep_startTalk d.voices a _ ht) (keep_startVoices d.voices a _ b _ ht)

theorem enterQueue (d : DeckSide P) (x : Announcement) (o : AnnOutcome) (s : State) (h : P s) : P (enterQueue x o s).1 := by
  unfold Machine.enterQueue
  split
  · exact d.endNotice x o s h
  · dsimp only
    split
    · exact d.asq _ s h
    · exact d.endNotice _ _ _ (d.asq _ s h)

theorem leaveCurrent (d : DeckSide P) (c : Announcement) (s : State) (h : P s) : P (leaveCurrent c s) :=
  keep_ite (d.endNotice _ _ _ (d.asq _ s h)) (keep_ite (d.enterQueue _ _ _ (d.asq _ s h)) (d.asq _ _ (d.asq _ s h)))

theorem preempt (d : DeckSide P) (c x : Announcement) (s : State) (h : P s) : P (preempt c x s) :=
  d.makeCurrent x false _ (keep_lampAnnounceEnd d.lamps c _ (keep_stopVoices d.voices _ (d.leaveCurrent c s h)))

theorem place (d : DeckSide P) (x : Announcement) (s : State) (h : P s) : P (place x s).1 := by
  unfold Machine.place
  split
  · split
    · exact d.endNotice _ _ s h
    · dsimp only
      exact d.makeCurrent x false s h
  · split
    · split
      · exact d.endNotice _ _ s h
      · dsimp only
        exact d.preempt _ x s h
    · exact d.enterQueue x _ s h

theorem issue (d : DeckSide P) (id : Nat) (s : State) (h : P s) : P (issue id s) := d.asq _ s h

theorem placeNew (d : DeckSide P) (x : Announcement) (s : State) (h : P s) : P (placeNew x s).1 :=
  d.place x _ (d.issue _ s h)

theorem takeInternal (d : DeckSide P) (x : Announcement) (s : State) (h : P s) : P (takeInternal x s) :=
  keep_ite (d.endNotice _ _ _ (d.issue _ s h)) (d.placeNew x s h)

theorem select (d : DeckSide P) : ∀ (n : Nat) (s : State), P s → P (select n s)
  | 0, _, h => h
  | n + 1, s, h => by
    unfold Machine.select
    split
    · exact h
    · dsimp only
      split
      · exact d.select n _ (d.endNotice _ _ _ (d.asq _ s h))
      · exact d.makeCurrent _ _ _ (d.asq _ s h)

theorem endCurrent (d : DeckSide P) (c : Announcement) (o : AnnOutcome) (s : State) (h : P s) : P (endCurrent c o s) :=
  d.select _ _ (keep_lampAnnounceEnd d.lamps c _ (keep_stopVoices d.voices _
    (d.duck none _ (d.endNotice c o _ (d.asq _ s h)))))

theorem takeReport (d : DeckSide P) (s : State) (h : P s) : P (takeReport s) := by
  unfold Machine.takeReport
  split
  · exact h
  · split
    · exact d.asq _ s h
    · exact keep_ite (d.endCurrent _ _ s h) (d.asq _ s h)

theorem cut (d : DeckSide P) (id : Nat) (b : Bool) (s : State) (h : P s) : P (cut id b s).1 := by
  unfold Machine.cut
  split
  · exact d.endNotice _ _ _ (d.asq _ s h)
  · exact d.endNotice _ _ _ (d.asq _ s h)
  · exact h
  · split
    · exact h
    · split
      · dsimp only
        exact d.endCurrent _ _ s h
      · split
        · exact h
        · exact keep_softCutVoices d.voices _ (d.asq _ s h)

theorem hangExpires (d : DeckSide P) (s : State) (h : P s) : P (hangExpires s) := by
  have hq : P (match takeFirst hangDue s.asq.queue with
      | none => s
      | some (a, q) => Machine.endNotice a .lapsed (setAsq { s.asq with queue := q } s)) := by
    split
    · exact h
    · exact d.endNotice _ _ _ (d.asq _ s h)
  unfold Machine.hangExpires
  split
  · exact keep_ite (d.endCurrent _ _ s h) hq
  · exact hq

theorem asqOps (d : DeckSide P) : AsqOps P where
  internal := fun _ _ _ _ _ _ _ s h => d.takeInternal _ s h
  announce := fun ps s h => by
    unfold announceOp
    split
    · exact h
    · split
      · exact h
      · exact d.placeNew _ s h
  cut := d.cut
  rise := fun s h => keep_ite (d.asq _ s h) (d.placeNew _ s h)
  fall := fun s h => d.hangExpires _ (d.asq _ s h)
  hang := d.hangExpires
  report := d.takeReport
  tick := fun s h => d.asq _ s h
  phrase := fun _ _ s h => d.asq _ s h
  reset := fun s h => d.duck _ _ (d.asq _ s h)

theorem lampFree (d : DeckSide P) : LampFree P where
  lmc := fun _ s _ h => d.lmc _ s h
  notice := d.cthOps.notice
  internal := d.asqOps.internal
  row := d.row

theorem cacheFree (d : DeckSide P) : CacheFree P where
  toVoiceClosed := d.voices
  ccc := fun _ s _ h => d.ccc _ s h
  lock := fun _ s _ h => d.ccc _ s h
  unlock := fun _ s h => d.ccc _ s h
  cmp := d.cmp
  dev := d.dev
  deferred := fun _ s h => d.cth _ s h

/-- Such a property is kept by requests, deliveries and the slot's own events where the seats', the zones' and the route's
keep it. -/
theorem own (d : DeckSide P) (z : ZouOps P) (t : SeatRequests P) (r : RouteOps P) (l : RouteSteps P) : OwnEventClosed P :=
  have c : OwnClosed P := {
    toVoiceClosed := d.voices
    asqOps := d.asqOps
    zouOps := z
    seatRequests := t
    routeOps := r
    lmcOps := d.lampFree.ops
    cacheRequests := d.cacheFree.ops.toCacheRequests
    cthOps := d.cthOps }
  { toOwnClosed := c, toRouteSteps := l, answered := answered_of c l d.cth }

/-- Such a property is kept by every block's operations where the seats', the zones' and the route's keep it. -/
theorem ops (d : DeckSide P) (z : ZouOps P) (t : SeatOps P) (r : RouteOps P)
    (tickFor : ∀ x s, P s → P { s with tif := { s.tif with tickFor := x } })
    (downstream : ∀ x s, P s → P { s with tif := { s.tif with downstream := x } }) : OpsClosed P where
  toVoiceClosed := d.voices
  asqOps := d.asqOps
  zouOps := z
  seatOps := t
  routeOps := r
  lmcOps := d.lampFree.ops
  cacheOps := d.cacheFree.ops
  cthOps := d.cthOps
  tickFor := tickFor
  downstream := downstream

theorem alarmFlag (d : DeckSide P) (b : Bool) (s : State) (h : P s) : P (alarmFlag b s) :=
  d.lampFree.alarmFlag b s (d.lmc _ s h)

theorem event (d : DeckSide P) (c : OpsClosed P) (r : RouteSteps P) (out : ∀ x s, P s → P { s with out := x }) : EventClosed P where
  toOpsClosed := c
  toRouteSteps := r
  answered := answered_of c.own r d.cth
  out := out

end DeckSide

end Sys2Proof.Proofs
end

section
/-! PROOFS. The route's counts, the receiver, the deliveries and the flag source at every step: parts of the bounds that every
step keeps. -/

namespace Sys2Proof.Proofs

open Sys2Proof Sys2Proof.Machine Sys2Proof.Laws

variable {P : State → Prop}

/-! ## TIF's record after a period -/

/-- TIF's record as a period of either row, or the short one before a frame found by hunting, leaves it (R3 to R9). -/
inductive NextTif (t : Tif) : Tif → Prop
  | valid (f : Vector Word16 21) : NextTif t (validTif f t)
  | invalid : NextTif t (invalidTif t)
  | short : NextTif t { t with counter := t.counter + 1, delivered := Reset.samples }

/-- A slot command is one or two periods' ends, and keeps what they and the ports keep. -/
theorem keep_slotEnds (hend : ∀ new b ce order s, NextTif s.tif new → P s → P (endPeriod new b ce order s))
    (hout : ∀ x s, P s → P { s with out := x }) (ws : TrunkWords) (short order : List SlotEvent) (s : State) (h : P s) :
    P (slotEnds ws short order s) := by
  unfold slotEnds
  split <;> split
  · exact hout _ _ (hend _ _ _ _ s (.valid _) h)
  · exact hout _ _ (hend _ _ _ _ s .invalid h)
  · exact hout _ _ (hend _ _ _ _ _ (.valid _) (hend _ _ _ _ s .short h))
  · exact hout _ _ (hend _ _ _ _ s .invalid h)

/-! ## The route's counts -/

/-- The route's counts and odometers are within their ranges (R10, R91, R97). -/
def RouteHeld (s : State) : Prop :=
  s.tif.drive.odometer < 65536 ∧ s.rce.lastOdo < 65536 ∧ s.rce.count ≤ 256 ∧ s.rce.cursor ≤ s.rce.count

theorem routeHeld_leaves : RouteLeaves (· < 65536) RouteHeld where
  zero := by decide
  odometer := fun _ h => h.1
  notice := fun n s h => by simpa [RouteHeld] using h
  cues := fun _ _ h => h
  due := fun _ _ h => h
  move := fun _ _ h => h
  cursor := fun n s hn h => by
    obtain ⟨hodo, hlast, hcount, hcursor⟩ := h
    exact ⟨hodo, hlast, hcount, hn.trans (max_le hcursor le_rfl)⟩
  processed := fun _ _ hn h => ⟨h.1, hn, h.2.2⟩
  begin := fun _ _ _ hn h => ⟨h.1, (by decide : 0 < 65536), hn, Nat.zero_le _⟩

theorem routeHeld_deck : DeckSide RouteHeld where
  cth := fun _ _ h => h
  asq := fun _ _ h => h
  vpl := fun _ _ h => h
  ccc := fun _ _ h => h
  cmp := fun _ _ h => h
  lmc := fun _ _ h => h
  dev := fun _ _ h => h
  row := fun _ _ _ h => h
  duck := fun _ _ h => h

theorem routeHeld_event : EventClosed RouteHeld :=
  routeHeld_deck.event (routeHeld_deck.ops (zouOps_of fun _ _ h => h) (seatOps_of (fun _ _ h => h) (fun _ _ h => h))
    routeHeld_leaves.ops (fun _ _ h => h) (fun _ _ h => h)) routeHeld_leaves.steps (fun _ _ h => h)

theorem frameDrive_odometer (d : Drive) (f : Vector Word16 21) (h : d.odometer < 65536) :
    (frameDrive d f).odometer < 65536 := by
  unfold frameDrive
  dsimp only
  split
  · exact BitVec.isLt _
  · exact h

/-- The odometer of a period stays below 65,536 (R10). -/
theorem NextTif.odometer {t new : Tif} (hn : NextTif t new) (h : t.drive.odometer < 65536) : new.drive.odometer < 65536 := by
  cases hn with
  | valid f =>
    unfold validTif
    split
    · exact frameDrive_odometer _ f h
    · dsimp only
      split
      · exact frameDrive_odometer _ f h
      · exact h
  | invalid =>
    unfold invalidTif
    split
    · dsimp only
      split <;> exact h
    · exact h
  | short => exact h

theorem routeHeld_slot (ws : TrunkWords) (short order : List SlotEvent) (s : State) (h : RouteHeld s) :
    RouteHeld (slotEnds ws short order s) := by
  refine keep_slotEnds (fun new b ce order s hn hs => ?_) (fun _ _ h => h) ws short order s h
  exact routeHeld_event.endPeriod b ce order s (fun _ _ _ _ _ hu => ⟨hs.1, hu.2⟩)
    (fun _ hu => ⟨hn.odometer hs.1, hu.2⟩) (routeHeld_deck.alarmFlag _) hs

theorem routeHeld_step : StepClosed RouteHeld :=
  routeHeld_event.stepClosed (routeHeld_slot) {
    queue := fun _ _ h => h
    stop := fun _ _ _ h => h
    warmTick := fun _ _ h => h
    fresh := fun _ _ _ _ => ⟨(by decide : 0 < 65536), (by decide : 0 < 65536), Nat.zero_le _, Nat.zero_le _⟩
    device := fun _ _ h => h }

/-! ## The deliveries -/

/-- No delivery waits for its block between two commands. -/
def NoneDue (s : State) : Prop := s.rce.due = []

theorem noneDue_deck : DeckSide NoneDue where
  cth := fun _ _ h => h
  asq := fun _ _ h => h
  vpl := fun _ _ h => h
  ccc := fun _ _ h => h
  cmp := fun _ _ h => h
  lmc := fun _ _ h => h
  dev := fun _ _ h => h
  row := fun _ _ _ h => h
  duck := fun _ _ h => h

theorem noneDue_route : RouteOps NoneDue where
  due := fun p s h => by rw [NoneDue] at h; simp [NoneDue, setRce, h]
  next := fun p d rest s hd h => by rw [NoneDue] at h; simp [h, takeFirst] at hd
  disarm := fun s h => by
    have hm : NoneDue (moveRoute .idle s) := noneDue_deck.cthOps.notice _ (setRce { s.rce with state := .idle } s) h
    exact keep_ite h hm
  cue := fun _ _ _ h => h
  reset := fun s h => by
    have hp : NoneDue (allPending s) := by simpa [NoneDue, allPending, setRce] using h
    unfold deckResetRce
    generalize allPending s = t at hp ⊢
    have ht : NoneDue (setRce { t.rce with cursor := 0, lastOdo := 0, state := .idle } t) := hp
    exact keep_ite ht (noneDue_deck.cthOps.notice _ _ ht)

theorem noneDue_ops : OpsClosed NoneDue :=
  noneDue_deck.ops (zouOps_of fun _ _ h => h) (seatOps_of (fun _ _ h => h) (fun _ _ h => h)) noneDue_route
    (fun _ _ h => h) (fun _ _ h => h)

/-- The end of an event takes every delivery (R102). -/
theorem noneDue_settle (s : State) : NoneDue (settle s) := by
  refine keep_foldl (fun d t ht => noneDue_ops.takeDelivery d t ht) _ _ ?_
  simp [NoneDue, setRce]

theorem noneDue_step : StepClosed NoneDue where
  answered := fun bc kind f s _ hf h => by
    have hs := hf.keeps NoneDue noneDue_ops.own nofun h
    exact keep_ite h (keep_ite hs hs)
  arm := fun _ _ _ _ _ _ => noneDue_settle _
  event := fun e s _ h => noneDue_ops.takeEvent e s h
  slot := fun ws short order s _ h =>
    keep_slotEnds (fun _ _ _ _ _ _ _ => noneDue_settle _) (fun _ _ h => h) ws short order s h
  queue := fun _ _ h => h
  stop := fun _ _ _ h => h
  warmTick := fun _ _ h => h
  fresh := fun _ _ _ _ => rfl
  device := fun _ _ h => h

/-! ## The receiver -/

/-- What looks at TIF's receiver, trunk state, run and alarm flag alone is kept by every block. -/
theorem tif_rest {Q : Tif → Prop} (htick : ∀ x t, Q t → Q { t with tickFor := x })
    (hdown : ∀ x t, Q t → Q { t with downstream := x }) : RestFree fun s => Q s.tif where
  scc := fun _ _ h => h
  hmx := fun _ _ h => h
  zou := fun _ _ h => h
  rce := fun _ _ h => h
  asq := fun _ _ h => h
  vpl := fun _ _ h => h
  tickFor := fun _ _ h => htick _ _ h
  downstream := fun _ _ h => hdown _ _ h
  row := fun _ _ _ h => h

theorem tif_cache {Q : Tif → Prop} : CacheClosed fun s => Q s.tif :=
  cacheClosed_of (fun _ _ _ h => h) (fun _ _ h => h) (fun _ _ h => h)

theorem tif_lamps {Q : Tif → Prop} (r : RestFree fun s => Q s.tif) : LampFree fun s => Q s.tif :=
  r.lamps tif_cache (fun _ _ _ h => h) (cthOps_of fun _ _ h => h).notice

theorem tif_event {Q : Tif → Prop} (r : RestFree fun s => Q s.tif) : EventClosed fun s => Q s.tif := by
  have hcth : CthOps fun s => Q s.tif := cthOps_of fun _ _ h => h
  have hops : OpsClosed fun s => Q s.tif := r.ops tif_cache (tif_lamps r).ops (CacheFree.ops {
    toVoiceClosed := r.voices tif_cache
    ccc := fun _ _ _ h => h
    lock := fun _ _ _ h => h
    unlock := fun _ _ h => h
    cmp := fun _ _ h => h
    dev := fun _ _ h => h
    deferred := fun _ _ h => h }) hcth
  exact { toOpsClosed := hops, toRouteSteps := r.steps hcth
          answered := answered_of hops.own (r.steps hcth) (fun _ _ h => h), out := fun _ _ h => h }

/-- The receiver hunts only out of LOCKED with no VALID slot counted (R3, R6, R8). -/
def HuntsUnlocked (t : Tif) : Prop := t.receiver = .hunting → t.trunk ≠ .locked ∧ t.validRun = 0

theorem huntsUnlocked_rest : RestFree fun s => HuntsUnlocked s.tif := tif_rest (fun _ _ h => h) (fun _ _ h => h)

theorem huntsUnlocked_event : EventClosed fun s => HuntsUnlocked s.tif := tif_event huntsUnlocked_rest

theorem validTif_receiver (f : Vector Word16 21) (t : Tif) : (validTif f t).receiver = .expecting := by
  unfold validTif
  split
  · rfl
  · dsimp only
    split <;> rfl

theorem huntsUnlocked_validTif (f : Vector Word16 21) (t : Tif) : HuntsUnlocked (validTif f t) :=
  fun h => absurd ((validTif_receiver f t).symm.trans h) (by decide)

theorem NextTif.huntsUnlocked {t new : Tif} (hn : NextTif t new) (h : HuntsUnlocked t) : HuntsUnlocked new := by
  cases hn with
  | valid f => exact huntsUnlocked_validTif f t
  | invalid =>
    unfold invalidTif
    split
    · next htrunk =>
      dsimp only
      split
      · exact fun _ => ⟨nofun, rfl⟩
      · exact fun hr => absurd htrunk (h hr).1
    · next htrunk => exact fun _ => ⟨htrunk, rfl⟩
  | short => exact h

theorem huntsUnlocked_slot (ws : TrunkWords) (short order : List SlotEvent) (s : State) (h : HuntsUnlocked s.tif) :
    HuntsUnlocked (slotEnds ws short order s).tif := by
  refine keep_slotEnds (P := fun s => HuntsUnlocked s.tif) (fun new b ce order s hn hs => ?_) (fun _ _ h => h) ws short order s h
  exact huntsUnlocked_event.endPeriod b ce order s (fun _ _ _ _ _ _ => hn.huntsUnlocked hs)
    (fun _ hu => hu) (fun u hu => (tif_lamps huntsUnlocked_rest).alarmFlag _ u hu) hs

theorem huntsUnlocked_step : StepClosed fun s => HuntsUnlocked s.tif :=
  huntsUnlocked_event.stepClosed (huntsUnlocked_slot) {
    queue := fun _ _ h => h
    stop := fun _ _ _ h => h
    warmTick := fun _ _ h => h
    fresh := fun _ _ _ _ _ => ⟨nofun, rfl⟩
    device := fun _ _ h => h }

/-! ## The flag source -/

/-- The override's flag source is a given flag, read off the drive record. -/
def FlagIs (v : Drive → Bool) (s : State) : Prop := s.lmc.flagSource = v s.tif.drive

theorem flagIs_rest {v : Drive → Bool} : RestFree (FlagIs v) where
  scc := fun _ _ h => h
  hmx := fun _ _ h => h
  zou := fun _ _ h => h
  rce := fun _ _ h => h
  asq := fun _ _ h => h
  vpl := fun _ _ h => h
  tickFor := fun _ _ h => h
  downstream := fun _ _ h => h
  row := fun _ _ _ h => h

theorem flagIs_cache {v : Drive → Bool} : CacheClosed (FlagIs v) :=
  cacheClosed_of (fun _ _ _ h => h) (fun _ _ h => h) (fun _ _ h => h)

theorem flagIs_cth {v : Drive → Bool} : CthOps (FlagIs v) := cthOps_of fun _ _ h => h

theorem flagIs_lamps {v : Drive → Bool} : LampFree (FlagIs v) :=
  flagIs_rest.lamps flagIs_cache (fun _ _ hx h => hx.trans h) flagIs_cth.notice

theorem flagIs_ops {v : Drive → Bool} : OpsClosed (FlagIs v) :=
  flagIs_rest.ops flagIs_cache flagIs_lamps.ops (CacheFree.ops {
    toVoiceClosed := flagIs_rest.voices flagIs_cache
    ccc := fun _ _ _ h => h
    lock := fun _ _ _ h => h
    unlock := fun _ _ h => h
    cmp := fun _ _ h => h
    dev := fun _ _ h => h
    deferred := fun _ _ h => h }) flagIs_cth

theorem flagIs_event {v : Drive → Bool} : EventClosed (FlagIs v) where
  toOpsClosed := flagIs_ops
  toRouteSteps := flagIs_rest.steps flagIs_cth
  answered := answered_of flagIs_ops.own (flagIs_rest.steps flagIs_cth) (fun _ _ h => h)
  out := fun _ _ h => h

/-- After the alarm flag's change the flag source is the new flag. -/
theorem flagIs_alarmFlag (b : Bool) (s : State) : FlagIs (fun _ => b) (alarmFlag b s) :=
  flagIs_lamps.alarmFlag b s rfl

/-- What does not look at the frame's flag stands every event of a slot end but the flag's change. -/
theorem flagIs_slotEvent {old new : Tif} {b : Bool} (ce : ControlEvent) (waits : CueOwner → Bool) (e : SlotEvent)
    (he : e = .alarm → b = new.drive.alarm) (s : State) (h : FlagIs (fun _ => b) s) :
    FlagIs (fun _ => b) (slotEvent old new ce waits s e) :=
  (flagIs_event (v := fun _ => b)).slotEvent ce waits (fun _ hu => hu) e (fun ha u _ => he ha ▸ flagIs_alarmFlag _ u) s h

/-- The flag's change moves the flag source from the old flag to the new one. -/
theorem flagIs_change {old new : Tif} (ce : ControlEvent) (waits : CueOwner → Bool) (s : State)
    (h : FlagIs (fun _ => old.drive.alarm) s) :
    FlagIs (fun _ => new.drive.alarm) (slotEvent old new ce waits s .alarm) := by
  show FlagIs _ (if old.drive.alarm = new.drive.alarm then s else alarmFlag new.drive.alarm s)
  split
  · next heq => exact heq ▸ h
  · exact flagIs_alarmFlag _ s

/-- An order with the flag's change in it moves the flag source from the old flag to the new one. -/
theorem flagIs_fold {old new : Tif} (ce : ControlEvent) (waits : CueOwner → Bool) :
    ∀ (l : List SlotEvent) (s : State), SlotEvent.alarm ∈ l → FlagIs (fun _ => old.drive.alarm) s →
      FlagIs (fun _ => new.drive.alarm) (l.foldl (slotEvent old new ce waits) s)
  | [], _, hl, _ => nomatch hl
  | e :: l, s, hl, h => by
    by_cases he : e = .alarm
    · subst he
      exact keep_foldl (fun e t ht => flagIs_slotEvent ce waits e (fun _ => rfl) t ht) l _ (flagIs_change ce waits s h)
    · exact flagIs_fold ce waits l _ ((List.mem_cons.mp hl).resolve_left (Ne.symm he))
        (flagIs_slotEvent ce waits e (fun hc => absurd hc he) s h)

/-- Every event of an order, and every own event, is in the full order. -/
theorem mem_fullOrder {e : SlotEvent} {order : List SlotEvent} (h : e ∈ order ++ allEvents) : e ∈ fullOrder order := by
  have hsteps : ∀ (l acc : List SlotEvent), e ∈ acc ∨ e ∈ l →
      e ∈ l.foldl (fun acc e => if e.own && acc.contains e then acc else acc ++ [e]) acc := by
    intro l
    induction l with
    | nil => exact fun acc h => h.resolve_right (by simp)
    | cons x l ih =>
      intro acc h
      refine ih _ ?_
      dsimp only
      split
      · next hx =>
        simp only [Bool.and_eq_true, List.contains_iff_mem] at hx
        rcases h with h | h
        · exact .inl h
        · rcases List.mem_cons.mp h with rfl | h
          · exact .inl hx.2
          · exact .inr h
      · simp only [List.mem_append, List.mem_cons, List.not_mem_nil, or_false] at h ⊢
        tauto
  exact hsteps _ _ (.inr h)

/-- The frame's flag stands a period's events. -/
theorem alarm_endPeriod (new : Tif) (b : Bool) (ce : ControlEvent) (order : List SlotEvent) (s : State) :
    (endPeriod new b ce order s).tif.drive.alarm = new.drive.alarm := by
  have r : RestFree fun s => s.tif.drive.alarm = new.drive.alarm :=
    tif_rest (Q := fun t => t.drive.alarm = new.drive.alarm) (fun _ _ h => h) (fun _ _ h => h)
  have e := tif_event (Q := fun t => t.drive.alarm = new.drive.alarm) r
  exact e.settle _ (keep_foldl (fun x t ht => e.slotEvent ce _ (fun _ hu => hu) x
    (fun _ u hu => (tif_lamps (Q := fun t => t.drive.alarm = new.drive.alarm) r).alarmFlag _ u hu) t ht) _ _ rfl)

theorem flagIs_endPeriod (new : Tif) (b : Bool) (ce : ControlEvent) (order : List SlotEvent) (s : State)
    (h : FlagIs Drive.alarm s) : FlagIs Drive.alarm (endPeriod new b ce order s) := by
  have hplayed : FlagIs (fun _ => s.tif.drive.alarm) (playVoices (sendReturn new.counter b s)).1 :=
    keep_playVoices flagIs_ops.toVoiceClosed _ (flagIs_event.sendReturn _ _ s h)
  have hnew : FlagIs (fun _ => new.drive.alarm) (endPeriod new b ce order s) := by
    unfold endPeriod takeEvents
    dsimp only
    generalize playVoices (sendReturn new.counter b s) = played at hplayed ⊢
    refine (flagIs_ops (v := fun _ => new.drive.alarm)).settle _ ?_
    exact flagIs_fold (old := s.tif) ce _ _ _ (mem_fullOrder (by simp [allEvents])) hplayed
  exact hnew.trans (alarm_endPeriod new b ce order s).symm

theorem flagIs_slot (ws : TrunkWords) (short order : List SlotEvent) (s : State) (h : FlagIs Drive.alarm s) :
    FlagIs Drive.alarm (slotEnds ws short order s) :=
  keep_slotEnds (fun new b ce order s _ hs => flagIs_endPeriod new b ce order s hs) (fun _ _ h => h) ws short order s h

theorem flagIs_step : StepClosed (FlagIs Drive.alarm) :=
  flagIs_event.stepClosed (flagIs_slot) {
    queue := fun _ _ h => h
    stop := fun _ _ _ h => h
    warmTick := fun _ _ h => h
    fresh := fun _ _ _ _ => rfl
    device := fun _ _ h => h }

end Sys2Proof.Proofs
end

section
/-! PROOFS. The seats' volumes and the applied indexes at every step; the bounds put together. -/

namespace Sys2Proof.Proofs

open Sys2Proof Sys2Proof.Machine Sys2Proof.Laws

/-! ## Volumes -/

/-- Volumes and default volumes are at most 15 (R38, R51). -/
def VolumesHeld (s : State) : Prop := ∀ i, (s.scc.seats.get i).volume ≤ 15 ∧ (s.scc.seats.get i).defVolume ≤ 15

theorem volumesHeld_deck : DeckSide VolumesHeld where
  cth := fun _ _ h => h
  asq := fun _ _ h => h
  vpl := fun _ _ h => h
  ccc := fun _ _ h => h
  cmp := fun _ _ h => h
  lmc := fun _ _ h => h
  dev := fun _ _ h => h
  row := fun _ _ _ h => h
  duck := fun _ _ h => h

/-- A seat record with its volumes in range may be written. -/
theorem volumesHeld_setSeat {i : SeatNo} {x : Seat} {s : State} (hv : x.volume ≤ 15) (hd : x.defVolume ≤ 15)
    (h : VolumesHeld s) : VolumesHeld (setSeat i x s) := by
  intro j
  simp only [setSeat_scc, get_put]
  split
  · exact ⟨hv, hd⟩
  · exact h j

theorem decodeSeat_range {r : List Byte} {w : SeatWrite} (h : decodeSeat r = some w) :
    w.volume ≤ 15 ∧ w.defVolume ≤ 15 ∧ w.cap ≤ 24 := by
  unfold decodeSeat at h
  split at h
  · split at h
    · cases h
      exact ⟨Nat.min_le_left _ _, Nat.min_le_left _ _, Nat.min_le_left _ _⟩
    · cases h
  · cases h

theorem decodeSeatParams_volume {ps : List Byte} {p : SeatParams} (h : decodeSeatParams ps = some p) (v : Nat) (hv : v ≤ 15) :
    p.volume.getD v ≤ 15 := by
  unfold decodeSeatParams at h
  split at h
  · split at h
    · cases h
      dsimp only
      split
      · exact Nat.min_le_left _ _
      · exact hv
    · cases h
  · cases h

theorem volumesHeld_seats : SeatOps VolumesHeld where
  box := fun _ _ _ h => h
  awaited := fun _ _ h => h
  latch := fun _ _ h => h
  unlatch := fun s h i => by simpa using h i
  stopMark := fun i s h => volumesHeld_setSeat (h i).1 (h i).2 h
  plugIn := fun i s h => volumesHeld_setSeat (h i).2 (h i).2 h
  unplug := fun i s h => volumesHeld_setSeat (h i).1 (h i).2 h
  press := fun i _ _ _ s h => keep_ite (volumesHeld_setSeat (Nat.min_le_left _ _) (h i).2 h) h
  seat := fun ps s h => by
    unfold seatOp
    split
    · exact h
    · next p hp =>
      have hv := decodeSeatParams_volume hp _ (h p.seat).1
      refine volumesHeld_setSeat ?_ ?_ h <;> unfold applySeatParams <;> dsimp only <;> split
      · exact hv
      · exact hv
      · exact (h p.seat).2
      · exact (h p.seat).2
  store := fun i _ _ s hw h => by
    obtain ⟨hv, hd, _⟩ := decodeSeat_range hw
    exact volumesHeld_setSeat (s := s) hv hd h
  language := fun _ _ _ h => h
  curve := fun _ _ h => h
  tick := fun _ h => h

theorem volumesHeld_ops : OpsClosed VolumesHeld :=
  volumesHeld_deck.ops (zouOps_of fun _ _ h => h) volumesHeld_seats
    (routeLeaves_of (fun _ _ h => h) volumesHeld_deck.cthOps.notice).ops (fun _ _ h => h) (fun _ _ h => h)

theorem volumesHeld_event : EventClosed VolumesHeld :=
  volumesHeld_deck.event volumesHeld_ops (routeLeaves_of (fun _ _ h => h) volumesHeld_deck.cthOps.notice).steps (fun _ _ h => h)

theorem volumesHeld_step : StepClosed VolumesHeld :=
  volumesHeld_event.stepClosed (volumesHeld_event.slotEnds (fun _ _ h => h) (fun _ _ _ _ h => h) volumesHeld_deck.alarmFlag) {
    queue := fun _ _ h => h
    stop := fun _ _ _ h => h
    warmTick := fun _ _ h => h
    fresh := fun adr cause s _ i => by
      have e : (freshChip adr cause s).scc.seats.get i = Reset.seat i := reset_seat i
      simp [e, Reset.seat]
    device := fun _ _ h => h }

/-! ## Applied indexes -/

/-- Every applied index of a seat lies between its cap and mute, every cap is at most 24 (R38, R64). -/
def SeatGainsHeld (s : State) : Prop :=
  ∀ i, (s.scc.seats.get i).cap ≤ 24 ∧ (s.scc.seats.get i).cap ≤ (s.hmx.gains.get i).gc ∧ (s.hmx.gains.get i).gc ≤ 121 ∧
    (s.scc.seats.get i).cap ≤ (s.hmx.gains.get i).ga ∧ (s.hmx.gains.get i).ga ≤ 121

theorem seatGainsHeld_deck : DeckSide SeatGainsHeld where
  cth := fun _ _ h => h
  asq := fun _ _ h => h
  vpl := fun _ _ h => h
  ccc := fun _ _ h => h
  cmp := fun _ _ h => h
  lmc := fun _ _ h => h
  dev := fun _ _ h => h
  row := fun _ _ _ h => h
  duck := fun _ _ h => h

/-- A seat record of the cap that stood may be written. -/
theorem seatGainsHeld_setSeat {i : SeatNo} {x : Seat} {s : State} (hc : x.cap = (seatOf s i).cap) (h : SeatGainsHeld s) :
    SeatGainsHeld (setSeat i x s) := by
  intro j
  simp only [setSeat_scc, setSeat_hmx, get_put]
  split
  · next hj => subst hj; rw [hc]; exact h j
  · exact h j

theorem holdIndex_range {lo : Nat} (x : Int) (h : lo ≤ 24) : lo ≤ holdIndex lo x ∧ holdIndex lo x ≤ 121 := by
  unfold holdIndex Config.mute
  omega

/-- A ramp between two bounds of the index and of its target stays between them (R64). -/
theorem ramp_range {lo hi g t : Nat} (hg : lo ≤ g ∧ g ≤ hi) (ht : lo ≤ t ∧ t ≤ hi) : lo ≤ ramp g t ∧ ramp g t ≤ hi := by
  unfold ramp
  split <;> omega

theorem seatTargets_range {s : State} {i : SeatNo} (b : Nat) (h : (s.scc.seats.get i).cap ≤ 24) :
    ((s.scc.seats.get i).cap ≤ (seatTargets s b i).1 ∧ (seatTargets s b i).1 ≤ 121) ∧
      (s.scc.seats.get i).cap ≤ (seatTargets s b i).2 ∧ (seatTargets s b i).2 ≤ 121 :=
  ⟨holdIndex_range _ h, holdIndex_range _ h⟩

/-- A seat that is plugged in jumps to its targets (R66). -/
theorem seatGainsHeld_snapSeat (i : SeatNo) {s : State} (h : SeatGainsHeld s) : SeatGainsHeld (snapSeat i s) := by
  intro j
  obtain ⟨hcap, hgains⟩ := h j
  obtain ⟨⟨hc1, hc2⟩, ha1, ha2⟩ := seatTargets_range (s := s) s.hmx.boost hcap
  simp only [snapSeat, get_put]
  split
  · next hj => subst hj; exact ⟨hcap, hc1, hc2, ha1, ha2⟩
  · exact ⟨hcap, hgains⟩

/-- A record written lifts the applied indexes to its cap (R67). -/
theorem seatGainsHeld_storeSeat (i : SeatNo) {w : SeatWrite} {s : State} (hw : w.cap ≤ 24) (h : SeatGainsHeld s) :
    SeatGainsHeld (storeSeat i w s) := by
  intro j
  have hj := h j
  simp only [storeSeat, liftToCap, setSeat_scc, setSeat_hmx, adjust_eq, get_put, writeEnabled]
  split
  · next e =>
    subst e
    dsimp only
    omega
  · exact hj

theorem seatGainsHeld_tick {s : State} (h : SeatGainsHeld s) : SeatGainsHeld (tickHmx s) := by
  intro i
  obtain ⟨hcap, hc1, hc2, ha1, ha2⟩ := h i
  obtain ⟨hc, ha⟩ := seatTargets_range (s := s) (i := i) (speedBoost s.hmx.curve s.tif.drive.speed) hcap
  have hrc := ramp_range ⟨hc1, hc2⟩ hc
  have hra := ramp_range ⟨ha1, ha2⟩ ha
  simp only [tickHmx, get_ofFn]
  exact ⟨hcap, hrc.1, hrc.2, hra.1, hra.2⟩

theorem seatGainsHeld_seats : SeatOps SeatGainsHeld where
  box := fun _ _ _ h => h
  awaited := fun _ _ h => h
  latch := fun _ _ h => h
  unlatch := fun s h i => by simpa using h i
  stopMark := fun i s h => seatGainsHeld_setSeat rfl h
  plugIn := fun i s h => seatGainsHeld_snapSeat i (seatGainsHeld_setSeat rfl h)
  unplug := fun i s h => seatGainsHeld_setSeat rfl h
  press := fun i _ _ _ s h => keep_ite (seatGainsHeld_setSeat rfl h) h
  seat := fun ps s h => by
    unfold seatOp
    split
    · exact h
    · refine seatGainsHeld_setSeat ?_ h
      unfold applySeatParams
      dsimp only
      split <;> rfl
  store := fun i _ _ _ hw h => seatGainsHeld_storeSeat i (decodeSeat_range hw).2.2 h
  language := fun _ _ _ h => h
  curve := fun _ _ h => h
  tick := fun _ h => seatGainsHeld_tick h

theorem seatGainsHeld_ops : OpsClosed SeatGainsHeld :=
  seatGainsHeld_deck.ops (zouOps_of fun _ _ h => h) seatGainsHeld_seats
    (routeLeaves_of (fun _ _ h => h) seatGainsHeld_deck.cthOps.notice).ops (fun _ _ h => h) (fun _ _ h => h)

theorem seatGainsHeld_event : EventClosed SeatGainsHeld :=
  seatGainsHeld_deck.event seatGainsHeld_ops (routeLeaves_of (fun _ _ h => h) seatGainsHeld_deck.cthOps.notice).steps (fun _ _ h => h)

theorem seatGainsHeld_step : StepClosed SeatGainsHeld :=
  seatGainsHeld_event.stepClosed (seatGainsHeld_event.slotEnds (fun _ _ h => h) (fun _ _ _ _ h => h) seatGainsHeld_deck.alarmFlag) {
    queue := fun _ _ h => h
    stop := fun _ _ _ h => h
    warmTick := fun _ _ h => h
    fresh := fun _ _ _ _ => reset_gainsHeld.1
    device := fun _ _ h => h }

/-- Every applied index of a zone is at most mute (R83). -/
def ZoneGainsHeld (s : State) : Prop := ∀ z, (s.zou.zones.get z).gp ≤ 121 ∧ (s.zou.zones.get z).gs ≤ 121

theorem zoneGainsHeld_deck : DeckSide ZoneGainsHeld where
  cth := fun _ _ h => h
  asq := fun _ _ h => h
  vpl := fun _ _ h => h
  ccc := fun _ _ h => h
  cmp := fun _ _ h => h
  lmc := fun _ _ h => h
  dev := fun _ _ h => h
  row := fun _ _ _ h => h
  duck := fun _ _ h z => by simpa [duckChange] using h z

theorem zoneGainsHeld_zones : ZouOps ZoneGainsHeld where
  quiet := fun m b s h z => by
    simp only [setQuiet, get_ofFn]
    split <;> exact h z
  zone := fun z w s h y => by
    simp only [storeZone, adjust_eq, get_put]
    split
    · next e => subst e; exact h y
    · exact h y
  tick := fun s h z => by
    have hz := h z
    simp only [tickZou, get_mapTable, tickZone]
    exact ⟨(ramp_range ⟨Nat.zero_le _, hz.1⟩ (holdIndex_range _ (Nat.zero_le _))).2,
      (ramp_range ⟨Nat.zero_le _, hz.2⟩ (holdIndex_range _ (Nat.zero_le _))).2⟩

theorem zoneGainsHeld_ops : OpsClosed ZoneGainsHeld :=
  zoneGainsHeld_deck.ops zoneGainsHeld_zones (seatOps_of (fun _ _ h => h) (fun _ _ h => h))
    (routeLeaves_of (fun _ _ h => h) zoneGainsHeld_deck.cthOps.notice).ops (fun _ _ h => h) (fun _ _ h => h)

theorem zoneGainsHeld_event : EventClosed ZoneGainsHeld :=
  zoneGainsHeld_deck.event zoneGainsHeld_ops (routeLeaves_of (fun _ _ h => h) zoneGainsHeld_deck.cthOps.notice).steps (fun _ _ h => h)

theorem zoneGainsHeld_step : StepClosed ZoneGainsHeld :=
  zoneGainsHeld_event.stepClosed (zoneGainsHeld_event.slotEnds (fun _ _ h => h) (fun _ _ _ _ h => h) zoneGainsHeld_deck.alarmFlag) {
    queue := fun _ _ h => h
    stop := fun _ _ _ h => h
    warmTick := fun _ _ h => h
    fresh := fun _ _ _ _ => reset_gainsHeld.2
    device := fun _ _ h => h }

/-! ## The bounds put together -/

theorem bounded_iff (s : State) : Bounded s ↔ QueuesHeld 4 s ∧ LocksHeld s ∧ RouteHeld s ∧ HuntsUnlocked s.tif ∧ NoneDue s ∧
    FlagIs Drive.alarm s ∧ VolumesHeld s := by
  unfold Bounded QueuesHeld LocksHeld RouteHeld HuntsUnlocked NoneDue FlagIs VolumesHeld
  tauto

/-- Settles O56: each part of the bounds is kept by every command, block by block. -/
theorem boundsKept : Obligations.BoundsKept := by
  refine ⟨fun s t h hs => ?_, fun s t h hs => ⟨seatGainsHeld_step.step h.1 hs, zoneGainsHeld_step.step h.2 hs⟩⟩
  obtain ⟨hqueues, hlocks, hroute, hreceiver, hdue, hflag, hvolumes⟩ := (bounded_iff s).mp h
  exact (bounded_iff t).mpr ⟨queuesHeld_step.step hqueues hs, locksHeld_step.step hlocks hs, routeHeld_step.step hroute hs,
    huntsUnlocked_step.step hreceiver hs, noneDue_step.step hdue hs, flagIs_step.step hflag hs, volumesHeld_step.step hvolumes hs⟩

end Sys2Proof.Proofs
end

section
/-! PROOFS. The announcements at every step: ids and arrivals are apart, the queue is in order, the priorities of the current
announcement and the stack fall, and with none current nothing waits. -/

namespace Sys2Proof.Proofs

open Sys2Proof Sys2Proof.Machine Sys2Proof.Laws

/-! ## Ids and arrivals -/

/-- What tells announcements apart: id and arrival. -/
def keyOf (x : Announcement) : Nat × Nat := (x.id, x.arrival)

/-- Ids 1 to 255 and arrivals issued, no two of either equal. -/
def KeysApart (next : Nat) (l : List (Nat × Nat)) : Prop :=
  (∀ k ∈ l, 1 ≤ k.1 ∧ k.1 ≤ 255 ∧ k.2 < next) ∧ l.Pairwise fun a b => a.1 ≠ b.1 ∧ a.2 ≠ b.2

theorem KeysApart.subperm {n : Nat} {l l' : List (Nat × Nat)} (h : KeysApart n l) (hs : l'.Subperm l) : KeysApart n l' := by
  obtain ⟨m, hp, hm⟩ := hs
  obtain ⟨hrange, hapart⟩ := h
  exact ⟨fun k hk => hrange k (hm.mem (hp.mem_iff.mpr hk)),
    (hp.pairwise_iff fun ⟨h1, h2⟩ => ⟨h1.symm, h2.symm⟩).mp (hapart.sublist hm)⟩

/-- The live announcements of ASQ's record (R110). -/
def liveOf (a : Asq) : List Announcement := a.current.toList ++ a.stack ++ a.queue

def liveKeys (a : Asq) : List (Nat × Nat) := (liveOf a).map keyOf

/-- The announcements are kept, but for what waits with none current (R109, R110, R115, R116). -/
def AnnHeld (a : Asq) : Prop :=
  a.lastId ≤ 255 ∧ KeysApart a.nextArrival (liveKeys a) ∧ a.queue.length ≤ 16 ∧
    a.queue.Pairwise (fun x y => goesBefore x y = true) ∧
    (a.current.toList ++ a.stack).Pairwise (fun x y => y.priority < x.priority)

theorem announcementsKept_iff (s : State) : AnnouncementsKept s ↔
    AnnHeld s.asq ∧ (s.asq.current = none → s.asq.stack = [] ∧ s.asq.queue = []) := by
  have hkeys : KeysApart s.asq.nextArrival (liveKeys s.asq) ↔
      (∀ a ∈ liveAnnouncements s, 1 ≤ a.id ∧ a.id ≤ 255 ∧ a.arrival < s.asq.nextArrival) ∧
      (liveAnnouncements s).Pairwise (fun a b => a.id ≠ b.id ∧ a.arrival ≠ b.arrival) := by
    simp only [KeysApart, liveKeys, List.forall_mem_map, List.pairwise_map]
    rfl
  unfold AnnouncementsKept AnnHeld
  rw [hkeys]
  tauto

/-- An announcement may join: with it the ids and arrivals are apart. -/
def Joins (x : Announcement) (a : Asq) : Prop := KeysApart a.nextArrival (keyOf x :: liveKeys a)

/-- An announcement may become current. -/
def MayLead (x : Announcement) (a : Asq) : Prop := AnnHeld { a with current := some x, softCut := false }

/-- The announcements are kept, and one is current. -/
def Led (a : Asq) : Prop := AnnHeld a ∧ a.current ≠ none

theorem mayLead_of {x : Announcement} {a : Asq} (h : AnnHeld a) (hc : a.current = none) (hj : Joins x a)
    (hp : ∀ y ∈ a.stack, y.priority < x.priority) : MayLead x a := by
  obtain ⟨hlast, _, hroom, horder, hfalls⟩ := h
  refine ⟨hlast, ?_, hroom, horder, ?_⟩
  · simpa [Joins, liveKeys, liveOf, hc] using hj
  · rw [hc] at hfalls
    exact List.pairwise_cons.mpr ⟨hp, hfalls⟩

/-! ## The queue -/

theorem goesBefore_eq (x y : Announcement) : goesBefore x y = ahead x y := by
  unfold goesBefore ahead
  by_cases h : x.priority = y.priority <;> simp [h]

theorem ahead_total {x y : Announcement} (h : x.arrival ≠ y.arrival) (hn : ahead x y = false) : ahead y x = true := by
  simp only [ahead, Bool.or_eq_false_iff, decide_eq_false_iff_not, Bool.and_eq_false_iff, beq_eq_false_iff_ne, Bool.or_eq_true,
    decide_eq_true_eq, Bool.and_eq_true, beq_iff_eq] at hn ⊢
  omega

theorem ahead_trans {x y z : Announcement} (hxy : ahead x y = true) (hyz : ahead y z = true) : ahead x z = true := by
  simp only [ahead, Bool.or_eq_true, decide_eq_true_eq, Bool.and_eq_true, beq_iff_eq] at hxy hyz ⊢
  omega

/-- An insertion keeps the queue's order (R115). -/
theorem insertQueue_order {x : Announcement} {q : List Announcement} (h : q.Pairwise fun a b => goesBefore a b = true)
    (hx : ∀ y ∈ q, x.arrival ≠ y.arrival) : (insertQueue x q).Pairwise fun a b => goesBefore a b = true := by
  simp only [goesBefore_eq] at h ⊢
  induction q with
  | nil => simp [insertQueue]
  | cons y ys ih =>
    obtain ⟨hy, hys⟩ := List.pairwise_cons.mp h
    unfold insertQueue
    split
    · next hxy =>
      refine List.pairwise_cons.mpr ⟨fun z hz => ?_, h⟩
      rcases List.mem_cons.mp hz with rfl | hz
      · exact hxy
      · exact ahead_trans hxy (hy z hz)
    · next hxy =>
      refine List.pairwise_cons.mpr ⟨fun z hz => ?_, ih (fun z hz => hx z (List.mem_cons_of_mem _ hz)) hys⟩
      rcases mem_insertQueue.mp hz with rfl | hz
      · exact ahead_total (hx y (by simp)) (Bool.eq_false_iff.mpr hxy)
      · exact hy z hz

theorem insertQueue_perm (x : Announcement) (q : List Announcement) : (insertQueue x q).Perm (x :: q) := by
  induction q with
  | nil => exact .refl _
  | cons y ys ih =>
    unfold insertQueue
    split
    · exact .refl _
    · exact (ih.cons y).trans (.swap x y ys)

theorem keys_subperm {l l' : List Announcement} (h : l.Subperm l') : (l.map keyOf).Subperm (l'.map keyOf) := by
  obtain ⟨m, hp, hm⟩ := h
  exact ⟨m.map keyOf, hp.map _, hm.map _⟩

/-- What joins a queue is the queue's with the joining one, in order. -/
theorem joinQueue_keeps {x : Announcement} {q q' : List Announcement} {d : Option Announcement}
    (h : joinQueue x q = some (q', d)) (hq : q.Pairwise fun a b => goesBefore a b = true) (hx : ∀ y ∈ q, x.arrival ≠ y.arrival) :
    q'.Subperm (x :: q) ∧ q'.Pairwise fun a b => goesBefore a b = true := by
  rcases joinQueue_cases x q with ⟨_, he⟩ | ⟨_, rest, y, rfl, _, he⟩ | ⟨_, he⟩ <;> rw [he] at h <;> cases h
  · exact ⟨(insertQueue_perm x q).subperm, insertQueue_order hq hx⟩
  · have hsub : rest.Sublist (rest ++ [y]) := List.sublist_append_left _ _
    exact ⟨(insertQueue_perm x rest).subperm.trans (hsub.cons_cons x).subperm,
      insertQueue_order (hq.sublist hsub) fun z hz => hx z (hsub.mem hz)⟩

theorem Joins.arrival {x y : Announcement} {a : Asq} (h : Joins x a) (hy : y ∈ liveOf a) : x.arrival ≠ y.arrival :=
  ((List.pairwise_cons.mp h.2).1 (keyOf y) (List.mem_map_of_mem hy)).2

/-- Fewer announcements stay apart from one that may join. -/
theorem Joins.subperm {x : Announcement} {a b : Asq} (h : Joins x a) (hn : b.nextArrival = a.nextArrival)
    (hs : (liveKeys b).Subperm (liveKeys a)) : Joins x b := by
  unfold Joins
  rw [hn]
  exact KeysApart.subperm h ((List.subperm_cons _).mpr hs)

/-- An announcement that may join the queue leaves the announcements kept, as it was or with the queue joined. -/
theorem annHeld_enterQueue {x : Announcement} {o : AnnOutcome} {s : State} (h : AnnHeld s.asq) (hj : Joins x s.asq) :
    (enterQueue x o s).1.asq = s.asq ∨ ∃ q, (enterQueue x o s).1.asq = { s.asq with queue := q } ∧
      AnnHeld { s.asq with queue := q } ∧ (liveKeys { s.asq with queue := q }).Subperm (keyOf x :: liveKeys s.asq) := by
  obtain ⟨hlast, _, hroom, horder, hfalls⟩ := h
  unfold enterQueue
  split
  · exact .inl (by simp [endNotice])
  · next q d hjoin =>
    refine .inr ⟨q, by cases d <;> simp [endNotice], ?_⟩
    obtain ⟨hsub, hq⟩ := joinQueue_keeps hjoin horder fun y hy => hj.arrival (by simp [liveOf, hy])
    have hkeys : (liveKeys { s.asq with queue := q }).Subperm (keyOf x :: liveKeys s.asq) := by
      have hlive : (s.asq.current.toList ++ s.asq.stack ++ q).Subperm (x :: liveOf s.asq) :=
        ((List.subperm_append_left _).mpr hsub).trans List.perm_middle.subperm
      exact keys_subperm hlive
    exact ⟨⟨hlast, KeysApart.subperm hj hkeys, joinQueue_length hjoin hroom, hq, hfalls⟩, hkeys⟩

/-! ## A change of the current announcement -/

section

variable {Q : Asq → Prop} (hQ : ∀ r a, Q a → Q { a with report := r })

include hQ

/-- What does not look at the end report stands everything that a voice does. -/
theorem asq_voices : VoiceClosed fun s => Q s.asq where
  toCacheClosed := cacheClosed_of (fun _ _ _ h => h) (fun _ _ h => h) (fun _ _ h => h)
  vpl := fun _ _ h => h
  report := fun _ _ h => hQ _ _ h

omit hQ in
theorem asq_lamps : LampClosed fun s => Q s.asq := lampClosed_of fun _ _ _ h => h

theorem asq_makeCurrent (x : Announcement) (b : Bool) (s : State) (h : Q { s.asq with current := some x, softCut := false }) :
    Q (makeCurrent x b s).asq := by
  refine keep_lampAnnounceStart (P := fun s => Q s.asq) asq_lamps x _ ?_
  exact keep_ite (P := fun s => Q s.asq) (keep_startTalk (asq_voices hQ) x _ h)
    (keep_startVoices (P := fun s => Q s.asq) (asq_voices hQ) x _ b _ h)

/-- The end of a current announcement's voices and lamps. -/
theorem asq_silenced (c : Announcement) (s : State) (h : Q s.asq) : Q (lampAnnounceEnd c (stopVoices s)).asq :=
  keep_lampAnnounceEnd (P := fun s => Q s.asq) asq_lamps c _ (keep_stopVoices (P := fun s => Q s.asq) (asq_voices hQ) s h)

end

theorem mayLead_report (x : Announcement) (r : Option (Nat × Bool)) (a : Asq) (h : MayLead x a) :
    MayLead x { a with report := r } := h

theorem led_report (r : Option (Nat × Bool)) (a : Asq) (h : Led a) : Led { a with report := r } := h

theorem led_makeCurrent {x : Announcement} (b : Bool) {s : State} (h : MayLead x s.asq) : Led (makeCurrent x b s).asq :=
  asq_makeCurrent led_report x b s ⟨h, nofun⟩

theorem Led.kept {s : State} (h : Led s.asq) : AnnouncementsKept s :=
  (announcementsKept_iff s).mpr ⟨h.1, fun hc => absurd hc h.2⟩

/-- The current announcement, with what it stood with, leaves its place. -/
theorem AnnHeld.current {c : Announcement} {a : Asq} (h : AnnHeld a) (hc : a.current = some c) (r : Option (Nat × Bool)) :
    AnnHeld { a with current := none, softCut := false, report := r } ∧
      Joins c { a with current := none, softCut := false, report := r } ∧ ∀ y ∈ a.stack, y.priority < c.priority := by
  obtain ⟨hlast, hkeys, hroom, horder, hfalls⟩ := h
  have hk : KeysApart a.nextArrival (keyOf c :: (a.stack ++ a.queue).map keyOf) := by
    simpa [liveKeys, liveOf, hc] using hkeys
  rw [hc] at hfalls
  obtain ⟨hbelow, hstack⟩ := List.pairwise_cons.mp hfalls
  exact ⟨⟨hlast, hk.subperm (List.sublist_cons_self _ _).subperm, hroom, horder, hstack⟩, hk, hbelow⟩

@[simp] theorem endNotice_asq (a : Announcement) (o : AnnOutcome) (s : State) : (endNotice a o s).asq = s.asq :=
  pushNotice_asq _ s

/-- One announcement that leaves the current place lets one of a higher priority into it (R116, R117). -/
theorem mayLead_leaveCurrent {c x : Announcement} {s : State} (hc : s.asq.current = some c) (h : AnnHeld s.asq)
    (hj : Joins x s.asq) (hp : c.priority < x.priority) : MayLead x (leaveCurrent c s).asq := by
  obtain ⟨hheld, hjc, hbelow⟩ := h.current hc none
  have hstack : ∀ y ∈ s.asq.stack, y.priority < x.priority := fun y hy => (hbelow y hy).trans hp
  have hkeys : liveKeys s.asq = keyOf c :: (s.asq.stack ++ s.asq.queue).map keyOf := by simp [liveKeys, liveOf, hc]
  have hjx : KeysApart s.asq.nextArrival (keyOf x :: keyOf c :: (s.asq.stack ++ s.asq.queue).map keyOf) := hkeys ▸ hj
  have hjoins : Joins x { s.asq with current := none, softCut := false, report := none } :=
    hjx.subperm ((List.sublist_cons_self _ _).cons_cons _).subperm
  unfold leaveCurrent
  dsimp only
  split
  · rw [endNotice_asq]
    exact mayLead_of hheld rfl hjoins hstack
  · split
    · rcases annHeld_enterQueue (o := .displaced) (s := setAsq { s.asq with current := none, softCut := false, report := none } s)
        hheld hjc with he | ⟨q, he, hq, hsub⟩ <;> rw [he]
      · exact mayLead_of hheld rfl hjoins hstack
      · exact mayLead_of hq rfl (hjx.subperm ((List.subperm_cons _).mpr hsub)) hstack
    · obtain ⟨hlast, _, hroom, horder, hfalls⟩ := hheld
      refine ⟨hlast, hjx, hroom, horder, List.pairwise_cons.mpr ⟨fun y hy => ?_, List.pairwise_cons.mpr ⟨hbelow, hfalls⟩⟩⟩
      rcases List.mem_cons.mp hy with rfl | hy
      · exact hp
      · exact hstack y hy

theorem led_preempt {c x : Announcement} {s : State} (hc : s.asq.current = some c) (h : AnnHeld s.asq) (hj : Joins x s.asq)
    (hp : c.priority < x.priority) : Led (preempt c x s).asq :=
  led_makeCurrent false (asq_silenced (mayLead_report x) c _ (mayLead_leaveCurrent hc h hj hp))

/-! ## Ids (R110) -/

/-- The values after an id, one after another. -/
theorem idAfter_eq {id : Nat} (h : id ≤ 255) : idAfter id = id % 255 + 1 := by
  unfold idAfter
  split <;> omega

/-- The search for an id stops at the first free value after it, or at its bound. -/
theorem findId_spec (s : State) : ∀ (n id : Nat), 0 < n → id ≤ 255 → ∃ k < n, findId s n id = (id + k) % 255 + 1 ∧
    (∀ j < k, isLive s ((id + j) % 255 + 1) = true) ∧ (isLive s ((id + k) % 255 + 1) = false ∨ k + 1 = n)
  | n + 1, id, _, hid => by
    have hnext := idAfter_eq hid
    unfold findId
    split
    · next hlive =>
      rcases Nat.eq_zero_or_pos n with rfl | hn
      · exact ⟨0, by omega, by simp [findId, hnext], by omega, .inr rfl⟩
      · obtain ⟨k, hk, hfound, hbefore, hend⟩ := findId_spec s n (idAfter id) hn (idAfter_range id).2
        have hshift : ∀ j, (idAfter id + j) % 255 + 1 = (id + (j + 1)) % 255 + 1 := by omega
        rw [hshift] at hfound hend
        refine ⟨k + 1, by omega, hfound, fun j hj => ?_, hend.imp_right (by omega)⟩
        rcases Nat.eq_zero_or_pos j with rfl | hj0
        · simpa [hnext] using hlive
        · have hb := hbefore (j - 1) (by omega)
          rwa [hshift, Nat.sub_add_cancel hj0] at hb
    · next hfree => exact ⟨0, by omega, by simpa using hnext, by omega, .inl (by simpa [hnext] using hfree)⟩

theorem isLive_iff (s : State) (id : Nat) : isLive s id = true ↔ ∃ a ∈ liveAnnouncements s, a.id = id := by
  simp [isLive]

/-- At most 20 announcements are live: 16 queued, and one of each priority current or stacked. -/
theorem live_length {s : State} (h : AnnouncementsKept s) : (liveAnnouncements s).length ≤ 20 := by
  obtain ⟨_, _, _, hroom, _, hfalls, _⟩ := h
  have hnodup : ((s.asq.current.toList ++ s.asq.stack).map Announcement.priority).Nodup :=
    List.pairwise_map.mpr (hfalls.imp fun hlt => (ne_of_lt hlt).symm)
  have hfour := hnodup.length_le_card
  simp only [List.length_map, Fintype.card_fin] at hfour
  simp only [liveAnnouncements, List.length_append] at hfour ⊢
  omega

/-- Not every id is live. -/
theorem exists_free {s : State} (h : AnnouncementsKept s) : ∃ k < 255, isLive s ((s.asq.lastId + k) % 255 + 1) = false := by
  by_contra hall
  push Not at hall
  have hsub : (List.range 255).map (fun k => (s.asq.lastId + k) % 255 + 1) ⊆ (liveAnnouncements s).map Announcement.id := by
    intro id hid
    obtain ⟨k, hk, rfl⟩ := List.mem_map.mp hid
    have hlive := hall k (List.mem_range.mp hk)
    exact List.mem_map.mpr ((isLive_iff s _).mp (by simpa using hlive))
  have hnodup : ((List.range 255).map fun k => (s.asq.lastId + k) % 255 + 1).Nodup :=
    List.Nodup.map_on (fun i hi j hj he => by
      have hi := List.mem_range.mp hi
      have hj := List.mem_range.mp hj
      omega) List.nodup_range
  have hlen := (hnodup.subperm hsub).length_le
  have hlive := live_length h
  simp only [List.length_map, List.length_range] at hlen
  omega

/-- The id issued is the first free one (R110): free itself, with every value before it live. -/
theorem nextId_first {s : State} (h : AnnouncementsKept s) : ∃ k < 255, nextId s = (s.asq.lastId + k) % 255 + 1 ∧
    (∀ j < k, isLive s ((s.asq.lastId + j) % 255 + 1) = true) ∧ isLive s (nextId s) = false := by
  obtain ⟨k, hk, hfound, hbefore, hend⟩ := findId_spec s 255 s.asq.lastId (by decide) h.1
  obtain ⟨free, hfree, hnot⟩ := exists_free h
  refine ⟨k, hk, hfound, hbefore, ?_⟩
  have hle : k ≤ free := by
    by_contra hlt
    exact absurd (hbefore free (by omega)) (by simp [hnot])
  rw [nextId, hfound]
  rcases hend with hend | hend
  · exact hend
  · rwa [show k = free by omega]

theorem nextId_free {s : State} (h : AnnouncementsKept s) : ∀ a ∈ liveAnnouncements s, a.id ≠ nextId s := by
  obtain ⟨_, _, _, _, hfree⟩ := nextId_first h
  intro a ha he
  exact absurd ((isLive_iff s _).mpr ⟨a, ha, he⟩) (by simp [hfree])

/-- Settles O26: the id issued is k values after the last, every value before it is live, so a free one is as far or
further. -/
theorem freshIds : Obligations.FreshIds := by
  intro s h
  obtain ⟨k, hk, hid, hbefore, _⟩ := nextId_first h
  refine ⟨(nextId_range s).1, (nextId_range s).2, nextId_free h, fun x hx1 hx2 hx => ?_⟩
  have hlast : s.asq.lastId ≤ 255 := h.1
  by_contra hlt
  have hlive := hbefore ((x + 254 - s.asq.lastId) % 255) (by omega)
  obtain ⟨a, ha, he⟩ := (isLive_iff s _).mp hlive
  exact hx a ha (by omega)

/-! ## Placement -/

theorem kept_place {x : Announcement} {s : State} (h : AnnouncementsKept s) (hj : Joins x s.asq) :
    AnnouncementsKept (place x s).1 := by
  obtain ⟨hheld, hidle⟩ := (announcementsKept_iff s).mp h
  have hnotice : ∀ o, AnnouncementsKept (endNotice x o s) := fun o =>
    (announcementsKept_iff _).mpr (by rw [endNotice_asq]; exact ⟨hheld, hidle⟩)
  unfold place
  split
  · next hc =>
    split
    · exact hnotice _
    · dsimp only
      exact (led_makeCurrent false (mayLead_of hheld hc hj (by simp [(hidle hc).1]))).kept
  · next c hc =>
    split
    · next hp =>
      split
      · exact hnotice _
      · dsimp only
        exact (led_preempt hc hheld hj hp).kept
    · refine (announcementsKept_iff _).mpr ?_
      rcases annHeld_enterQueue (o := .refused) hheld hj with he | ⟨q, he, hq, _⟩ <;> rw [he]
      · exact ⟨hheld, hidle⟩
      · exact ⟨hq, fun hn => absurd (hc.symm.trans hn) (by simp)⟩

/-- A new announcement's id is free and its arrival the next. -/
structure IsNew (x : Announcement) (s : State) : Prop where
  id : x.id = nextId s
  arrival : x.arrival = s.asq.nextArrival

/-- An id issued is free, and its announcement may join. -/
theorem kept_issue {x : Announcement} {s : State} (h : AnnouncementsKept s) (hx : IsNew x s) :
    AnnouncementsKept (issue x.id s) ∧ Joins x (issue x.id s).asq := by
  have hfree := nextId_free h
  obtain ⟨⟨hlast, ⟨hrange, hapart⟩, hrest⟩, hidle⟩ := (announcementsKept_iff s).mp h
  have hnext : ∀ k ∈ liveKeys s.asq, 1 ≤ k.1 ∧ k.1 ≤ 255 ∧ k.2 < s.asq.nextArrival + 1 := fun k hk =>
    ⟨(hrange k hk).1, (hrange k hk).2.1, Nat.lt_succ_of_lt (hrange k hk).2.2⟩
  have hid : 1 ≤ x.id ∧ x.id ≤ 255 := hx.id ▸ nextId_range s
  have hlater : x.arrival < s.asq.nextArrival + 1 := by rw [hx.arrival]; exact Nat.lt_succ_self _
  have hjoins : Joins x (issue x.id s).asq := by
    refine ⟨fun k hk => ?_, List.pairwise_cons.mpr ⟨fun k hk => ?_, hapart⟩⟩
    · rcases List.mem_cons.mp hk with rfl | hk
      · exact ⟨hid.1, hid.2, hlater⟩
      · exact hnext k hk
    · obtain ⟨a, ha, rfl⟩ := List.mem_map.mp hk
      have harrival := (hrange _ hk).2.2
      exact ⟨fun he => hfree a ha (he.symm.trans hx.id), fun he => by
        have : a.arrival = s.asq.nextArrival := he.symm.trans hx.arrival
        simp only [keyOf] at harrival
        omega⟩
  exact ⟨(announcementsKept_iff _).mpr ⟨⟨hid.2, ⟨hnext, hapart⟩, hrest⟩, hidle⟩, hjoins⟩

theorem kept_placeNew {x : Announcement} {s : State} (h : AnnouncementsKept s) (hx : IsNew x s) :
    AnnouncementsKept (placeNew x s).1 :=
  kept_place (kept_issue h hx).1 (kept_issue h hx).2

theorem kept_pushNotice (n : Notice) {s : State} (h : AnnouncementsKept s) : AnnouncementsKept (pushNotice n s) := by
  simpa [announcementsKept_iff] using h

theorem kept_takeInternal {x : Announcement} {s : State} (h : AnnouncementsKept s) (hx : IsNew x s) :
    AnnouncementsKept (takeInternal x s) :=
  keep_ite (kept_pushNotice _ (kept_issue h hx).1) (kept_placeNew h hx)

/-! ## Ends and selection -/

/-- The stack's top may lead. -/
theorem mayLead_top {a : Asq} {x : Announcement} {rest : List Announcement} (h : AnnHeld a) (hc : a.current = none)
    (hs : a.stack = x :: rest) : AnnHeld { a with stack := rest } ∧ MayLead x { a with stack := rest } := by
  obtain ⟨hlast, hkeys, hroom, horder, hfalls⟩ := h
  have hk : KeysApart a.nextArrival (keyOf x :: (rest ++ a.queue).map keyOf) := by
    simpa [liveKeys, liveOf, hc, hs] using hkeys
  rw [hc, hs] at hfalls
  have hrest : AnnHeld { a with stack := rest } :=
    ⟨hlast, hk.subperm (by simpa [liveKeys, liveOf, hc] using (List.sublist_cons_self _ _).subperm), hroom, horder, by
      rw [hc]; exact (List.pairwise_cons.mp hfalls).2⟩
  exact ⟨hrest, mayLead_of hrest hc (by simpa [Joins, liveKeys, liveOf, hc] using hk) (List.pairwise_cons.mp hfalls).1⟩

/-- The queue's head may lead where its priority is above the stack's. -/
theorem mayLead_head {a : Asq} {x : Announcement} {rest : List Announcement} (h : AnnHeld a) (hc : a.current = none)
    (hq : a.queue = x :: rest) (hp : ∀ y ∈ a.stack, y.priority < x.priority) :
    AnnHeld { a with queue := rest } ∧ MayLead x { a with queue := rest } := by
  obtain ⟨hlast, hkeys, hroom, horder, hfalls⟩ := h
  have hk : KeysApart a.nextArrival (keyOf x :: (a.stack ++ rest).map keyOf) :=
    hkeys.subperm (by simpa [liveKeys, liveOf, hc, hq] using List.perm_middle.symm.subperm)
  rw [hq] at hroom horder
  have hrest : AnnHeld { a with queue := rest } :=
    ⟨hlast, hk.subperm (by simpa [liveKeys, liveOf, hc] using (List.sublist_cons_self _ _).subperm), by simp at hroom ⊢; omega,
      (List.pairwise_cons.mp horder).2, hfalls⟩
  exact ⟨hrest, mayLead_of hrest hc (by simpa [Joins, liveKeys, liveOf, hc] using hk) hp⟩

/-- A candidate of selection may lead, and what it leaves is kept (R118). -/
theorem mayLead_candidate {a : Asq} {x : Announcement} {b : Bool} {stack queue : List Announcement} (h : AnnHeld a)
    (hc : a.current = none) (hx : candidate a.stack a.queue = some (x, b, stack, queue)) :
    AnnHeld { a with stack := stack, queue := queue } ∧ MayLead x { a with stack := stack, queue := queue } ∧
      stack.length + queue.length + 1 = a.stack.length + a.queue.length := by
  have hfalls : a.stack.Pairwise fun x y => y.priority < x.priority := by
    obtain ⟨_, _, _, _, hfalls⟩ := h
    rwa [hc] at hfalls
  obtain ⟨phrases, current, st, q, lastId, softCut, nextArrival, report⟩ := a
  dsimp only at hc hx hfalls ⊢
  subst hc
  rcases st with _ | ⟨y, ys⟩ <;> rcases q with _ | ⟨z, zs⟩
  · cases hx
  · cases hx
    obtain ⟨hheld, hlead⟩ := mayLead_head h rfl rfl nofun
    exact ⟨hheld, hlead, by simp⟩
  · cases hx
    obtain ⟨hheld, hlead⟩ := mayLead_top h rfl rfl
    exact ⟨hheld, hlead, by simp⟩
  · by_cases hp : y.priority < z.priority
    · simp only [candidate, hp, if_true] at hx
      cases hx
      obtain ⟨hheld, hlead⟩ := mayLead_head h rfl rfl fun u hu => by
        rcases List.mem_cons.mp hu with rfl | hu
        · exact hp
        · exact ((List.pairwise_cons.mp hfalls).1 u hu).trans hp
      exact ⟨hheld, hlead, by simp; omega⟩
    · simp only [candidate, hp, if_false] at hx
      cases hx
      obtain ⟨hheld, hlead⟩ := mayLead_top h rfl rfl
      exact ⟨hheld, hlead, by simp; omega⟩

theorem candidate_none {stack queue : List Announcement} (h : candidate stack queue = none) : stack = [] ∧ queue = [] := by
  unfold candidate at h
  split at h
  · exact ⟨rfl, rfl⟩
  · cases h
  · cases h
  · split at h <;> cases h

/-- Selection from none current leaves one current or nothing waiting (R118). -/
theorem kept_select : ∀ (n : Nat) (s : State), AnnHeld s.asq → s.asq.current = none →
    s.asq.stack.length + s.asq.queue.length ≤ n → AnnouncementsKept (select n s)
  | 0, s, h, _, hn => by
    refine (announcementsKept_iff s).mpr ⟨h, fun _ => ?_⟩
    simpa using hn
  | n + 1, s, h, hc, hn => by
    unfold select
    split
    · next hnone => exact (announcementsKept_iff s).mpr ⟨h, fun _ => candidate_none hnone⟩
    · next a resumed stack queue hcand =>
      obtain ⟨hheld, hlead, hlen⟩ := mayLead_candidate h hc hcand
      dsimp only
      split
      · refine kept_select n _ ?_ ?_ ?_ <;> rw [endNotice_asq]
        · exact hheld
        · exact hc
        · show stack.length + queue.length ≤ n
          omega
      · exact (led_makeCurrent resumed hlead).kept

theorem kept_endCurrent {c : Announcement} (o : AnnOutcome) {s : State} (h : AnnHeld s.asq) (hc : s.asq.current = some c) :
    AnnouncementsKept (endCurrent c o s) := by
  have hheld := (h.current hc none).1
  have hvacant : (fun a : Asq => AnnHeld a ∧ a.current = none) (lampAnnounceEnd c (stopVoices (duckChange none (endNotice c o
      (setAsq { s.asq with current := none, softCut := false, report := none } s))))).asq := by
    refine asq_silenced (Q := fun a : Asq => AnnHeld a ∧ a.current = none) (fun _ _ h => h) c _ ?_
    show AnnHeld (endNotice _ _ _).asq ∧ (endNotice _ _ _).asq.current = none
    rw [endNotice_asq]
    exact ⟨hheld, rfl⟩
  unfold endCurrent selectNext
  dsimp only
  generalize lampAnnounceEnd c _ = t at hvacant ⊢
  exact kept_select _ t hvacant.1 hvacant.2 le_rfl

theorem takeFirst_sublist {α : Type} {p : α → Bool} {l r : List α} {x : α} (h : takeFirst p l = some (x, r)) : r.Sublist l := by
  cases hp : l.any p with
  | false => rw [takeFirst_none hp] at h; cases h
  | true =>
    obtain ⟨y, hy, _⟩ := takeFirst_some hp
    rw [hy] at h
    cases h
    exact List.eraseP_sublist

/-- Announcements that leave the stack or the queue leave the rest kept. -/
theorem kept_removed {s : State} {stack queue : List Announcement} (h : AnnouncementsKept s) (hs : stack.Sublist s.asq.stack)
    (hq : queue.Sublist s.asq.queue) : AnnouncementsKept (setAsq { s.asq with stack := stack, queue := queue } s) := by
  obtain ⟨⟨hlast, hkeys, hroom, horder, hfalls⟩, hidle⟩ := (announcementsKept_iff s).mp h
  have hstack : (s.asq.current.toList ++ stack).Sublist (s.asq.current.toList ++ s.asq.stack) := hs.append_left _
  refine (announcementsKept_iff _).mpr ⟨⟨hlast, hkeys.subperm ((hstack.append hq).map _).subperm, hq.length_le.trans hroom,
    horder.sublist hq, hfalls.sublist hstack⟩, fun hc => ?_⟩
  obtain ⟨hs0, hq0⟩ := hidle hc
  exact ⟨List.sublist_nil.mp (hs0 ▸ hs), List.sublist_nil.mp (hq0 ▸ hq)⟩

theorem kept_voices : VoiceClosed AnnouncementsKept where
  toCacheClosed := cacheClosed_of (fun _ _ _ h => h) (fun _ _ h => h) (fun _ _ h => h)
  vpl := fun _ _ h => h
  report := fun _ _ h => h

theorem kept_cut (id : Nat) (hard : Bool) {s : State} (h : AnnouncementsKept s) : AnnouncementsKept (cut id hard s).1 := by
  unfold cut
  split
  · next hq => exact kept_pushNotice _ (kept_removed h (.refl _) (takeFirst_sublist hq))
  · next _ hs => exact kept_pushNotice _ (kept_removed h (takeFirst_sublist hs) (.refl _))
  · exact h
  · next hc =>
    split
    · exact h
    · split
      · dsimp only
        exact kept_endCurrent _ ((announcementsKept_iff s).mp h).1 hc
      · split
        · exact h
        · exact keep_softCutVoices kept_voices _ h

theorem kept_takeReport {s : State} (h : AnnouncementsKept s) : AnnouncementsKept (takeReport s) := by
  have hdropped : AnnouncementsKept (setAsq { s.asq with report := none } s) := h
  unfold takeReport
  split
  · exact h
  · split
    · exact hdropped
    · next hc => exact keep_ite (kept_endCurrent _ ((announcementsKept_iff s).mp h).1 hc) hdropped

/-- A change of hang states leaves what tells announcements apart and orders them. -/
theorem kept_setHang (f : Hang → Hang) {s : State} (h : AnnouncementsKept s) : AnnouncementsKept (setHang f s) := by
  obtain ⟨⟨hlast, hkeys, hroom, horder, hfalls⟩, hidle⟩ := (announcementsKept_iff s).mp h
  have hkey : ∀ a : Announcement, keyOf (if isTalk a then { a with hang := f a.hang } else a) = keyOf a ∧
      (if isTalk a then { a with hang := f a.hang } else a).priority = a.priority ∧
      (if isTalk a then { a with hang := f a.hang } else a).arrival = a.arrival := fun a => by split <;> exact ⟨rfl, rfl, rfl⟩
  refine (announcementsKept_iff _).mpr ⟨⟨hlast, ?_, by simpa [setHang, setAsq] using hroom, ?_, ?_⟩, fun hc => ?_⟩
  · have e : liveKeys (setHang f s).asq = liveKeys s.asq := by
      rcases hcur : s.asq.current with _ | c <;>
        simp [liveKeys, liveOf, setHang, setAsq, hcur, Function.comp_def, hkey]
    rw [e]
    exact hkeys
  · simpa [setHang, setAsq, List.pairwise_map, goesBefore, hkey] using horder
  · rcases hcur : s.asq.current with _ | c <;> simpa [setHang, setAsq, hcur, hkey] using hfalls
  · obtain ⟨hs0, hq0⟩ := hidle (by simpa [setHang, setAsq] using hc)
    exact ⟨hs0, by simp [setHang, setAsq, hq0]⟩

/-- A TALK that leaves the queue. -/
theorem kept_hangQueued {s : State} (h : AnnouncementsKept s) : AnnouncementsKept (match takeFirst hangDue s.asq.queue with
    | none => s
    | some (a, q) => endNotice a .lapsed (setAsq { s.asq with queue := q } s)) := by
  split
  · exact h
  · next hq => exact kept_pushNotice _ (kept_removed h (.refl _) (takeFirst_sublist hq))

theorem kept_hangExpires {s : State} (h : AnnouncementsKept s) : AnnouncementsKept (hangExpires s) := by
  unfold hangExpires
  split
  · next hc => exact keep_ite (kept_endCurrent _ ((announcementsKept_iff s).mp h).1 hc) (kept_hangQueued h)
  · exact kept_hangQueued h

theorem kept_talkRise {s : State} (h : AnnouncementsKept s) : AnnouncementsKept (talkRise s) :=
  keep_ite (kept_setHang _ h) (kept_placeNew h ⟨rfl, rfl⟩)

theorem kept_announceOp (ps : List Byte) {s : State} (h : AnnouncementsKept s) : AnnouncementsKept (announceOp ps s).1 := by
  unfold announceOp
  split
  · exact h
  · split
    · exact h
    · exact kept_placeNew h ⟨rfl, rfl⟩

theorem kept_deckReset {s : State} (h : AnnouncementsKept s) : AnnouncementsKept (deckResetAsq s) := by
  obtain ⟨hlast, _⟩ := h
  exact (announcementsKept_iff _).mpr ⟨⟨hlast, ⟨nofun, .nil⟩, Nat.zero_le _, .nil, .nil⟩, fun _ => ⟨rfl, rfl⟩⟩

theorem kept_asq : AsqOps AnnouncementsKept where
  internal := fun _ _ _ _ _ _ _ _ h => kept_takeInternal h ⟨rfl, rfl⟩
  announce := fun ps _ h => kept_announceOp ps h
  cut := fun id b _ h => kept_cut id b h
  rise := fun _ h => kept_talkRise h
  fall := fun _ h => kept_hangExpires (kept_setHang _ h)
  hang := fun _ h => kept_hangExpires h
  report := fun _ h => kept_takeReport h
  tick := fun _ h => kept_setHang _ h
  phrase := fun _ _ _ h => h
  reset := fun _ h => kept_deckReset h

/-! ## Every step -/

theorem kept_cthOps : CthOps AnnouncementsKept := cthOps_of fun _ _ h => h

theorem kept_lamps : LampFree AnnouncementsKept where
  lmc := fun _ _ _ h => h
  notice := kept_cthOps.notice
  internal := kept_asq.internal
  row := fun _ _ _ h => h

theorem kept_cacheFree : CacheFree AnnouncementsKept where
  toVoiceClosed := kept_voices
  ccc := fun _ _ _ h => h
  lock := fun _ _ _ h => h
  unlock := fun _ _ h => h
  cmp := fun _ _ h => h
  dev := fun _ _ h => h
  deferred := fun _ _ h => h

theorem kept_route : RouteLeaves (fun _ => True) AnnouncementsKept := routeLeaves_of (fun _ _ h => h) kept_cthOps.notice

theorem kept_ops : OpsClosed AnnouncementsKept where
  toVoiceClosed := kept_voices
  asqOps := kept_asq
  zouOps := zouOps_of fun _ _ h => h
  seatOps := seatOps_of (fun _ _ h => h) (fun _ _ h => h)
  routeOps := kept_route.ops
  lmcOps := kept_lamps.ops
  cacheOps := kept_cacheFree.ops
  cthOps := kept_cthOps
  tickFor := fun _ _ h => h
  downstream := fun _ _ h => h

theorem kept_event : EventClosed AnnouncementsKept where
  toOpsClosed := kept_ops
  toRouteSteps := kept_route.steps
  answered := answered_of kept_ops.own kept_route.steps (fun _ _ h => h)
  out := fun _ _ h => h

theorem kept_step : StepClosed AnnouncementsKept :=
  kept_event.stepClosed (kept_event.slotEnds (fun _ _ h => h) (fun _ _ _ _ h => h) (fun b s h => kept_lamps.alarmFlag b s h)) {
    queue := fun _ _ h => h
    stop := fun _ _ _ h => h
    warmTick := fun _ _ h => h
    fresh := fun _ _ _ _ => reset_announcementsKept
    device := fun _ _ h => h }

/-- Settles O59: what ASQ's record holds is kept by ASQ's operations, and no other block writes it. -/
theorem announcementsStayKept : Obligations.AnnouncementsStayKept := fun _ _ h hs => kept_step.step h hs

end Sys2Proof.Proofs
end

section
/-! PROOFS. The cache's sectors, the fetch queue and the clip memory at every step. -/

namespace Sys2Proof.Proofs

open Sys2Proof Sys2Proof.Machine Sys2Proof.Laws

variable {P : State → Prop}

theorem keep_foldl_mem {α : Type} {f : State → α → State} : ∀ (l : List α) (_ : ∀ a ∈ l, ∀ s, P s → P (f s a)) (s : State),
    P s → P (l.foldl f s)
  | [], _, _, h => h
  | a :: l, hf, s, h =>
    keep_foldl_mem l (fun b hb => hf b (List.mem_cons_of_mem _ hb)) _ (hf a (by simp) s h)

/-! ## The changes of the cache -/

/-- Kept by each change that a voice, a request or the port makes of the cache, by every change of the maintenance operation, by
a change of the device that leaves its bytes in canonical form, and by a deferred reply. -/
structure CacheLeaves (P : State → Prop) : Prop where
  request : ∀ v k u s, P s → P (request v k u s)
  ceaseWait : ∀ v s, P s → P (ceaseWait v s)
  preload : ∀ k s, P s → P (preload s k)
  unlock : ∀ ks s, P s → P (unlockSectors ks s)
  empty : ∀ s, P s → P { s with ccc := { s.ccc with queue := [] } }
  lru : ∀ l s, P s → P { s with ccc := { s.ccc with lru := l } }
  locks : ∀ l s, P s → P { s with ccc := { s.ccc with locks := l } }
  clip : ∀ d s, P s → P { s with ccc := { s.ccc with directory := d } }
  drop : ∀ i s, (∀ k, lineOf s i ≠ .filling k) → P s → P (setLine i .invalid s)
  fetch : ∀ e i s, e ∈ s.ccc.queue → s.cmp.fetch = none → P s → P (startFetch e.sector i s)
  filled : ∀ f data draws s, s.cmp.fetch = some f → (s.dev.bytes.wf = true → data.wf = true) → P s → P { s with
    ccc := { s.ccc with
      lines := put s.ccc.lines f.line (.valid f.sector data), lru := s.ccc.lru.filter (· != f.line) ++ [f.line] },
    cmp := { s.cmp with fetch := none }, dev := { s.dev with draws := draws } }
  maint : ∀ x s, P s → P { s with cmp := { s.cmp with maint := x } }
  dev : ∀ d s, (s.dev.bytes.wf = true → d.bytes.wf = true) → P s → P { s with dev := d }
  deferred : ∀ p s, P s → P (deferredReply p s)

namespace CacheLeaves

/-- An operation sent to the memory. -/
theorem send (c : CacheLeaves P) (x : Option Maint) (op : MaintOp) (s : State) (h : P s) :
    P { s with cmp := { s.cmp with maint := x }, dev := s.dev.start op } :=
  c.dev (s.dev.start op) { s with cmp := { s.cmp with maint := x } } (fun hb => by simpa using hb) (c.maint x s h)

theorem arbiter (c : CacheLeaves P) (s : State) (h : P s) : P (arbiter s) := by
  rcases arbiter_cases s with e | ⟨hp, x, i, hx, _, e⟩ | ⟨_, m, _, _, ⟨_, e⟩ | ⟨_, e⟩⟩ <;> rw [e]
  · exact h
  · exact c.fetch x i s hx (portState_ready.mp hp).1 h
  · exact c.maint _ s h
  · exact c.send _ _ s h

theorem cache (c : CacheLeaves P) : CacheClosed P where
  request := c.request
  touch := fun k s h => by
    unfold touch
    split
    · exact h
    · exact c.lru _ s h
  ceaseWait := c.ceaseWait
  arbiter := c.arbiter

theorem dropLine (c : CacheLeaves P) (i : LineNo) (s : State) (hi : ∀ k, lineOf s i ≠ .filling k) (h : P s) :
    P (dropLine s i) :=
  c.drop i _ hi (c.lru _ s h)

theorem dropLine_lineOf (s : State) (i j : LineNo) : lineOf (Machine.dropLine s i) j = if j = i then .invalid else lineOf s j := by
  simp only [lineOf, Machine.dropLine, setLine, get_put]

/-- The flushed sectors were VALID, so none is being filled. -/
theorem flush (c : CacheLeaves P) (s : State) (h : P s) : P (cacheFlushOp s).1 := by
  have hall : P ((allLines.filter (flushable s)).foldl Machine.dropLine s) ∧
      ∀ j k, lineOf ((allLines.filter (flushable s)).foldl Machine.dropLine s) j = .filling k → lineOf s j = .filling k := by
    refine keep_foldl_mem (P := fun t => P t ∧ ∀ j k, lineOf t j = .filling k → lineOf s j = .filling k) _
      (fun i hi t ht => ?_) s ⟨h, fun _ _ hk => hk⟩
    have hvalid := (List.mem_filter.mp hi).2
    refine ⟨c.dropLine i t (fun k hk => ?_) ht.1, fun j k hk => ?_⟩
    · simp [flushable, ht.2 i k hk] at hvalid
    · rw [dropLine_lineOf] at hk
      split at hk
      · cases hk
      · exact ht.2 j k hk
  exact c.arbiter _ hall.1

theorem invalidateTag (c : CacheLeaves P) (v : VoiceClosed P) (k : Nat) (s : State) (h : P s) : P (invalidateTag k s) := by
  unfold Machine.invalidateTag
  split
  · exact h
  · next i hi =>
    have hvalid : ∀ n, lineOf s i ≠ .filling n := fun n hn => by
      have := List.find?_some hi
      simp [hn, Line.validAs] at this
    have h1 : P (allVoices.foldl (sectorInvalid k) (Machine.dropLine s i)) :=
      keep_foldl (fun w s hs => keep_sectorInvalid v k w s hs) _ _ (c.dropLine i s hvalid h)
    exact keep_ite (c.preload k _ h1) h1

theorem endMaint (c : CacheLeaves P) (v : VoiceClosed P) (op : MaintOp) (p : List Byte) (s : State) (h : P s) :
    P (endMaint op p s) := by
  unfold Machine.endMaint
  dsimp only
  refine c.arbiter _ ?_
  split
  · exact c.invalidateTag v _ _ (c.deferred _ _ (c.maint _ s h))
  · exact c.deferred _ _ (c.maint _ s h)

theorem acceptMaint (c : CacheLeaves P) (op : MaintOp) (s : State) (h : P s) : P (acceptMaint op s).1 := by
  unfold Machine.acceptMaint
  split
  · exact h
  · exact c.arbiter _ (c.maint _ s h)

theorem fetchCompletes (c : CacheLeaves P) (v : VoiceClosed P) (s : State) (h : P s) : P (fetchCompletes s) := by
  unfold Machine.fetchCompletes
  split
  · exact h
  · next f hf =>
    refine c.arbiter _ (keep_foldl (fun w t ht => keep_tellValid v f.sector w t ht) _ _ (c.filled f _ _ s hf (fun hb => ?_) h))
    split
    · exact free_wf _ _ rfl
    · exact sector_wf _ hb

theorem finishDevice (c : CacheLeaves P) (s : State) (h : P s) : P (finishDevice s) := c.dev _ s finish_wf h

theorem memoryReady (c : CacheLeaves P) (v : VoiceClosed P) (s : State) (h : P s) : P (memoryReady s) := by
  have hd := c.finishDevice s h
  unfold Machine.memoryReady
  dsimp only
  split
  · exact hd
  · split
    · exact hd
    · exact c.send _ _ _ hd
    · exact c.endMaint v _ _ _ hd

theorem maintenanceTimesOut (c : CacheLeaves P) (v : VoiceClosed P) (s : State) (h : P s) : P (maintenanceTimesOut s) := by
  unfold Machine.maintenanceTimesOut
  split
  · exact h
  · exact keep_ite h (c.endMaint v _ _ _ (keep_ite (c.dev _ s (fun hb => by simpa using hb) h) h))

theorem ops (c : CacheLeaves P) (v : VoiceClosed P) : CacheOps P where
  clip := fun _ _ s h => c.clip _ s h
  lock := fun f l s h => by
    unfold clipLockOp
    split
    · exact h
    · split
      · exact h
      · exact c.arbiter _ (keep_foldl (fun k t ht => c.preload k t ht) _ _ (c.locks _ s h))
  unlock := fun p f l s h => by
    unfold clipUnlockOp
    split
    · exact c.arbiter _ (c.unlock _ s h)
    · split
      · exact h
      · exact c.arbiter _ (c.unlock _ s h)
  flush := c.flush
  erase := fun _ s h => by
    unfold clipEraseOp
    split
    · exact h
    · exact c.acceptMaint _ s h
  program := fun _ _ s h => by
    unfold clipProgramOp
    split
    · exact h
    · exact c.acceptMaint _ s h
  read := fun _ _ s h => by
    unfold clipReadOp
    split
    · exact h
    · exact c.acceptMaint _ s h
  complete := c.fetchCompletes v
  ready := c.memoryReady v
  timeout := c.maintenanceTimesOut v
  tick := fun s h => by
    unfold tickCmp
    split
    · exact h
    · exact keep_ite h (c.maint _ s h)
  reset := fun s _ h => c.arbiter _ (keep_foldl (fun k t ht => c.preload k t ht) _ _ (c.maint _ _ (c.empty s h)))

end CacheLeaves

/-- A property of the cache, the port and the clip memory is kept by every event. -/
theorem cacheEvent (r : RestFree P) (c : CacheLeaves P) (cth : ∀ x s, P s → P { s with cth := x })
    (lmc : ∀ x s, P s → P { s with lmc := x }) (out : ∀ x s, P s → P { s with out := x }) : EventClosed P := by
  have hops : OpsClosed P := r.ops c.cache (r.lamps c.cache (fun x s _ => lmc x s) (cthOps_of cth).notice).ops
    (c.ops (r.voices c.cache)) (cthOps_of cth)
  exact { toOpsClosed := hops, toRouteSteps := r.steps (cthOps_of cth)
          answered := answered_of hops.own (r.steps (cthOps_of cth)) cth, out := out }

theorem cacheSlots (r : RestFree P) (c : CacheLeaves P) (cth : ∀ x s, P s → P { s with cth := x })
    (lmc : ∀ x s, P s → P { s with lmc := x }) (out : ∀ x s, P s → P { s with out := x }) (tif : ∀ x s, P s → P { s with tif := x }) (ws : TrunkWords)
    (short order : List SlotEvent) (s : State) (h : P s) : P (slotEnds ws short order s) :=
  r.slots (cacheEvent r c cth lmc out) tif
    (fun b u hu => (r.lamps c.cache (fun x s _ => lmc x s) (cthOps_of cth).notice).alarmFlag b u (lmc _ u hu)) ws short order s h

/-! ## The clip memory and its copies -/

theorem memoryKept_rest : RestFree MemoryKept where
  scc := fun _ _ h => h
  hmx := fun _ _ h => h
  zou := fun _ _ h => h
  rce := fun _ _ h => h
  asq := fun _ _ h => h
  vpl := fun _ _ h => h
  tickFor := fun _ _ h => h
  downstream := fun _ _ h => h
  row := fun _ _ _ h => h

/-- A line replaced by one whose copy, where it has one, is in canonical form. -/
theorem memoryKept_line {lines : Vector Line 32} {i : LineNo} {x : Line} (hx : ∀ k data, x = .valid k data → Memory.wf data = true)
    (h : ∀ i k data, lines.get i = .valid k data → Memory.wf data = true) (j : LineNo) (k : Nat) (data : Memory)
    (hj : (put lines i x).get j = .valid k data) : Memory.wf data = true := by
  rw [get_put] at hj
  split at hj
  · exact hx k data hj
  · exact h j k data hj

theorem memoryKept_leaves : CacheLeaves MemoryKept where
  request := fun _ _ _ _ h => keep_ite h (keep_ite h h)
  ceaseWait := fun _ _ h => h
  preload := fun _ _ h => keep_ite h h
  unlock := fun _ _ h => h
  empty := fun _ h => h
  lru := fun _ _ h => h
  locks := fun _ _ h => h
  clip := fun _ _ h => h
  drop := fun _ _ _ h => ⟨h.1, memoryKept_line (fun _ _ he => nomatch he) h.2⟩
  fetch := fun _ _ _ _ _ h => ⟨h.1, memoryKept_line (fun _ _ he => nomatch he) h.2⟩
  filled := fun _ _ _ _ _ hdata h => ⟨h.1, memoryKept_line (fun _ _ he => by cases he; exact hdata h.1) h.2⟩
  maint := fun _ _ h => h
  dev := fun _ _ hd h => ⟨hd h.1, h.2⟩
  deferred := fun _ _ h => h

/-! ## The sectors -/

theorem cacheKept_rest : RestFree CacheKept where
  scc := fun _ _ h => h
  hmx := fun _ _ h => h
  zou := fun _ _ h => h
  rce := fun _ _ h => h
  asq := fun _ _ h => h
  vpl := fun _ _ h => h
  tickFor := fun _ _ h => h
  downstream := fun _ _ h => h
  row := fun _ _ _ h => h

/-- No tag stands twice. -/
def TagsApart (lines : Vector Line 32) : Prop :=
  ∀ i j k, (lines.get i).tag = some k → (lines.get j).tag = some k → i = j

/-- The FILLING sector is the fetch's. -/
def FillsFetched (lines : Vector Line 32) (fetch : Option Fetch) : Prop :=
  ∀ i k, lines.get i = .filling k ↔ ∃ f, fetch = some f ∧ f.line = i ∧ f.sector = k

/-- The fetch queue names each sector once and none that a line holds. -/
def QueueApart (lines : Vector Line 32) (sectors : List Nat) : Prop :=
  sectors.Nodup ∧ ∀ k ∈ sectors, ∀ i, (lines.get i).tag ≠ some k

theorem cacheKept_iff (s : State) : CacheKept s ↔ (s.power.running = true →
    TagsApart s.ccc.lines ∧ FillsFetched s.ccc.lines s.cmp.fetch ∧ QueueApart s.ccc.lines (s.ccc.queue.map FetchEntry.sector)) := by
  simp [CacheKept, TagsApart, FillsFetched, QueueApart]

theorem isCached_iff (s : State) (k : Nat) : isCached s k = true ↔ ∃ i, (s.ccc.lines.get i).tag = some k := by
  simp [isCached, lineFor, lineOf, allLines]

theorem isQueued_iff (s : State) (k : Nat) : isQueued s k = true ↔ k ∈ s.ccc.queue.map FetchEntry.sector := by
  simp [isQueued]

theorem QueueApart.sublist {lines : Vector Line 32} {l l' : List Nat} (h : QueueApart lines l) (hs : l'.Sublist l) :
    QueueApart lines l' :=
  ⟨h.1.sublist hs, fun k hk => h.2 k (hs.mem hk)⟩

/-- A sector neither cached nor queued may join the queue. -/
theorem cacheKept_queued {s : State} {e : FetchEntry} (hc : isCached s e.sector = false) (hq : isQueued s e.sector = false)
    (h : CacheKept s) : CacheKept { s with ccc := { s.ccc with queue := s.ccc.queue ++ [e] } } := by
  refine (cacheKept_iff _).mpr fun hr => ?_
  obtain ⟨htags, hfills, hnodup, hfree⟩ := (cacheKept_iff s).mp h hr
  have hnew : e.sector ∉ s.ccc.queue.map FetchEntry.sector := fun hm => by
    rw [(isQueued_iff s _).mpr hm] at hq
    cases hq
  have hgone : ∀ i, (s.ccc.lines.get i).tag ≠ some e.sector := fun i hi => by
    rw [(isCached_iff s _).mpr ⟨i, hi⟩] at hc
    cases hc
  refine ⟨htags, hfills, ?_⟩
  rw [List.map_append]
  refine ⟨hnodup.append (by simp) (by simpa using hnew), fun k hk => ?_⟩
  rcases List.mem_append.mp hk with hk | hk
  · exact hfree k hk
  · simp at hk
    exact hk ▸ hgone

/-- A queue whose sectors are of those that stood, in their order. -/
theorem cacheKept_queue {s : State} {q : List FetchEntry}
    (hs : (q.map FetchEntry.sector).Sublist (s.ccc.queue.map FetchEntry.sector)) (h : CacheKept s) :
    CacheKept { s with ccc := { s.ccc with queue := q } } := by
  refine (cacheKept_iff _).mpr fun hr => ?_
  obtain ⟨htags, hfills, hqueue⟩ := (cacheKept_iff s).mp h hr
  exact ⟨htags, hfills, hqueue.sublist hs⟩

theorem cacheKept_request (v : VoiceNo) (k u : Nat) (s : State) (h : CacheKept s) : CacheKept (request v k u s) := by
  unfold request
  split
  · exact h
  · next hc =>
    split
    · refine cacheKept_queue ?_ h
      have e : (s.ccc.queue.map fun e => if e.sector = k then mergeEntry v u e else e).map FetchEntry.sector =
          s.ccc.queue.map FetchEntry.sector := by
        simp only [List.map_map]
        exact List.map_congr_left fun e _ => by simp only [Function.comp]; split <;> rfl
      rw [e]
    · next hq => exact cacheKept_queued (e := ⟨k, u, [v]⟩) (Bool.eq_false_iff.mpr hc) (Bool.eq_false_iff.mpr hq) h

theorem cacheKept_preload (k : Nat) (s : State) (h : CacheKept s) : CacheKept (preload s k) := by
  unfold preload
  split
  · exact h
  · next hn =>
    simp only [Bool.or_eq_true, not_or, Bool.not_eq_true] at hn
    exact cacheKept_queued (e := ⟨k, 0, []⟩) hn.1 hn.2 h

theorem filterMap_sectors_sublist {f : FetchEntry → Option FetchEntry} (hf : ∀ e x, f e = some x → x.sector = e.sector)
    (q : List FetchEntry) : ((q.filterMap f).map FetchEntry.sector).Sublist (q.map FetchEntry.sector) := by
  induction q with
  | nil => exact .refl _
  | cons e q ih =>
    cases hx : f e with
    | none => simpa [hx] using ih.cons _
    | some x => simpa [hx, hf e x hx] using ih

theorem cacheKept_ceaseWait (v : VoiceNo) (s : State) (h : CacheKept s) : CacheKept (ceaseWait v s) := by
  refine cacheKept_queue (filterMap_sectors_sublist (fun e x hx => ?_) _) h
  dsimp only at hx
  split at hx
  · split at hx
    · cases hx
    · cases hx; rfl
  · cases hx; rfl

theorem tag_put (lines : Vector Line 32) (i j : LineNo) (x : Line) :
    ((put lines i x).get j).tag = if j = i then x.tag else (lines.get j).tag := by
  rw [get_put]
  split <;> rfl

/-- A line that is not being filled is dropped. -/
theorem cacheKept_drop (i : LineNo) (s : State) (hi : ∀ k, lineOf s i ≠ .filling k) (h : CacheKept s) :
    CacheKept (setLine i .invalid s) := by
  refine (cacheKept_iff _).mpr fun hr => ?_
  obtain ⟨htags, hfills, hnodup, hfree⟩ := (cacheKept_iff s).mp h hr
  have htag : ∀ j k, ((put s.ccc.lines i .invalid).get j).tag = some k → (s.ccc.lines.get j).tag = some k := fun j k hj => by
    rw [tag_put] at hj
    split at hj
    · cases hj
    · exact hj
  have hfills' : FillsFetched (put s.ccc.lines i .invalid) s.cmp.fetch := fun j k => by
    rw [← hfills j k, get_put]
    split
    · next e => subst e; exact ⟨nofun, fun hc => absurd hc (hi k)⟩
    · rfl
  exact ⟨fun a b k ha hb => htags a b k (htag a k ha) (htag b k hb), hfills', hnodup,
    fun k hk j hj => hfree k hk j (htag j k hj)⟩

/-- A fetch starts into a line with none in progress: no line was being filled. -/
theorem cacheKept_fetch (e : FetchEntry) (i : LineNo) (s : State) (he : e ∈ s.ccc.queue) (hf : s.cmp.fetch = none)
    (h : CacheKept s) : CacheKept (startFetch e.sector i s) := by
  refine (cacheKept_iff _).mpr fun hr => ?_
  obtain ⟨htags, hfills, hnodup, hfree⟩ := (cacheKept_iff s).mp h hr
  have hgone : ∀ j, (s.ccc.lines.get j).tag ≠ some e.sector := hfree e.sector (List.mem_map_of_mem he)
  have hnone : ∀ j k, s.ccc.lines.get j ≠ .filling k := fun j k hj => by
    obtain ⟨f, hc, _⟩ := (hfills j k).mp hj
    rw [hf] at hc
    cases hc
  have htags' : TagsApart (put s.ccc.lines i (.filling e.sector)) := fun a b k ha hb => by
    rw [tag_put] at ha hb
    split at ha <;> split at hb
    · next ea eb => exact ea.trans eb.symm
    · cases ha; exact absurd hb (hgone b)
    · cases hb; exact absurd ha (hgone a)
    · exact htags a b k ha hb
  have hfills' : FillsFetched (put s.ccc.lines i (.filling e.sector)) (startFetch e.sector i s).cmp.fetch := fun j k => by
    rw [get_put]
    split
    · next ej => simp [startFetch, ej]
    · next ej => simp [startFetch, hnone j k, Ne.symm ej]
  refine ⟨htags', hfills', hnodup.sublist (List.filter_sublist.map _), fun k hk j => ?_⟩
  obtain ⟨x, hx, rfl⟩ := List.mem_map.mp hk
  obtain ⟨hxq, hne⟩ := List.mem_filter.mp hx
  simp only [startFetch, tag_put]
  split
  · simpa [Line.tag] using Ne.symm (by simpa using hne)
  · exact hfree _ (List.mem_map_of_mem hxq) j

/-- A fetch that ends leaves its line VALID under the tag it filled. -/
theorem cacheKept_filled (f : Fetch) (data : Memory) (draws : Nat) (s : State) (hf : s.cmp.fetch = some f) (h : CacheKept s) :
    CacheKept { s with
      ccc := { s.ccc with
        lines := put s.ccc.lines f.line (.valid f.sector data), lru := s.ccc.lru.filter (· != f.line) ++ [f.line] },
      cmp := { s.cmp with fetch := none }, dev := { s.dev with draws := draws } } := by
  refine (cacheKept_iff _).mpr fun hr => ?_
  obtain ⟨htags, hfills, hnodup, hfree⟩ := (cacheKept_iff s).mp h hr
  have hline : s.ccc.lines.get f.line = .filling f.sector := (hfills _ _).mpr ⟨f, hf, rfl, rfl⟩
  have htag : ∀ j, ((put s.ccc.lines f.line (.valid f.sector data)).get j).tag = (s.ccc.lines.get j).tag := fun j => by
    rw [tag_put]
    split
    · next e => rw [e, hline]; rfl
    · rfl
  have hfills' : FillsFetched (put s.ccc.lines f.line (.valid f.sector data)) none := fun j k => by
    rw [get_put]
    split
    · exact ⟨nofun, nofun⟩
    · next e =>
      refine ⟨fun hj => ?_, nofun⟩
      obtain ⟨g, hg, hgj, _⟩ := (hfills j k).mp hj
      rw [hf] at hg
      cases hg
      exact absurd hgj.symm e
  exact ⟨fun a b k ha hb => htags a b k (htag a ▸ ha) (htag b ▸ hb), hfills', hnodup,
    fun k hk j => by rw [htag]; exact hfree k hk j⟩

theorem cacheKept_leaves : CacheLeaves CacheKept where
  request := cacheKept_request
  ceaseWait := cacheKept_ceaseWait
  preload := cacheKept_preload
  unlock := fun _ _ h => cacheKept_queue ((List.filter_sublist).map _) h
  empty := fun _ h => cacheKept_queue (List.nil_sublist _) h
  lru := fun _ _ h => h
  locks := fun _ _ h => h
  clip := fun _ _ h => h
  drop := cacheKept_drop
  fetch := cacheKept_fetch
  filled := fun f data draws s hf _ h => cacheKept_filled f data draws s hf h
  maint := fun _ _ h => h
  dev := fun _ _ _ h => h
  deferred := fun _ _ h => h

/-! ## Every step -/

theorem memoryKept_step : StepClosed MemoryKept :=
  (cacheEvent memoryKept_rest memoryKept_leaves (fun _ _ h => h) (fun _ _ h => h) (fun _ _ h => h)).stepClosed
    (cacheSlots memoryKept_rest memoryKept_leaves (fun _ _ h => h) (fun _ _ h => h) (fun _ _ h => h) (fun _ _ h => h)) {
      queue := fun _ _ h => h
      stop := fun _ _ _ h => h
      warmTick := fun _ _ h => h
      fresh := fun _ _ _ h => ⟨h.1, reset_memoryKept.2⟩
      device := fun _ _ h => ⟨finish_wf h.1, h.2⟩ }

theorem cacheKept_step : StepClosed CacheKept :=
  (cacheEvent cacheKept_rest cacheKept_leaves (fun _ _ h => h) (fun _ _ h => h) (fun _ _ h => h)).stepClosed
    (cacheSlots cacheKept_rest cacheKept_leaves (fun _ _ h => h) (fun _ _ h => h) (fun _ _ h => h) (fun _ _ h => h)) {
      queue := fun _ _ h => h
      stop := fun _ _ hp _ hr => absurd hr (by simp [hp])
      warmTick := fun _ hp _ hr => absurd hr (by simp [tickWarmUp, hp])
      fresh := fun _ _ _ _ _ => reset_cacheKept rfl
      device := fun _ _ h => h }

end Sys2Proof.Proofs
end

section
/-! PROOFS. The port and the memory at every step: a maintenance operation and its reserved reply. -/

namespace Sys2Proof.Proofs

open Sys2Proof Sys2Proof.Machine Sys2Proof.Laws

/-! ## Reserved reply places -/

/-- The RESERVED reply places (R26). -/
def reservedPlaces (l : List Place) : Nat := (l.filter fun p => p.state == .reserved).length

theorem reservedPlaces_append (l : List Place) (p : Place) :
    reservedPlaces (l ++ [p]) = reservedPlaces l + if p.state = .reserved then 1 else 0 := by
  by_cases h : p.state = .reserved <;> simp [reservedPlaces, List.filter_append, h]

theorem reservedPlaces_cons (p : Place) (l : List Place) :
    reservedPlaces (p :: l) = reservedPlaces l + if p.state = .reserved then 1 else 0 := by
  by_cases h : p.state = .reserved <;> simp [reservedPlaces, h]

/-- A deferred reply takes the first RESERVED place. -/
theorem reservedPlaces_fill (p : List Byte) (l : List Place) : reservedPlaces (fillReserved p l) = reservedPlaces l - 1 := by
  induction l with
  | nil => rfl
  | cons x rest ih =>
    unfold fillReserved
    split
    · next h => simp [reservedPlaces_cons, h]
    · next h => simp [reservedPlaces_cons, h, ih]

theorem reservedPlaces_begin {l ps : List Place} {p : Place} (h : beginReply l = some (p, ps)) :
    reservedPlaces ps = reservedPlaces l := by
  induction l generalizing p ps with
  | nil => simp [beginReply] at h
  | cons x rest ih =>
    unfold beginReply at h
    split at h
    · next hx => cases h; simp [reservedPlaces_cons, hx]
    · split at h
      · cases h
      · next he => cases h; simp [reservedPlaces_cons, ih he]

theorem reservedPlaces_filter (q : Place → Bool) (l : List Place) : reservedPlaces (l.filter q) ≤ reservedPlaces l :=
  (List.filter_sublist.filter _).length_le

/-- A return frame takes no RESERVED place (R35). -/
theorem reservedPlaces_turn (s : State) : reservedPlaces (returnTurn s).1.cth.replies ≤ reservedPlaces s.cth.replies := by
  have hafter : ∀ x (t : State), reservedPlaces (afterSlot x t).cth.replies ≤ reservedPlaces t.cth.replies := by
    intro x t
    unfold afterSlot
    split
    · dsimp only
      split
      · exact reservedPlaces_filter _ _
      · exact le_rfl
    · exact le_rfl
  unfold returnTurn
  split
  · exact hafter _ s
  · split
    · next he => exact (hafter _ _).trans (reservedPlaces_begin he).le
    · split
      · dsimp only
        exact hafter _ _
      · exact le_rfl

/-- A return frame changes nothing but CTH's record. -/
theorem returnTurn_frame (s : State) : (returnTurn s).1 = { s with cth := (returnTurn s).1.cth } := by
  have hafter : ∀ x (t : State), afterSlot x t = { t with cth := (afterSlot x t).cth } := by
    intro x t
    unfold afterSlot
    split <;> rfl
  unfold returnTurn
  split
  · exact hafter _ s
  · split
    · exact hafter _ _
    · split
      · dsimp only
        exact hafter _ _
      · rfl

/-! ## The port -/

/-- What the memory runs is no read, and what it was given up while running it still runs (R145, R160). -/
def DeviceHeld (d : Device) : Prop := (d.givenUp = true → d.busy ≠ none) ∧ ∀ a n, d.busy ≠ some (.read a n)

/-- A started operation has no fetch beside it; while it waits the memory is busy, and once it is sent the memory runs that
operation, or nothing where it is a read (R154, R160). -/
def StartedHeld (s : State) : Prop := ∀ m, s.cmp.maint = some m → m.stage ≠ .pending →
  s.cmp.fetch = none ∧ (m.stage = .waitReady → s.dev.busy ≠ none) ∧
  (m.stage = .sent → s.dev.givenUp = false ∧ s.dev.busy = match m.op with | .read _ _ => none | op => some op)

/-- The port and the memory agree past warm-up, but for an operation that the arbiter has still to start. -/
def PortRaw (s : State) : Prop :=
  s.power.running = true ∧ DeviceHeld s.dev ∧
    reservedPlaces s.cth.replies ≤ (if s.cmp.maint.isSome then 1 else 0) ∧ StartedHeld s

/-- The port and the memory agree past warm-up. -/
def PortRuns (s : State) : Prop := PortRaw s ∧ PortSettled s

theorem portKept_iff (s : State) : PortKept s ↔ (s.power.running = true → PortRuns s) ∧
    (s.power.running = false → s.cmp.maint = none ∧ DeviceHeld s.dev) := by
  unfold PortKept PortRuns PortRaw DeviceHeld
  constructor
  · rintro ⟨hsettled, hwarm, hgiven, hread, hcount, hstarted⟩
    exact ⟨fun hr => ⟨⟨hr, ⟨hgiven, hread⟩, hcount hr, hstarted⟩, hsettled⟩, fun hr => ⟨hwarm hr, hgiven, hread⟩⟩
  · rintro ⟨hrun, hwarm⟩
    cases hr : s.power.running with
    | true =>
      obtain ⟨⟨_, ⟨hgiven, hread⟩, hcount, hstarted⟩, hsettled⟩ := hrun hr
      exact ⟨hsettled, nofun, hgiven, hread, fun _ => hcount, hstarted⟩
    | false =>
      obtain ⟨hnone, hgiven, hread⟩ := hwarm hr
      exact ⟨fun _ m hm => absurd hm (by simp [hnone]), fun _ => hnone, hgiven, hread, nofun,
        fun m hm => absurd hm (by simp [hnone])⟩

theorem deviceHeld_start {d : Device} (op : MaintOp) (h : DeviceHeld d) (hb : d.busy = none) :
    DeviceHeld (d.start op) ∧ (d.start op).givenUp = false ∧
      (d.start op).busy = match op with | .read _ _ => none | op => some op := by
  have hg : d.givenUp = false := Bool.eq_false_iff.mpr fun hg => h.1 hg hb
  cases op with
  | erase k => exact ⟨⟨nofun, nofun⟩, rfl, rfl⟩
  | program a bs => exact ⟨⟨nofun, nofun⟩, rfl, rfl⟩
  | read a n => exact ⟨h, hg, hb⟩

/-- The arbiter leaves the port settled (R154). -/
theorem portRuns_arbiter {s : State} (h : PortRaw s) : PortRuns (arbiter s) := by
  refine ⟨?_, arbiter_settles s⟩
  obtain ⟨hr, hdev, hcount, hstarted⟩ := h
  rcases arbiter_cases s with e | ⟨hp, x, i, _, _, e⟩ | ⟨hp, m, hm, hs, ⟨hb, e⟩ | ⟨hb, e⟩⟩ <;> rw [e]
  · exact ⟨hr, hdev, hcount, hstarted⟩
  · exact ⟨hr, hdev, hcount, fun m hm hs => absurd ((portState_ready.mp hp).2 m hm) hs⟩
  · rw [hm] at hcount
    exact ⟨hr, hdev, hcount, fun n hn _ => by
      cases hn
      exact ⟨(portState_ready.mp hp).1, fun _ => hb, nofun⟩⟩
  · rw [hm] at hcount
    obtain ⟨hdev', hgiven, hbusy⟩ := deviceHeld_start m.op hdev hb
    exact ⟨hr, hdev', hcount, fun n hn _ => by
      cases hn
      exact ⟨(portState_ready.mp hp).1, nofun, fun _ => ⟨hgiven, hbusy⟩⟩⟩

/-- With no maintenance operation nothing waits for the port. -/
theorem portRuns_none {s : State} (hr : s.power.running = true) (hd : DeviceHeld s.dev) (hc : reservedPlaces s.cth.replies = 0)
    (hm : s.cmp.maint = none) : PortRuns s :=
  ⟨⟨hr, hd, by rw [hc]; exact Nat.zero_le _, fun m h => absurd h (by simp [hm])⟩, fun _ m h => absurd h (by simp [hm])⟩

theorem portRaw_rest : RestFree PortRaw where
  scc := fun _ _ h => h
  hmx := fun _ _ h => h
  zou := fun _ _ h => h
  rce := fun _ _ h => h
  asq := fun _ _ h => h
  vpl := fun _ _ h => h
  tickFor := fun _ _ h => h
  downstream := fun _ _ h => h
  row := fun _ _ _ h => h

theorem portRuns_rest : RestFree PortRuns where
  scc := fun _ _ h => h
  hmx := fun _ _ h => h
  zou := fun _ _ h => h
  rce := fun _ _ h => h
  asq := fun _ _ h => h
  vpl := fun _ _ h => h
  tickFor := fun _ _ h => h
  downstream := fun _ _ h => h
  row := fun _ _ _ h => h

theorem portRaw_cache : CacheClosed PortRaw where
  request := fun _ _ _ _ h => keep_ite h (keep_ite h h)
  touch := fun k s h => by
    unfold touch
    split <;> exact h
  ceaseWait := fun _ _ h => h
  arbiter := fun _ h => (portRuns_arbiter h).1

theorem portRuns_cache : CacheClosed PortRuns where
  request := fun _ _ _ _ h => keep_ite h (keep_ite h h)
  touch := fun k s h => by
    unfold touch
    split <;> exact h
  ceaseWait := fun _ _ h => h
  arbiter := fun _ h => portRuns_arbiter h.1

/-! ## The maintenance operation -/

theorem portRaw_preload (k : Nat) (s : State) (h : PortRaw s) : PortRaw (preload s k) := keep_ite h h

theorem portRuns_preload (k : Nat) (s : State) (h : PortRuns s) : PortRuns (preload s k) := keep_ite h h

theorem portRuns_invalidateTag (k : Nat) (s : State) (h : PortRuns s) : PortRuns (invalidateTag k s) := by
  unfold invalidateTag
  split
  · exact h
  · have h1 : ∀ i, PortRuns (allVoices.foldl (sectorInvalid k) (dropLine s i)) := fun i =>
      keep_foldl (fun v s hs => keep_sectorInvalid (portRuns_rest.voices portRuns_cache) k v s hs) _ _ h
    exact keep_ite (portRuns_preload k _ (h1 _)) (h1 _)

/-- An operation that ends fills its reserved reply (R26, R160). -/
theorem portRuns_endMaint (op : MaintOp) (p : List Byte) {s : State} (hr : s.power.running = true) (hd : DeviceHeld s.dev)
    (hc : reservedPlaces s.cth.replies ≤ 1) : PortRuns (endMaint op p s) := by
  have ht : PortRuns (deferredReply p { s with cmp := { s.cmp with maint := none } }) :=
    portRuns_none hr hd (by simp [deferredReply, reservedPlaces_fill]; omega) rfl
  unfold endMaint
  dsimp only
  refine portRuns_arbiter ?_
  split
  · exact (portRuns_invalidateTag _ _ ht).1
  · exact ht.1

theorem portRuns_acceptMaint (op : MaintOp) {s : State} (h : PortRuns s) : PortRuns (acceptMaint op s).1 := by
  obtain ⟨⟨hr, hd, hc, _⟩, _⟩ := id h
  unfold acceptMaint
  split
  · exact h
  · next hm =>
    rw [if_neg hm] at hc
    exact portRuns_arbiter ⟨hr, hd, hc.trans (Nat.zero_le _), fun m he hs => by cases he; exact absurd rfl hs⟩

theorem portRuns_fetchCompletes {s : State} (h : PortRuns s) : PortRuns (fetchCompletes s) := by
  obtain ⟨⟨hr, hd, hc, hs⟩, _⟩ := id h
  unfold fetchCompletes
  split
  · exact h
  · refine portRuns_arbiter (keep_foldl (fun v t ht => keep_tellValid (portRaw_rest.voices portRaw_cache) _ v t ht) _ _ ?_)
    exact ⟨hr, hd, hc, fun m hm hstage => ⟨rfl, (hs m hm hstage).2⟩⟩

theorem deviceHeld_finish {d : Device} (h : DeviceHeld d) : DeviceHeld d.finish := by
  obtain ⟨hb, hg⟩ := finish_idle h.1
  exact ⟨fun hc => absurd hc (by simp [hg]), by simp [hb]⟩

theorem reserved_le_one {s : State} (h : PortRaw s) : reservedPlaces s.cth.replies ≤ 1 := by
  obtain ⟨_, _, hc, _⟩ := h
  split at hc <;> omega

theorem portRuns_memoryReady {s : State} (h : PortRuns s) : PortRuns (memoryReady s) := by
  obtain ⟨hraw, hsettled⟩ := h
  obtain ⟨hr, hd, hc, hs⟩ := id hraw
  have hd' : DeviceHeld (finishDevice s).dev := deviceHeld_finish hd
  obtain ⟨hidle, _⟩ := finish_idle hd.1
  unfold memoryReady
  dsimp only
  split
  · next hm => exact ⟨⟨hr, hd', hc, fun m he => absurd he (by simp [hm])⟩, hsettled⟩
  · next m hm =>
    have hm' : s.cmp.maint = some m := hm
    split
    · next hp => exact ⟨⟨hr, hd', hc, fun n hn hstage => by
        rw [hm] at hn
        cases hn
        exact absurd hp hstage⟩, hsettled⟩
    · next hw =>
      obtain ⟨hdev, hgiven, hbusy⟩ := deviceHeld_start m.op hd' hidle
      have hfetch := (hs m hm' (by simp [hw])).1
      rw [hm'] at hc
      exact ⟨⟨hr, hdev, hc, fun n hn _ => by cases hn; exact ⟨hfetch, nofun, fun _ => ⟨hgiven, hbusy⟩⟩⟩,
        fun _ n hn => by cases hn; simp⟩
    · exact portRuns_endMaint (s := finishDevice s) _ _ hr hd' (show reservedPlaces s.cth.replies ≤ 1 from reserved_le_one hraw)

theorem portRuns_timesOut {s : State} (h : PortRuns s) : PortRuns (maintenanceTimesOut s) := by
  obtain ⟨hr, hd, _, _⟩ := id h.1
  have hone := reserved_le_one h.1
  have hgive : DeviceHeld s.dev.giveUp := ⟨fun hg => by simpa [Option.isSome_iff_ne_none] using hg, hd.2⟩
  unfold maintenanceTimesOut
  split
  · exact h
  · split
    · exact h
    · split
      · exact portRuns_endMaint _ _ hr hgive hone
      · exact portRuns_endMaint _ _ hr hd hone

theorem portRuns_tick {s : State} (h : PortRuns s) : PortRuns (tickCmp s) := by
  obtain ⟨⟨hr, hd, hc, hs⟩, hsettled⟩ := id h
  unfold tickCmp
  split
  · exact h
  · next m hm =>
    split
    · exact h
    · rw [hm] at hc
      exact ⟨⟨hr, hd, hc, fun n hn hstage => by cases hn; exact hs m hm hstage⟩,
        fun hf n hn => by cases hn; exact hsettled hf m hm⟩

theorem portRuns_reset {s : State} (hn : s.cth.replies = []) (h : PortRuns s) : PortRuns (deckResetCache s) := by
  obtain ⟨⟨hr, hd, _, hs⟩, _⟩ := h
  refine portRuns_arbiter (keep_foldl portRaw_preload _ _ ⟨hr, hd, ?_, fun m hm hstage => ?_⟩)
  · simp [hn, reservedPlaces]
  · dsimp only at hm
    split at hm
    · cases hm
    · exact hs m hm hstage

theorem portRuns_ports : CacheOps PortRuns where
  clip := fun _ _ _ h => h
  lock := fun f l s h => by
    unfold clipLockOp
    split
    · exact h
    · split
      · exact h
      · refine portRuns_arbiter (keep_foldl portRaw_preload _ _ ?_)
        exact h.1
  unlock := fun p f l s h => by
    unfold clipUnlockOp
    split
    · exact portRuns_arbiter h.1
    · split
      · exact h
      · exact portRuns_arbiter h.1
  flush := fun s h => portRuns_arbiter (keep_foldl (f := dropLine) (fun _ _ ht => ht) _ s h.1)
  erase := fun _ s h => by
    unfold clipEraseOp
    split
    · exact h
    · exact portRuns_acceptMaint _ h
  program := fun _ _ s h => by
    unfold clipProgramOp
    split
    · exact h
    · exact portRuns_acceptMaint _ h
  read := fun _ _ s h => by
    unfold clipReadOp
    split
    · exact h
    · exact portRuns_acceptMaint _ h
  complete := fun _ h => portRuns_fetchCompletes h
  ready := fun _ h => portRuns_memoryReady h
  timeout := fun _ h => portRuns_timesOut h
  tick := fun _ h => portRuns_tick h
  reset := fun _ hn h => portRuns_reset hn h

/-! ## Replies -/

/-- A change of CTH's record that adds no RESERVED place. -/
theorem portRuns_replies {s : State} {x : Cth} (hx : reservedPlaces x.replies ≤ reservedPlaces s.cth.replies) (h : PortRuns s) :
    PortRuns { s with cth := x } := by
  obtain ⟨⟨hr, hd, hc, hs⟩, hsettled⟩ := h
  exact ⟨⟨hr, hd, hx.trans hc, hs⟩, hsettled⟩

theorem portRuns_cth : CthOps PortRuns where
  notice := fun n s h => by
    rcases pushNotice_eq n s with ⟨_, e⟩ | ⟨_, e⟩ <;> rw [e] <;> exact h
  assembly := fun _ _ h => h
  settings := fun _ _ h => h
  pendingReset := fun _ h => h
  turn := fun s h => by
    rw [returnTurn_frame]
    exact portRuns_replies (reservedPlaces_turn s) h
  reset := fun _ h => portRuns_replies (Nat.zero_le _) h

theorem portRuns_lamps : LampFree PortRuns :=
  portRuns_rest.lamps portRuns_cache (fun _ _ _ h => h) portRuns_cth.notice

theorem portRuns_ops : OpsClosed PortRuns :=
  portRuns_rest.ops portRuns_cache portRuns_lamps.ops portRuns_ports portRuns_cth

/-- A reply is RESERVED only where the request is an operation accepted with none before it (R26, R159). -/
theorem portRuns_answered (bc : Bool) (kind : Byte) (f : State → State × Answer) (s : State) (hf : Handled true s (f s))
    (h : PortRuns s) : PortRuns (takeRequest bc kind f s) := by
  have hafter : PortRuns (f s).1 := hf.keeps PortRuns portRuns_ops.own (fun _ => portRuns_rest.steps portRuns_cth) h
  refine keep_ite h (keep_ite hafter ?_)
  cases ha : (f s).2 with
  | deferred =>
    obtain ⟨hbefore, hpending, hcth⟩ := hf.defers ha
    obtain ⟨⟨_, _, hnone, _⟩, _⟩ := h
    obtain ⟨⟨hr, hd, _, hs⟩, hsettled⟩ := hafter
    refine ⟨⟨hr, hd, ?_, hs⟩, hsettled⟩
    rw [hbefore] at hnone
    simp only [addPlace, reservedPlaces_append, hcth, hpending, if_true, Answer.place]
    simpa using hnone
  | reply p => exact portRuns_replies (by simp [reservedPlaces_append, Answer.place]) hafter
  | resetDone => exact portRuns_replies (by simp [reservedPlaces_append, Answer.place]) hafter

theorem portRuns_event : EventClosed PortRuns where
  toOpsClosed := portRuns_ops
  toRouteSteps := portRuns_rest.steps portRuns_cth
  answered := portRuns_answered
  out := fun _ _ h => h

theorem portRuns_slot (ws : TrunkWords) (short order : List SlotEvent) (s : State) (h : PortRuns s) :
    PortRuns (slotEnds ws short order s) :=
  portRuns_rest.slots portRuns_event (fun _ _ h => h) (fun b s h => portRuns_lamps.alarmFlag b s h) ws short order s h

/-! ## Every step -/

theorem PortRuns.kept {s : State} (h : PortRuns s) : PortKept s :=
  (portKept_iff s).mpr ⟨fun _ => h, fun hr => absurd h.1.1 (by simp [hr])⟩

theorem portKept_step : StepClosed PortKept where
  answered := fun bc kind f s hr hf h => (portRuns_answered bc kind f s hf.stepping (((portKept_iff s).mp h).1 hr)).kept
  arm := fun bc n tag s hr h =>
    (portRuns_event.settle _ (portRuns_answered bc _ _ s (Handled.routeArmOp n tag s) (((portKept_iff s).mp h).1 hr))).kept
  event := fun e s hr h => (portRuns_event.takeEvent e s (((portKept_iff s).mp h).1 hr)).kept
  slot := fun ws short order s hr h => (portRuns_slot ws short order s (((portKept_iff s).mp h).1 hr)).kept
  queue := fun _ _ h => h
  stop := fun p s hp h => by
    obtain ⟨_, _, hgiven, hread, _⟩ := h
    exact (portKept_iff _).mpr ⟨fun hr => absurd hr (by simp [hp]), fun _ => ⟨rfl, hgiven, hread⟩⟩
  warmTick := fun s hp h => by
    have hw := ((portKept_iff s).mp h).2 hp
    exact (portKept_iff _).mpr ⟨fun hr => absurd hr (by simp [tickWarmUp, hp]), fun _ => hw⟩
  fresh := fun adr cause s h => by
    obtain ⟨_, _, hgiven, hread, _⟩ := h
    exact (portRuns_none (s := freshChip adr cause s) rfl ⟨hgiven, hread⟩ rfl rfl).kept
  device := fun s hp h => by
    obtain ⟨hnone, hd⟩ := ((portKept_iff s).mp h).2 hp
    exact (portKept_iff _).mpr ⟨fun hr => absurd hr (by simp [finishDevice, hp]), fun _ => ⟨hnone, deviceHeld_finish hd⟩⟩

/-- Settles O58: the sectors and the fetch queue, the port with the memory and its reserved reply, and the canonical form, each
kept by every command. -/
theorem cacheStaysKept : Obligations.CacheStaysKept :=
  ⟨fun _ _ h hs => cacheKept_step.step h hs, fun _ _ h hs => portKept_step.step h hs, fun _ _ h hs => memoryKept_step.step h hs⟩

end Sys2Proof.Proofs
end

section
/-! PROOFS. The ignition queue and its budget at every step. Both look at LMC alone; within an event that moves the supply or the
override, or at a boundary, they hold in parts. -/

namespace Sys2Proof.Proofs

open Sys2Proof Sys2Proof.Machine Sys2Proof.Laws

/-! ## The property, by its parts -/

/-- A group that is not running stands at level 0, and one of mode OFF does not run. -/
def GroupHeld (x : Group) : Prop := (x.running = false → x.level = 0) ∧ (x.pat.mode = .off → x.running = false)

/-- A running group above level 0 is LIT or WAITING. -/
def GroupLit (x : Group) : Prop := x.running = true → 0 < x.level → x.ign ≠ .dark

/-- Groups ask for light. -/
def Ignites (l : Lmc) : Prop := l.supply = .ready ∧ l.override = .clear

/-- The grant history of `BudgetKept`. -/
def HistoryHeld (l : Lmc) : Prop :=
  l.history.length ≤ 4 ∧ l.history.Pairwise (· ≤ ·) ∧ ∀ n ∈ l.history, n ≤ l.ticks

theorem HistoryHeld.congr {l m : Lmc} (h : HistoryHeld l) (hh : m.history = l.history) (ht : m.ticks = l.ticks) :
    HistoryHeld m := by
  rw [HistoryHeld, hh, ht]
  exact h

/-- What holds within an event too: the queue names the WAITING groups, all running. `B` says whether the budget is claimed. -/
structure LampsMid (B : Prop) (l : Lmc) : Prop where
  nodup : l.ignQueue.Nodup
  waiting : ∀ g, g ∈ l.ignQueue ↔ (l.groups.get g).ign = .waiting
  runs : ∀ g, (l.groups.get g).ign = .waiting → (l.groups.get g).running = true
  held : ∀ g, GroupHeld (l.groups.get g)
  history : B → HistoryHeld l

/-- The kept property of the ignition queue, and with `B` that of its budget. -/
structure LampsKept (B : Prop) (l : Lmc) : Prop extends LampsMid B l where
  quiet : ¬Ignites l → l.ignQueue = []
  lit : B → Ignites l → ∀ g, GroupLit (l.groups.get g)

theorem lampsKept_false_iff {s : State} : LampsKept False s.lmc ↔ IgnitionKept s := by
  constructor
  · intro h
    exact ⟨h.nodup, h.waiting, h.runs, fun g => (h.held g).1, fun g => (h.held g).2, h.quiet⟩
  · rintro ⟨hn, hw, hr, hz, ho, hq⟩
    exact ⟨⟨hn, hw, hr, fun g => ⟨hz g, ho g⟩, False.elim⟩, hq, False.elim⟩

theorem lampsKept_true_iff {s : State} : LampsKept True s.lmc ↔ IgnitionKept s ∧ BudgetKept s := by
  constructor
  · intro h
    obtain ⟨hlen, hord, hle⟩ := h.history trivial
    exact ⟨⟨h.nodup, h.waiting, h.runs, fun g => (h.held g).1, fun g => (h.held g).2, h.quiet⟩,
      hlen, hord, hle, fun hs ho => h.lit trivial ⟨hs, ho⟩⟩
  · rintro ⟨⟨hn, hw, hr, hz, ho, hq⟩, hlen, hord, hle, hl⟩
    exact ⟨⟨hn, hw, hr, fun g => ⟨hz g, ho g⟩, fun _ => ⟨hlen, hord, hle⟩⟩, hq, fun _ hi => hl hi.1 hi.2⟩

variable {B : Prop}

theorem LampsKept.not_waiting {l : Lmc} (h : LampsKept B l) (hi : ¬Ignites l) (g : GroupNo) :
    (l.groups.get g).ign ≠ .waiting := fun hw => by
  have hm := (h.waiting g).mpr hw
  rw [h.quiet hi] at hm
  exact absurd hm (List.not_mem_nil)

/-! ## Changes of the groups -/

/-- A change of a group that the property allows: it waits as before where it still runs. -/
structure GroupStep (B ignites : Prop) (x y : Group) : Prop where
  held : GroupHeld y
  waiting : y.ign = .waiting ↔ x.ign = .waiting ∧ y.running = true
  lit : B → ignites → GroupLit x → GroupLit y

theorem GroupStep.refl {i : Prop} {x : Group} (hx : GroupHeld x) (hr : x.ign = .waiting → x.running = true) :
    GroupStep B i x x :=
  ⟨hx, ⟨fun h => ⟨h, hr h⟩, And.left⟩, fun _ _ h => h⟩

theorem ignites_withGroups {f : GroupNo → Group → Group} {s : State} : Ignites (withGroups f s).lmc ↔ Ignites s.lmc := by
  simp only [withGroups, Ignites]

theorem historyHeld_withGroups {f : GroupNo → Group → Group} {s : State} :
    HistoryHeld (withGroups f s).lmc ↔ HistoryHeld s.lmc := by
  simp only [withGroups, HistoryHeld]

theorem lampsKept_withGroups {f : GroupNo → Group → Group} {s : State} (h : LampsKept B s.lmc)
    (hf : ∀ g, GroupHeld (s.lmc.groups.get g) → GroupStep B (Ignites s.lmc) (s.lmc.groups.get g) (f g (s.lmc.groups.get g))) :
    LampsKept B (withGroups f s).lmc where
  nodup := by
    rw [withGroups_ignQueue]
    exact h.nodup.filter _
  waiting := fun g => by
    have hstep := (hf g (h.held g)).waiting
    have hr := h.runs g
    simp only [withGroups_ignQueue, List.mem_filter, h.waiting, withGroups_get, hstep]
    cases hx : (s.lmc.groups.get g).running <;> simp_all
  runs := fun g hg => by
    rw [withGroups_get] at hg ⊢
    exact ((hf g (h.held g)).waiting.mp hg).2
  held := fun g => by
    rw [withGroups_get]
    exact (hf g (h.held g)).held
  history := fun hb => historyHeld_withGroups.mpr (h.history hb)
  quiet := fun hi => by
    rw [withGroups_ignQueue, h.quiet fun hs => hi (ignites_withGroups.mpr hs)]
    rfl
  lit := fun hb hi g => by
    rw [ignites_withGroups] at hi
    rw [withGroups_get]
    exact (hf g (h.held g)).lit hb hi (h.lit hb hi g)

theorem lampsKept_onlyGroup {g : GroupNo} {f : Group → Group} {s : State} (h : LampsKept B s.lmc)
    (hf : GroupHeld (s.lmc.groups.get g) → GroupStep B (Ignites s.lmc) (s.lmc.groups.get g) (f (s.lmc.groups.get g))) :
    LampsKept B (withGroups (onlyGroup g f) s).lmc := by
  refine lampsKept_withGroups h fun k hk => ?_
  unfold onlyGroup
  split
  · next he =>
    subst he
    exact hf hk
  · exact .refl hk (h.runs k)

theorem groupStep_afterStop {i : Prop} {x : Group} (hx : GroupHeld x) (hr : x.ign = .waiting → x.running = true) :
    GroupStep B i x (afterStop x) := by
  unfold afterStop
  split
  · exact ⟨⟨fun _ => rfl, fun _ => rfl⟩, by simp, fun _ _ _ hrun => nomatch hrun⟩
  · exact .refl hx hr

theorem groupStep_afterStart {i : Prop} {x : Group} (hx : GroupHeld x) (hr : x.ign = .waiting → x.running = true) :
    GroupStep B i x (afterStart x) := by
  unfold afterStart
  split
  · exact groupStep_afterStop hx hr
  · next hm =>
    refine ⟨⟨(nomatch ·), fun h => absurd h hm⟩, by simp, fun _ _ hl _ hpos => hl ?_ hpos⟩
    by_contra hrun
    exact absurd (hx.1 (Bool.eq_false_iff.mpr hrun)) (Nat.ne_of_gt hpos)

/-- A group's record rewritten, its level and ignition state kept, the mode written then having its effect. -/
theorem groupStep_modeEffect {i : Prop} {x y : Group} (m : Mode) (hx : GroupHeld x) (hr : x.ign = .waiting → x.running = true)
    (hrun : y.running = x.running) (hlevel : y.level = x.level)
    (hign : (y.ign = .waiting ↔ x.ign = .waiting)) (hlit : B → i → GroupLit x → GroupLit y) :
    GroupStep B i x (if y.running && y.pat.mode == .off then afterStop y
      else if y.running && y.pat.mode != m then afterStart y else y) := by
  have hy : GroupHeld y ∨ (y.running = true ∧ y.pat.mode = .off) := by
    by_cases hm : y.running = true ∧ y.pat.mode = .off
    · exact .inr hm
    · refine .inl ⟨fun h => hlevel.trans (hx.1 (hrun ▸ h)), fun h => ?_⟩
      exact Bool.eq_false_iff.mpr fun hr => hm ⟨hr, h⟩
  have hyr : y.ign = .waiting → y.running = true := fun h => hrun.trans (hr (hign.mp h))
  rcases hy with hy | ⟨hyrun, hoff⟩
  · have hstep : ∀ z, GroupStep B i y z → GroupStep B i x z := fun z hz =>
      ⟨hz.held, hz.waiting.trans (by rw [hign]), fun hb hi hl => hz.lit hb hi (hlit hb hi hl)⟩
    split
    · exact hstep _ (groupStep_afterStop hy hyr)
    · split
      · exact hstep _ (groupStep_afterStart hy hyr)
      · exact hstep _ (.refl hy hyr)
  · rw [if_pos (by simp [hyrun, hoff]), afterStop, if_pos hyrun]
    exact ⟨⟨fun _ => rfl, fun _ => rfl⟩, by simp, fun _ _ _ h => nomatch h⟩

/-! ## Starts, stops and writes -/

theorem lampsKept_start (g : GroupNo) (s : State) (h : LampsKept B s.lmc) : LampsKept B (startGroup g s).lmc := by
  rw [startGroup_eq]
  exact lampsKept_onlyGroup h fun hx => groupStep_afterStart hx (h.runs g)

theorem lampsKept_stop (g : GroupNo) (s : State) (h : LampsKept B s.lmc) : LampsKept B (stopGroup g s).lmc := by
  rw [stopGroup_eq]
  exact lampsKept_onlyGroup h fun hx => groupStep_afterStop hx (h.runs g)

theorem lampsKept_write (g : GroupNo) (p : Pattern) (s : State) (h : LampsKept B s.lmc) :
    LampsKept B (writePattern g p s).lmc := by
  have e : writePattern g p s = modeEffect g (s.lmc.groups.get g).pat.mode
      (setGroup g ((fun x : Group => { x with pat := p }) (s.lmc.groups.get g)) s) := rfl
  rw [e, setGroup_map (fun x : Group => { x with pat := p }) g s (fun _ => rfl), modeEffect_eq,
    onlyGroup_onlyGroup (h := fun x : Group => { x with pat := p }) (fun _ => .inl rfl)]
  exact lampsKept_onlyGroup h fun hx =>
    groupStep_modeEffect (y := { s.lmc.groups.get g with pat := p }) _ hx (h.runs g) rfl rfl Iff.rfl fun _ _ hl => hl

theorem lampsKept_closed : LampClosed (fun s => LampsKept B s.lmc) where
  start := lampsKept_start
  stop := lampsKept_stop
  write := lampsKept_write

theorem lampsKept_pending (g : GroupNo) (a b : Nat) (s : State) (h : LampsKept B s.lmc) :
    LampsKept B (writePending g a b s).lmc := by
  rw [writePending_eq]
  refine lampsKept_onlyGroup h fun hx => ?_
  have hr := h.runs g
  split
  · exact ⟨hx, ⟨fun hw => ⟨hw, hr hw⟩, And.left⟩, fun _ _ hl => hl⟩
  · exact ⟨hx, ⟨fun hw => ⟨hw, hr hw⟩, And.left⟩, fun _ _ hl => hl⟩

theorem lampsKept_hold (g : GroupNo) (b : Bool) (s : State) (h : LampsKept B s.lmc) :
    LampsKept B (setGroup g { groupOf s g with hold := b } s).lmc := by
  have e : setGroup g { groupOf s g with hold := b } s =
      setGroup g ((fun x : Group => { x with hold := b }) (s.lmc.groups.get g)) s := rfl
  rw [e, setGroup_map (fun x : Group => { x with hold := b }) g s fun _ => rfl]
  exact lampsKept_onlyGroup h fun hx => ⟨hx, ⟨fun hw => ⟨hw, h.runs g hw⟩, And.left⟩, fun _ _ hl => hl⟩

/-- The fields of a group's record that a configuration write sets, its mode's effect apart. -/
def writtenGroup (w : GroupWrite) (x : Group) : Group :=
  { x with pat := w.pat, pending := none, source := w.source, follow := w.follow, hold := w.hold, safety := w.safety }

/-- A changed safety flag under the override with a READY supply (R185). -/
def overriddenGroup (l : Lmc) (before : Bool) (x : Group) : Group :=
  if l.supply = .ready ∧ l.override ≠ .clear ∧ x.safety ≠ before then { x with ign := if x.safety then .lit else .dark } else x

theorem overriddenGroup_running (l : Lmc) (b : Bool) (x : Group) : (overriddenGroup l b x).running = x.running := by
  unfold overriddenGroup
  split <;> rfl

theorem overriddenGroup_level (l : Lmc) (b : Bool) (x : Group) : (overriddenGroup l b x).level = x.level := by
  unfold overriddenGroup
  split <;> rfl

theorem overrideSafety_eq (g : GroupNo) (b : Bool) (s : State) :
    overrideSafety g b s = withGroups (onlyGroup g (overriddenGroup s.lmc b)) s := by
  unfold overrideSafety
  split
  · next hc =>
    rw [setGroup_eq (g := g) (s := s) (x := { groupOf s g with ign := if (groupOf s g).safety then .lit else .dark })
      fun hr => hr]
    apply withGroups_congr
    intro k
    unfold onlyGroup
    split
    · next hk =>
      subst hk
      exact (if_pos hc).symm
    · rfl
  · next hc =>
    symm
    apply withGroups_id
    intro k
    unfold onlyGroup
    split
    · next hk =>
      subst hk
      exact if_neg hc
    · rfl

theorem lampsKept_storeGroup (g : GroupNo) (w : GroupWrite) (s : State) (h : LampsKept B s.lmc) :
    LampsKept B (storeGroup g w s).lmc := by
  have hmain : LampsKept B (modeEffect g (groupOf s g).pat.mode (overrideSafety g (groupOf s g).safety
      (setGroup g (writtenGroup w (groupOf s g)) s))).lmc := by
    have e : setGroup g (writtenGroup w (groupOf s g)) s = withGroups (onlyGroup g (writtenGroup w)) s :=
      setGroup_map (writtenGroup w) g s fun _ => rfl
    have hl : (withGroups (onlyGroup g (writtenGroup w)) s).lmc.supply = s.lmc.supply ∧
        (withGroups (onlyGroup g (writtenGroup w)) s).lmc.override = s.lmc.override := by simp
    have eo : overriddenGroup (withGroups (onlyGroup g (writtenGroup w)) s).lmc (groupOf s g).safety =
        overriddenGroup s.lmc (groupOf s g).safety := by
      funext x
      rw [overriddenGroup, hl.1, hl.2, overriddenGroup]
    rw [e, overrideSafety_eq, modeEffect_eq, eo,
      onlyGroup_onlyGroup (f := overriddenGroup s.lmc _) (h := writtenGroup w) (fun _ => .inl rfl),
      onlyGroup_onlyGroup (h := fun x => overriddenGroup s.lmc _ (writtenGroup w x))
        (fun x => .inl (overriddenGroup_running s.lmc _ _))]
    refine lampsKept_onlyGroup h fun hx => groupStep_modeEffect _ hx (h.runs g) (overriddenGroup_running _ _ _)
      (overriddenGroup_level _ _ _) ?_ ?_
    · unfold overriddenGroup
      split
      · next hc =>
        have hno : ¬Ignites s.lmc := fun hi => hc.2.1 hi.2
        have hw := h.not_waiting hno g
        dsimp only
        split <;> simp [hw]
      · rfl
    · intro _ hi hl
      rw [overriddenGroup, if_neg fun hc => hc.2.1 hi.2]
      exact hl
  unfold storeGroup
  dsimp only
  split
  · exact hmain
  · exact lampsKept_pending g _ _ _ hmain

/-! ## The supply and the override -/

/-- No group waits; what holds of the lamps while the supply or the override moves. -/
structure LampsRest (B : Prop) (l : Lmc) : Prop where
  empty : l.ignQueue = []
  idle : ∀ g, (l.groups.get g).ign ≠ .waiting
  held : ∀ g, GroupHeld (l.groups.get g)
  history : B → HistoryHeld l

theorem LampsKept.rest {l : Lmc} (h : LampsKept B l) (hi : ¬Ignites l) : LampsRest B l :=
  ⟨h.quiet hi, h.not_waiting hi, h.held, h.history⟩

theorem LampsRest.mid {l : Lmc} (h : LampsRest B l) : LampsMid B l where
  nodup := by simp [h.empty]
  waiting := fun g => by simp [h.empty, h.idle g]
  runs := fun g hw => absurd hw (h.idle g)
  held := h.held
  history := h.history

theorem LampsRest.kept {l : Lmc} (h : LampsRest B l) (hi : ¬Ignites l) : LampsKept B l :=
  ⟨h.mid, fun _ => h.empty, fun _ hs => absurd hs hi⟩

/-- The ignition states of all groups set, none to WAITING, and the queue emptied. -/
theorem lampsRest_set {l : Lmc} (h : LampsMid B l) (f : Group → Ignition) (hf : ∀ x, f x ≠ .waiting) :
    LampsRest B { l with ignQueue := [], groups := mapTable (fun x => { ungranted x with ign := f x }) l.groups } where
  empty := rfl
  idle := fun g => by
    rw [get_mapTable]
    exact hf _
  held := fun g => by
    rw [get_mapTable]
    exact h.held g
  history := fun hb => (h.history hb).congr rfl rfl

theorem lampsRest_darken {s : State} (h : LampsKept B s.lmc) : LampsRest B (darkenAll s).lmc :=
  lampsRest_set h.toLampsMid (fun _ => .dark) (fun _ => nofun)

theorem lampsRest_overrideLevels {s : State} (h : LampsMid B s.lmc) : LampsRest B (overrideLevels s).lmc :=
  lampsRest_set h (fun x => if x.safety then .lit else .dark) fun x => by split <;> exact nofun

theorem overrideLevels_supply (s : State) : (overrideLevels s).lmc.supply = s.lmc.supply := by
  simp only [overrideLevels]

theorem overrideLevels_override (s : State) : (overrideLevels s).lmc.override = s.lmc.override := by
  simp only [overrideLevels]

theorem lampsRest_moveSupply {s : State} (x : Supply) (h : LampsRest B s.lmc) : LampsRest B (moveSupply x s).lmc := by
  rw [moveSupply, pushNotice_lmc]
  exact ⟨h.empty, h.idle, h.held, h.history⟩

theorem moveSupply_supply (x : Supply) (s : State) : (moveSupply x s).lmc.supply = x := by
  rw [moveSupply, pushNotice_lmc]

theorem moveSupply_override (x : Supply) (s : State) : (moveSupply x s).lmc.override = s.lmc.override := by
  rw [moveSupply, pushNotice_lmc]

theorem not_ignites_of_supply {l : Lmc} {x : Supply} (h : l.supply = x) (hx : x ≠ .ready) : ¬Ignites l :=
  fun hi => hx (h.symm.trans hi.1)

theorem lampsKept_moveSupply {s : State} {x : Supply} (hx : x ≠ .ready) (h : LampsRest B s.lmc) :
    LampsKept B (moveSupply x s).lmc :=
  (lampsRest_moveSupply x h).kept (not_ignites_of_supply (moveSupply_supply x s) hx)

theorem lampsKept_rampUp {s : State} (h : LampsRest B s.lmc) : LampsKept B (rampUp s).lmc :=
  lampsKept_moveSupply (s := { s with lmc := { s.lmc with rampKept := s.cth.settings.ramp, rampCount := 0 } }) nofun
    ⟨h.empty, h.idle, h.held, h.history⟩

theorem lampsKept_leaveSupply {s : State} {x : Supply} (hx : x ≠ .ready) (h : LampsKept B s.lmc) :
    LampsKept B (leaveSupply x s).lmc := by
  refine lampsKept_moveSupply hx ?_
  split
  · exact lampsRest_darken h
  · next hs => exact h.rest fun hi => hs hi.1

theorem lampsKept_supplyOn (s : State) (h : LampsKept B s.lmc) : LampsKept B (supplyOnOp s).lmc := by
  unfold supplyOnOp
  split
  · next hs => exact lampsKept_rampUp (h.rest (not_ignites_of_supply hs nofun))
  · exact h

theorem lampsKept_supplyOff (s : State) (h : LampsKept B s.lmc) : LampsKept B (supplyOffOp s).lmc := by
  have ht : LampsKept B (if s.lmc.supply = .off then s else leaveSupply .off s).lmc := by
    split
    · exact h
    · exact lampsKept_leaveSupply nofun h
  unfold supplyOffOp
  generalize (if s.lmc.supply = .off then s else leaveSupply .off s) = t at ht
  dsimp only
  split
  · exact ht
  · next ho => exact lampsKept_rampUp (ht.rest fun hi => ho hi.2)

/-! ## The ignition queue -/

theorem insertIgnition_perm (p : GroupNo → Bool) (g : GroupNo) (q : List GroupNo) : (insertIgnition p g q).Perm (g :: q) := by
  unfold insertIgnition
  split
  · calc q.takeWhile p ++ g :: q.dropWhile p
        |>.Perm (g :: (q.takeWhile p ++ q.dropWhile p)) := List.perm_middle
      _ = g :: q := by rw [List.takeWhile_append_dropWhile]
  · exact List.perm_append_singleton g q

theorem queueIgnition_queue (g : GroupNo) (s : State) : ∃ p, (queueIgnition g s).lmc.ignQueue =
    if g ∈ s.lmc.ignQueue then s.lmc.ignQueue else insertIgnition p g s.lmc.ignQueue := by
  refine ⟨fun k => (groupOf (setGroup g { groupOf s g with ign := .waiting, stands := false } s) k).safety, ?_⟩
  simp only [queueIgnition, setGroup, List.contains_iff_mem]

theorem queueIgnition_get (g k : GroupNo) (s : State) : (queueIgnition g s).lmc.groups.get k =
    if k = g then { s.lmc.groups.get g with ign := .waiting, stands := false } else s.lmc.groups.get k := by
  simp only [queueIgnition, setGroup, get_put, groupOf]

theorem lampsMid_queueIgnition {g : GroupNo} {s : State} (h : LampsMid B s.lmc)
    (hr : (s.lmc.groups.get g).running = true) : LampsMid B (queueIgnition g s).lmc where
  nodup := by
    obtain ⟨p, hp⟩ := queueIgnition_queue g s
    rw [hp]
    split
    · exact h.nodup
    · next hc => exact (insertIgnition_perm p g _).nodup_iff.mpr (List.nodup_cons.mpr ⟨hc, h.nodup⟩)
  waiting := fun k => by
    have hmem : k ∈ (queueIgnition g s).lmc.ignQueue ↔ k = g ∨ k ∈ s.lmc.ignQueue := by
      obtain ⟨p, hp⟩ := queueIgnition_queue g s
      rw [hp]
      split
      · next hg => exact ⟨.inr, fun hk => hk.elim (fun e => e ▸ hg) id⟩
      · rw [(insertIgnition_perm _ g _).mem_iff, List.mem_cons]
    rw [hmem, queueIgnition_get, h.waiting k]
    by_cases hk : k = g <;> simp [hk]
  runs := fun k => by
    rw [queueIgnition_get]
    split
    · exact fun _ => hr
    · exact h.runs k
  held := fun k => by
    rw [queueIgnition_get]
    split
    · exact h.held g
    · exact h.held k
  history := h.history

theorem queueIgnition_ignites (g : GroupNo) (s : State) : Ignites (queueIgnition g s).lmc ↔ Ignites s.lmc := Iff.rfl

/-- Running groups queued one after the other: each waits, the others stand. -/
theorem lampsMid_queueAll : ∀ (l : List GroupNo) (s : State), LampsMid B s.lmc →
    (∀ g ∈ l, (s.lmc.groups.get g).running = true) →
    LampsMid B (l.foldl (fun s g => queueIgnition g s) s).lmc ∧
    (∀ k, k ∈ l → ((l.foldl (fun s g => queueIgnition g s) s).lmc.groups.get k).ign = .waiting) ∧
    (∀ k, k ∉ l → (l.foldl (fun s g => queueIgnition g s) s).lmc.groups.get k = s.lmc.groups.get k)
  | [], s, h, _ => ⟨h, nofun, fun _ _ => rfl⟩
  | g :: l, s, h, hr => by
    have hg := hr g (by simp)
    obtain ⟨hmid, hin, hout⟩ := lampsMid_queueAll l (queueIgnition g s) (lampsMid_queueIgnition h hg) fun k hk => by
      rw [queueIgnition_get]
      split
      · exact hg
      · exact hr k (by simp [hk])
    rw [List.foldl_cons]
    refine ⟨hmid, fun k hk => ?_, fun k hk => ?_⟩
    · by_cases hkl : k ∈ l
      · exact hin k hkl
      · have hkg : k = g := by simpa [hkl] using hk
        rw [hout k hkl, queueIgnition_get, if_pos hkg]
    · have hk' : k ≠ g ∧ k ∉ l := by simpa using hk
      rw [hout k hk'.2, queueIgnition_get, if_neg hk'.1]

theorem queueAll_frame : ∀ (l : List GroupNo) (s : State),
    (l.foldl (fun s g => queueIgnition g s) s).lmc.supply = s.lmc.supply ∧
      (l.foldl (fun s g => queueIgnition g s) s).lmc.override = s.lmc.override
  | [], _ => ⟨rfl, rfl⟩
  | g :: l, s => queueAll_frame l (queueIgnition g s)

theorem mem_requestOrder (s : State) (g : GroupNo) : g ∈ requestOrder s := by
  simp only [requestOrder, List.mem_append, List.mem_filter, mem_allGroups, true_and]
  cases (groupOf s g).safety <;> simp

theorem lampsKept_queueLit {p : Group → Bool} {s : State} (h : LampsMid B s.lmc) (hi : Ignites s.lmc)
    (hl : ∀ g, p (s.lmc.groups.get g) = false → GroupLit (s.lmc.groups.get g)) : LampsKept B (queueLit p s).lmc := by
  have hrun : ∀ g ∈ (requestOrder s).filter fun g =>
      (groupOf s g).running && decide (0 < (groupOf s g).level) && p (groupOf s g),
      (s.lmc.groups.get g).running = true := fun g hg => by
    simp only [List.mem_filter, Bool.and_eq_true] at hg
    exact hg.2.1.1
  obtain ⟨hmid, hin, hout⟩ := lampsMid_queueAll _ s h hrun
  refine ⟨hmid, fun hno => ?_, fun _ _ g => ?_⟩
  · obtain ⟨hs, ho⟩ := queueAll_frame ((requestOrder s).filter fun g =>
      (groupOf s g).running && decide (0 < (groupOf s g).level) && p (groupOf s g)) s
    exact absurd ⟨hs.trans hi.1, ho.trans hi.2⟩ hno
  · by_cases hg : g ∈ (requestOrder s).filter fun g =>
        (groupOf s g).running && decide (0 < (groupOf s g).level) && p (groupOf s g)
    · intro _ _ hd
      have hw := hin g hg
      rw [queueLit] at hd
      rw [hw] at hd
      cases hd
    · have hk := hout g hg
      rw [queueLit, hk]
      intro hr hp
      refine hl g ?_ hr hp
      simpa [mem_requestOrder, hr, hp, groupOf] using hg

theorem lampsKept_enterReady {s : State} (h : LampsRest B s.lmc) : LampsKept B (enterReady s).lmc := by
  have ht := lampsRest_moveSupply .ready h
  have hs := moveSupply_supply .ready s
  unfold enterReady
  generalize moveSupply .ready s = t at ht hs
  dsimp only
  split
  · next ho => exact lampsKept_queueLit ht.mid ⟨hs, ho⟩ nofun
  · next ho => exact (lampsRest_overrideLevels ht.mid).kept fun hi => ho ((overrideLevels_override t).symm.trans hi.2)

theorem lampsKept_rampDone (s : State) (h : LampsKept B s.lmc) : LampsKept B (rampDone s).lmc := by
  unfold rampDone
  split
  · next hs => exact lampsKept_enterReady (h.rest (not_ignites_of_supply hs.1 nofun))
  · exact h

theorem lampsKept_rampTimeout (s : State) (h : LampsKept B s.lmc) : LampsKept B (rampTimeout s).lmc := by
  unfold rampTimeout
  split
  · exact lampsKept_leaveSupply nofun h
  · exact h

theorem lampsKept_goodLost (s : State) (h : LampsKept B s.lmc) : LampsKept B (goodLost s).lmc := by
  unfold goodLost
  split
  · exact lampsKept_leaveSupply nofun h
  · exact h

/-! ## The override -/

theorem lampsRest_setOverride {s : State} (x : Override) (h : LampsRest B s.lmc) : LampsRest B (setOverride x s).lmc :=
  ⟨h.empty, h.idle, h.held, h.history⟩

theorem lampsMid_setOverride {s : State} (x : Override) (h : LampsMid B s.lmc) : LampsMid B (setOverride x s).lmc :=
  ⟨h.nodup, h.waiting, h.runs, h.held, h.history⟩

theorem lampsKept_setOverride {s : State} {x : Override} (hx : x ≠ .clear) (h : LampsRest B s.lmc) :
    LampsKept B (setOverride x s).lmc :=
  (lampsRest_setOverride x h).kept fun hi => hx hi.2

theorem lampsKept_rest (B : Prop) : RestFree (fun s => LampsKept B s.lmc) where
  scc := fun _ _ h => h
  hmx := fun _ _ h => h
  zou := fun _ _ h => h
  rce := fun _ _ h => h
  asq := fun _ _ h => h
  vpl := fun _ _ h => h
  tickFor := fun _ _ h => h
  downstream := fun _ _ h => h
  row := fun _ _ _ h => h

theorem lampsKept_notice (n : Notice) (s : State) (h : LampsKept B s.lmc) : LampsKept B (pushNotice n s).lmc := by
  rw [pushNotice_lmc]
  exact h

theorem lampsKept_cacheFree (B : Prop) : CacheFree (fun s => LampsKept B s.lmc) where
  toVoiceClosed := (lampsKept_rest B).voices (cacheClosed_of (fun _ _ _ h => h) (fun _ _ h => h) (fun _ _ h => h))
  ccc := fun _ _ _ h => h
  lock := fun _ _ _ h => h
  unlock := fun _ _ h => h
  cmp := fun _ _ h => h
  dev := fun _ _ h => h
  deferred := fun _ _ h => h

theorem lampsKept_announcements (B : Prop) : AsqClosed (fun s => LampsKept B s.lmc) :=
  (lampsKept_rest B).announcements (lampsKept_cacheFree B).toCacheClosed lampsKept_closed lampsKept_notice

theorem lampsKept_requestAlarm (s : State) (h : LampsKept B s.lmc) : LampsKept B (requestAlarm s).lmc := by
  unfold requestAlarm
  split
  · exact h
  · split
    · exact h
    · exact keep_takeInternal (lampsKept_announcements B) _ s h

/-- In CLEAR groups may wait; the override's levels over a READY supply end that, and there are none over another. -/
theorem lampsKept_overrideStart (s : State) (h : LampsKept B s.lmc) : LampsKept B (overrideStart s).lmc := by
  have hmid : LampsMid B (setOverride .active s).lmc := lampsMid_setOverride .active h.toLampsMid
  have hnot : (setOverride .active s).lmc.supply ≠ .ready → LampsRest B (setOverride .active s).lmc := fun hs =>
    lampsRest_setOverride .active (h.rest fun hi => hs hi.1)
  have ho : (setOverride .active s).lmc.override = .active := rfl
  unfold overrideStart
  dsimp only
  generalize setOverride .active s = u at hmid hnot ho
  have hrest : LampsRest B (if u.lmc.supply = .ready then overrideLevels u else u).lmc := by
    split
    · exact lampsRest_overrideLevels hmid
    · next hs => exact hnot hs
  have hactive : (if u.lmc.supply = .ready then overrideLevels u else u).lmc.override = .active := by
    split
    · exact (overrideLevels_override u).trans ho
    · exact ho
  generalize (if u.lmc.supply = .ready then overrideLevels u else u) = t at hrest hactive
  have hkept : LampsKept B (lampAlarmStart (requestAlarm (pushNotice (.alarm true) t))).lmc :=
    keep_lampAlarmStart lampsKept_closed _ (lampsKept_requestAlarm _ (lampsKept_notice _ _
      (hrest.kept fun hi => nomatch hactive.symm.trans hi.2)))
  generalize lampAlarmStart (requestAlarm (pushNotice (.alarm true) t)) = u at hkept
  split
  · next hs => exact lampsKept_rampUp (hkept.rest (not_ignites_of_supply hs nofun))
  · exact hkept

theorem lampsKept_overrideEvent (s : State) (h : LampsKept B s.lmc) : LampsKept B (overrideEvent s).lmc := by
  unfold overrideEvent
  split
  · split
    · exact lampsKept_overrideStart s h
    · exact h
  · next ho =>
    split
    · exact h
    · exact lampsKept_setOverride nofun (h.rest fun hi => nomatch ho.symm.trans hi.2)
  · next ho =>
    split
    · exact lampsKept_setOverride nofun (h.rest fun hi => nomatch ho.symm.trans hi.2)
    · exact h

theorem lampsKept_sources {s : State} (line flag : Bool) (h : LampsKept B s.lmc) :
    LampsKept B { s.lmc with lineSource := line, flagSource := flag } :=
  ⟨⟨h.nodup, h.waiting, h.runs, h.held, h.history⟩, h.quiet, h.lit⟩

theorem lampsKept_alarmLine (low : Bool) (s : State) (h : LampsKept B s.lmc) : LampsKept B (alarmLine low s).lmc :=
  lampsKept_overrideEvent _ (lampsKept_sources low s.lmc.flagSource h)

theorem lampsKept_alarmFlag (on : Bool) (s : State) (h : LampsKept B s.lmc) : LampsKept B (alarmFlag on s).lmc :=
  lampsKept_overrideEvent _ (lampsKept_sources s.lmc.lineSource on h)

theorem safetyLevels_get (s : State) (g : GroupNo) : (safetyLevels s).lmc.groups.get g =
    if (s.lmc.groups.get g).safety then { s.lmc.groups.get g with
      ign := if (s.lmc.groups.get g).running && decide (0 < (s.lmc.groups.get g).level) then .lit else .dark }
    else s.lmc.groups.get g := by
  simp only [safetyLevels, get_mapTable]

theorem safetyLevels_frame (s : State) : (safetyLevels s).lmc.ignQueue = s.lmc.ignQueue ∧
    (safetyLevels s).lmc.supply = s.lmc.supply ∧ (safetyLevels s).lmc.override = s.lmc.override ∧
    (safetyLevels s).lmc.history = s.lmc.history ∧ (safetyLevels s).lmc.ticks = s.lmc.ticks := by
  simp only [safetyLevels, and_self]

theorem lampsRest_safetyLevels {s : State} (h : LampsRest B s.lmc) : LampsRest B (safetyLevels s).lmc := by
  obtain ⟨hq, -, -, hh, ht⟩ := safetyLevels_frame s
  refine ⟨hq.trans h.empty, fun g => ?_, fun g => ?_, fun hb => (h.history hb).congr hh ht⟩
  · rw [safetyLevels_get]
    split
    · dsimp only
      split <;> exact nofun
    · exact h.idle g
  · rw [safetyLevels_get]
    split
    · exact h.held g
    · exact h.held g

/-- With the supply READY at the override's end a safety group above level 0 is LIT at once, and the others wait. -/
theorem lampsKept_released {s : State} (h : LampsRest B s.lmc) (hi : Ignites s.lmc) :
    LampsKept B (queueLit (fun x => !x.safety) (safetyLevels s)).lmc := by
  obtain ⟨-, hs, ho, -, -⟩ := safetyLevels_frame s
  refine lampsKept_queueLit (lampsRest_safetyLevels h).mid ⟨hs.trans hi.1, ho.trans hi.2⟩ fun g hg => ?_
  rw [safetyLevels_get] at hg ⊢
  by_cases hsafe : (s.lmc.groups.get g).safety = true
  · rw [if_pos hsafe]
    intro hr hp
    dsimp only at hr hp ⊢
    rw [if_pos (by simp [hr, hp])]
    exact nofun
  · rw [if_neg hsafe] at hg
    exact absurd (by simpa using hg) hsafe

/-- The follow stops of the ALARM groups at the override's end, where no group waits. -/
theorem lampsRest_lampAlarmEnd {s : State} (h : LampsRest B s.lmc) : LampsRest B (lampAlarmEnd s).lmc := by
  rw [lampAlarmEnd_eq]
  refine ⟨by rw [withGroups_ignQueue, h.empty]; rfl, fun g => ?_, fun g => ?_, fun hb => historyHeld_withGroups.mpr (h.history hb)⟩
  · rw [withGroups_get]
    split
    · exact fun hw => h.idle g ((groupStep_afterStop (B := B) (i := True) (h.held g)
        fun hw => absurd hw (h.idle g)).waiting.mp hw).1
    · exact h.idle g
  · rw [withGroups_get]
    split
    · exact (groupStep_afterStop (B := B) (i := True) (h.held g) fun hw => absurd hw (h.idle g)).held
    · exact h.held g

theorem lampAlarmEnd_frame (s : State) : (lampAlarmEnd s).lmc.supply = s.lmc.supply ∧
    (lampAlarmEnd s).lmc.override = s.lmc.override := by
  rw [lampAlarmEnd_eq]
  simp

theorem lampsKept_overrideClears (s : State) (h : LampsKept B s.lmc) : LampsKept B (overrideClears s).lmc := by
  unfold overrideClears
  split
  · next hc =>
    have hrest : LampsRest B (lampAlarmEnd (pushNotice (.alarm false) (setOverride .clear s))).lmc := by
      refine lampsRest_lampAlarmEnd ?_
      rw [pushNotice_lmc]
      exact lampsRest_setOverride _ (h.rest fun hi => nomatch hc.1.symm.trans hi.2)
    have hclear : (lampAlarmEnd (pushNotice (.alarm false) (setOverride .clear s))).lmc.override = .clear := by
      rw [(lampAlarmEnd_frame _).2, pushNotice_lmc]
      rfl
    generalize lampAlarmEnd (pushNotice (.alarm false) (setOverride .clear s)) = t at hrest hclear
    dsimp only
    split
    · next hs => exact lampsKept_released hrest ⟨hs, hclear⟩
    · next hs => exact hrest.kept fun hi => hs hi.1
  · exact h

/-! ## A boundary -/

/-- An advance or a held change leaves a group's state of running, its mode and its ignition state. -/
structure SameRun (x y : Group) : Prop where
  running : y.running = x.running
  mode : y.pat.mode = x.pat.mode
  ign : y.ign = x.ign

theorem SameRun.held {x y : Group} (h : SameRun x y) (hx : GroupHeld x) (hr : x.running = true) : GroupHeld y :=
  ⟨fun hy => (nomatch hr.symm.trans (h.running.symm.trans hy)), fun hy => h.running.trans (hx.2 (h.mode.symm.trans hy))⟩

theorem sameRun_adoptPending (x : Group) : SameRun x (adoptPending x) := by
  unfold adoptPending
  split <;> exact ⟨rfl, rfl, rfl⟩

theorem sameRun_beginPhase (x : Group) : SameRun x (beginPhase x) := by
  have hy : SameRun x (if x.phaseOn then adoptPending x else x) := by
    split
    · exact sameRun_adoptPending x
    · exact ⟨rfl, rfl, rfl⟩
  unfold beginPhase
  generalize (if x.phaseOn then adoptPending x else x) = y at hy
  dsimp only
  split <;> exact ⟨hy.running, hy.mode, hy.ign⟩

theorem sameRun_begin {x y : Group} (h : SameRun x y) : SameRun x (Advance.begin y).full := by
  have hb := sameRun_beginPhase y
  exact ⟨hb.running.trans h.running, hb.mode.trans h.mode, hb.ign.trans h.ign⟩

/-- An advance ends a group's last burst, or leaves what it runs by. -/
theorem advance_cases (x : Group) : (advance x).ended = true ∧ (advance x).full = stoppedGroup x ∨
    (advance x).ended = false ∧ SameRun x (advance x).held ∧ SameRun x (advance x).full := by
  have same : ∀ y : Group, y.running = x.running → y.pat.mode = x.pat.mode → y.ign = x.ign → SameRun x y :=
    fun _ hr hm hi => ⟨hr, hm, hi⟩
  have hbegin : ∀ y, SameRun x y → (Advance.begin y).ended = false ∧ SameRun x (Advance.begin y).held ∧
      SameRun x (Advance.begin y).full := fun y hy => ⟨rfl, hy, sameRun_begin hy⟩
  unfold advance
  split
  · exact .inr ⟨rfl, same _ rfl rfl rfl, same _ rfl rfl rfl⟩
  split
  · exact .inr (hbegin x (same x rfl rfl rfl))
  split
  · exact .inr ⟨rfl, same _ rfl rfl rfl, same _ rfl rfl rfl⟩
  · exact .inr ⟨rfl, same _ rfl rfl rfl, same _ rfl rfl rfl⟩
  · split
    · exact .inr ⟨rfl, same _ rfl rfl rfl, same _ rfl rfl rfl⟩
    · exact .inr (hbegin (flipPhase x) (same _ rfl rfl rfl))
  · split
    · exact .inr ⟨rfl, same _ rfl rfl rfl, same _ rfl rfl rfl⟩
    · split
      · exact .inr (hbegin (flipPhase x) (same _ rfl rfl rfl))
      · split
        · exact .inr (hbegin (flipPhase { x with pulsesLeft := x.pulsesLeft - 1 }) (same _ rfl rfl rfl))
        · exact .inl ⟨rfl, rfl⟩
  · split
    · exact .inr ⟨rfl, same _ rfl rfl rfl, same _ rfl rfl rfl⟩
    · split
      · exact .inr ⟨rfl, same _ rfl rfl rfl, same _ rfl rfl rfl⟩
      · exact .inr ⟨rfl, same _ rfl rfl rfl, same _ rfl rfl rfl⟩

theorem groupHeld_stopped (x : Group) : GroupHeld (stoppedGroup x) := ⟨fun _ => rfl, fun _ => rfl⟩

theorem groupHeld_heldChange {x : Group} (hx : GroupHeld x) (hr : x.running = true) : GroupHeld (heldChange x) := by
  unfold heldChange
  split
  · exact (sameRun_beginPhase x).held hx hr
  · split
    · exact hx
    · rcases advance_cases x with ⟨-, hf⟩ | ⟨-, -, hf⟩
      · rw [hf]
        exact groupHeld_stopped x
      · exact hf.held hx hr

theorem ignitable_iff {s : State} : ignitable s = true ↔ Ignites s.lmc := by
  simp [ignitable, Ignites]

/-- A grant joins the history: it is at this tick, and one of five recorded is dropped (R182). -/
theorem historyHeld_recordGrant {s : State} (h : HistoryHeld s.lmc) : HistoryHeld (recordGrant s).lmc := by
  obtain ⟨hlen, hord, hle⟩ := h
  have hord' : (s.lmc.history ++ [s.lmc.ticks]).Pairwise (· ≤ ·) :=
    List.pairwise_append.mpr ⟨hord, List.pairwise_singleton _ _, by simpa using hle⟩
  have hle' : ∀ n ∈ s.lmc.history ++ [s.lmc.ticks], n ≤ s.lmc.ticks := by
    simpa [or_imp, forall_and] using hle
  unfold recordGrant HistoryHeld
  dsimp only
  split
  · refine ⟨by simp; omega, hord'.tail, fun n hn => hle' n (List.mem_of_mem_tail hn)⟩
  · next hn => exact ⟨Nat.le_of_not_lt hn, hord', hle'⟩

theorem setGroup_get (g k : GroupNo) (x : Group) (s : State) :
    (setGroup g x s).lmc.groups.get k = if k = g then x else s.lmc.groups.get k := by
  simp only [setGroup, get_put]

/-- One group's record replaced, not WAITING before or after. -/
theorem lampsMid_setGroup {g : GroupNo} {x : Group} {s : State} (h : LampsMid B s.lmc)
    (hw : (s.lmc.groups.get g).ign ≠ .waiting) (hx : GroupHeld x) (hxw : x.ign ≠ .waiting) :
    LampsMid B (setGroup g x s).lmc := by
  refine ⟨h.nodup, fun k => ?_, fun k => ?_, fun k => ?_, fun hb => (h.history hb).congr rfl rfl⟩
  · rw [setGroup_get]
    split
    · next hk => exact (h.waiting k).trans (by simp [hk, hw, hxw])
    · exact h.waiting k
  · rw [setGroup_get]
    split
    · exact fun hwait => absurd hwait hxw
    · exact h.runs k
  · rw [setGroup_get]
    split
    · exact hx
    · exact h.held k

theorem lampsKept_setGroup {g : GroupNo} {x : Group} {s : State} (h : LampsKept B s.lmc)
    (hw : (s.lmc.groups.get g).ign ≠ .waiting) (hx : GroupHeld x) (hxw : x.ign ≠ .waiting)
    (hl : B → Ignites s.lmc → GroupLit x) : LampsKept B (setGroup g x s).lmc := by
  refine ⟨lampsMid_setGroup h.toLampsMid hw hx hxw, h.quiet, fun hb hi k => ?_⟩
  rw [setGroup_get]
  split
  · exact hl hb hi
  · exact h.lit hb hi k

theorem lampsKept_recordGrant {s : State} (h : LampsKept B s.lmc) : LampsKept B (recordGrant s).lmc :=
  ⟨⟨h.nodup, h.waiting, h.runs, h.held, fun hb => historyHeld_recordGrant (h.history hb)⟩, h.quiet, h.lit⟩

/-- The head of the ignition queue served: it leaves the queue with its held change made, and is LIT. -/
theorem lampsKept_served {g : GroupNo} {rest : List GroupNo} {s : State} (h : LampsKept B s.lmc)
    (hq : s.lmc.ignQueue = g :: rest) : LampsKept B
      { (setGroup g { heldChange (groupOf s g) with ign := .lit } (recordGrant s)).lmc with ignQueue := rest } := by
  have hwait : (s.lmc.groups.get g).ign = .waiting := (h.waiting g).mp (by simp [hq])
  have hnd : g ∉ rest ∧ rest.Nodup := List.nodup_cons.mp (hq ▸ h.nodup)
  have hget : ∀ k, (put (recordGrant s).lmc.groups g { heldChange (groupOf s g) with ign := .lit }).get k =
      if k = g then { heldChange (groupOf s g) with ign := .lit } else s.lmc.groups.get k := fun k => by
    rw [get_put]
    rfl
  refine ⟨⟨hnd.2, fun k => ?_, fun k => ?_, fun k => ?_,
    fun hb => (historyHeld_recordGrant (h.history hb)).congr rfl rfl⟩, fun hno => ?_, fun hb hi k => ?_⟩
  · show k ∈ rest ↔ ((put (recordGrant s).lmc.groups g _).get k).ign = _
    rw [hget]
    by_cases hk : k = g
    · rw [if_pos hk, hk]
      exact ⟨fun hm => absurd hm hnd.1, fun hm => nomatch hm⟩
    · rw [if_neg hk, ← h.waiting k, hq, List.mem_cons, or_iff_right hk]
  · show ((put (recordGrant s).lmc.groups g _).get k).ign = _ → ((put (recordGrant s).lmc.groups g _).get k).running = _
    rw [hget]
    split
    · exact fun hm => nomatch hm
    · exact h.runs k
  · show GroupHeld ((put (recordGrant s).lmc.groups g _).get k)
    rw [hget]
    split
    · exact groupHeld_heldChange (h.held g) (h.runs g hwait)
    · exact h.held k
  · have := h.quiet hno
    rw [hq] at this
    cases this
  · show GroupLit ((put (recordGrant s).lmc.groups g _).get k)
    rw [hget]
    split
    · exact fun _ _ => nofun
    · exact h.lit hb hi k

theorem lampsKept_serve : ∀ (n : Nat) (s : State), LampsKept B s.lmc → LampsKept B (serveIgnition n s).1.lmc
  | 0, _, h => h
  | n + 1, s, h => by
    unfold serveIgnition
    split
    · exact h
    · next g rest hq =>
      split
      · exact lampsKept_serve n _ (lampsKept_served h hq)
      · exact h

/-- A running group that does not wait, advanced: granted, queued, or shown by its own level. -/
theorem lampsKept_advanceGroup {g : GroupNo} {s : State} (h : LampsKept B s.lmc)
    (hr : (s.lmc.groups.get g).running = true) (hw : (s.lmc.groups.get g).ign ≠ .waiting) :
    LampsKept B (advanceGroup s g).lmc := by
  unfold advanceGroup
  dsimp only
  rcases advance_cases (groupOf s g) with ⟨he, -⟩ | ⟨he, hheld, hfull⟩
  · rw [if_pos he]
    exact lampsKept_stop g s h
  rw [if_neg (by simp [he])]
  have hgf : GroupHeld (advance (groupOf s g)).full := hfull.held (h.held g) hr
  have hgh : GroupHeld (advance (groupOf s g)).held := hheld.held (h.held g) hr
  split
  · next hc =>
    simp only [Bool.and_eq_true] at hc
    have hi := ignitable_iff.mp hc.1.1
    split
    · exact lampsKept_setGroup (lampsKept_recordGrant h) hw hgf (fun hx => nomatch hx) fun _ _ _ _ => nofun
    · have hmid := lampsMid_setGroup h.toLampsMid hw hgh (hheld.ign ▸ hw)
      refine ⟨lampsMid_queueIgnition hmid ?_, fun hno => absurd hi hno, fun hb _ k => ?_⟩
      · rw [setGroup_get, if_pos rfl]
        exact hheld.running.trans hr
      · rw [queueIgnition_get]
        split
        · exact fun _ _ => nofun
        · next hk =>
          rw [setGroup_get, if_neg hk]
          exact h.lit hb hi k
  · next hc =>
    refine lampsKept_setGroup h hw hgf ?_ fun hb hi _ hp => ?_
    · dsimp only
      split
      · exact nofun
      · exact hfull.ign ▸ hw
    · have hp' : 0 < (advance (groupOf s g)).full.level := hp
      have hlevel : 0 < (groupOf s g).level := by
        by_contra hz
        exact hc (by simp [ignitable_iff.mpr hi, hp', Nat.eq_zero_of_not_pos hz])
      have hne : (advance (groupOf s g)).full.level ≠ 0 := Nat.ne_of_gt hp'
      dsimp only
      rw [if_neg (by simp [hne]), hfull.ign]
      exact h.lit hb hi g hr hlevel

theorem advanceGroup_get {g k : GroupNo} (hk : k ≠ g) (s : State) :
    (advanceGroup s g).lmc.groups.get k = s.lmc.groups.get k := by
  have hr : (recordGrant s).lmc.groups = s.lmc.groups := rfl
  unfold advanceGroup
  dsimp only
  split
  · rw [stopGroup_eq, withGroups_get, onlyGroup, if_neg hk]
  · split
    · split
      · rw [setGroup_get, if_neg hk, hr]
      · rw [queueIgnition_get, if_neg hk, setGroup_get, if_neg hk]
    · rw [setGroup_get, if_neg hk]

/-- Each of the groups that a boundary advances still runs, and does not wait, at its turn. -/
theorem lampsKept_advanceAll : ∀ (l : List GroupNo) (s : State), LampsKept B s.lmc → l.Nodup →
    (∀ g ∈ l, (s.lmc.groups.get g).running = true ∧ (s.lmc.groups.get g).ign ≠ .waiting) →
    LampsKept B (l.foldl advanceGroup s).lmc
  | [], _, h, _, _ => h
  | g :: l, s, h, hn, hl => by
    rw [List.nodup_cons] at hn
    obtain ⟨hr, hw⟩ := hl g (by simp)
    refine lampsKept_advanceAll l _ (lampsKept_advanceGroup h hr hw) hn.2 fun k hk => ?_
    have hkg : k ≠ g := fun e => hn.1 (e ▸ hk)
    rw [advanceGroup_get hkg]
    exact hl k (by simp [hk])

theorem requestOrder_nodup (s : State) : (requestOrder s).Nodup := by
  refine List.nodup_append.mpr ⟨allGroups_nodup.filter _, allGroups_nodup.filter _, fun a ha b hb e => ?_⟩
  subst e
  simp only [List.mem_filter, Bool.not_eq_true'] at ha hb
  exact absurd ha.2 (by simp [hb.2])

theorem lampsKept_advanceFrame (s : State) (h : LampsKept B s.lmc) : LampsKept B (advanceFrame s).lmc := by
  have h0 : LampsKept B { s with lmc := { s.lmc with scanRows := s.cth.settings.rows, boundaryDue := false } }.lmc :=
    ⟨⟨h.nodup, h.waiting, h.runs, h.held, fun hb => (h.history hb).congr rfl rfl⟩, h.quiet, h.lit⟩
  unfold advanceFrame
  dsimp only
  generalize ({ s with lmc := { s.lmc with scanRows := s.cth.settings.rows, boundaryDue := false } } : State) = t at h0
  have h1 : LampsKept B (if ignitable t then serveIgnition s.lmc.ignQueue.length t else (t, [])).1.lmc := by
    split
    · exact lampsKept_serve _ t h0
    · exact h0
  generalize (if ignitable t then serveIgnition s.lmc.ignQueue.length t else (t, [])) = r at h1
  refine keep_foldl (P := fun s => LampsKept B s.lmc) (fun k u hu => keep_lampChain lampsKept_closed k u hu) _ _
    (lampsKept_advanceAll _ _ h1 ((requestOrder_nodup r.1).filter _) fun g hg => ?_)
  simp only [List.mem_filter, advances, Bool.and_eq_true, bne_iff_ne, groupOf] at hg
  exact ⟨hg.2.1.1, hg.2.1.2⟩

theorem lampsKept_tick (s : State) (h : LampsKept B s.lmc) : LampsKept B (tickLmc s).lmc := by
  have hle : B → ∀ n ∈ s.lmc.history, n ≤ s.lmc.ticks + 1 := fun hb n hn => Nat.le_succ_of_le ((h.history hb).2.2 n hn)
  have hh : ∀ l : Lmc, l.history = s.lmc.history → l.ticks = s.lmc.ticks + 1 → B → HistoryHeld l := fun l e1 e2 hb => by
    rw [HistoryHeld, e1, e2]
    exact ⟨(h.history hb).1, (h.history hb).2.1, hle hb⟩
  unfold tickLmc driveRow advanceScan
  dsimp only
  split
  · exact ⟨⟨h.nodup, h.waiting, h.runs, h.held, hh _ rfl rfl⟩, h.quiet, h.lit⟩
  · exact ⟨⟨h.nodup, h.waiting, h.runs, h.held, hh _ rfl rfl⟩, h.quiet, h.lit⟩

/-! ## Every step -/

theorem lampsKept_lmcOps (B : Prop) : LmcOps (fun s => LampsKept B s.lmc) where
  toLampClosed := lampsKept_closed
  cell := fun _ _ _ h => ⟨⟨h.nodup, h.waiting, h.runs, h.held, h.history⟩, h.quiet, h.lit⟩
  group := fun g _ w s _ h => lampsKept_storeGroup g w s h
  preset := fun _ _ _ h => ⟨⟨h.nodup, h.waiting, h.runs, h.held, h.history⟩, h.quiet, h.lit⟩
  scene := fun _ _ _ h => ⟨⟨h.nodup, h.waiting, h.runs, h.held, h.history⟩, h.quiet, h.lit⟩
  pending := lampsKept_pending
  hold := lampsKept_hold
  supplyOn := lampsKept_supplyOn
  supplyOff := lampsKept_supplyOff
  rampDone := lampsKept_rampDone
  rampTimeout := lampsKept_rampTimeout
  goodLost := lampsKept_goodLost
  line := lampsKept_alarmLine
  clears := lampsKept_overrideClears
  tick := lampsKept_tick
  boundary := fun s h => keep_ite (P := fun s => LampsKept B s.lmc) (lampsKept_advanceFrame s h) h

theorem lampsKept_cth (B : Prop) : CthOps (fun s => LampsKept B s.lmc) := cthOps_of fun _ _ h => h

theorem lampsKept_ops (B : Prop) : OpsClosed (fun s => LampsKept B s.lmc) :=
  (lampsKept_rest B).ops (lampsKept_cacheFree B).toCacheClosed (lampsKept_lmcOps B) (lampsKept_cacheFree B).ops (lampsKept_cth B)

theorem lampsKept_event (B : Prop) : EventClosed (fun s => LampsKept B s.lmc) where
  toOpsClosed := lampsKept_ops B
  toRouteSteps := (lampsKept_rest B).steps (lampsKept_cth B)
  answered := answered_of (lampsKept_ops B).own ((lampsKept_rest B).steps (lampsKept_cth B)) fun _ _ h => h
  out := fun _ _ h => h

theorem lampsKept_reset (B : Prop) : LampsKept B Reset.lmc :=
  ⟨⟨.nil, by decide, by decide, by unfold GroupHeld; decide, fun _ => ⟨Nat.zero_le _, .nil, by decide⟩⟩, fun _ => rfl,
    fun _ hi => (nomatch hi.1)⟩

theorem lampsKept_step (B : Prop) : StepClosed (fun s => LampsKept B s.lmc) :=
  (lampsKept_event B).stepClosed ((lampsKept_rest B).slots (lampsKept_event B) (fun _ _ h => h) lampsKept_alarmFlag) {
    queue := fun _ _ h => h
    stop := fun _ _ _ h => h
    warmTick := fun _ _ h => h
    fresh := fun _ _ _ _ => lampsKept_reset B
    device := fun _ _ h => h }

/-- Settles O57: what is kept of the queue and what is kept of the budget are one invariant with the latter switched off or on. -/
theorem ignitionStaysKept : Obligations.IgnitionStaysKept := by
  unfold Obligations.IgnitionStaysKept
  refine ⟨fun s t h hs => ?_, fun s t hb h hs => ?_⟩
  · exact lampsKept_false_iff.mp ((lampsKept_step False).step (lampsKept_false_iff.mpr h) hs)
  · exact (lampsKept_true_iff.mp ((lampsKept_step True).step (lampsKept_true_iff.mpr ⟨h, hb⟩) hs)).2

end Sys2Proof.Proofs
end

section
/-! PROOFS. The fields of records and parameters: what their bytes decode to, when they are refused, and that what is read decodes
back (R27). -/

namespace Sys2Proof.Proofs

open Sys2Proof Sys2Proof.Machine Sys2Proof.Laws

/-! ## Bytes, selections and codes -/

theorem byte_eq_zero_iff {b : Byte} : b = 0 ↔ b.toNat = 0 :=
  ⟨fun h => h ▸ rfl, fun h => BitVec.eq_of_toNat_eq h⟩

theorem yes_eq_decide (b : Byte) : yes b = decide (b.toNat ≠ 0) := by
  rw [yes_eq, Bool.eq_iff_iff, bne_iff_ne, decide_eq_true_iff, ne_eq, byte_eq_zero_iff]

theorem asFin_ofNat {n k : Nat} [NeZero n] (h : k < n) : asFin n k = some (Fin.ofNat n k) := by
  rw [asFin_lt h]
  exact congrArg some (Fin.ext (Nat.mod_eq_of_lt h).symm)

theorem decodeOpt_optBytes {n : Nat} (hn : n ≤ 256) (x : Option (Fin n)) :
    decodeOpt n ((optBytes x).getD 0 0) ((optBytes x).getD 1 0) = some x := by
  cases x with
  | none => rfl
  | some k =>
    show (asFin n (byte k.val).toNat).map some = some (some k)
    rw [asFin_byte k hn, Option.map_some]

theorem optBytes_eq {n : Nat} (x : Option (Fin n)) : optBytes x = [(optBytes x).getD 0 0, (optBytes x).getD 1 0] := by
  cases x <;> rfl

theorem decodeRendering_code (r : Rendering) : decodeRendering r.code = some r := by cases r <;> rfl

theorem decodeMode_code (m : Mode) : decodeMode m.code = some m := by cases m <;> rfl

theorem decodeMask_maskByte (m : ZoneMask) : decodeMask (maskByte m) = some m := by
  have hlt : m.toNat < 16 := m.isLt
  have hb : (maskByte m).toNat = m.toNat := byte_toNat_of_lt (by omega)
  rw [decodeMask, hb, if_pos hlt]
  simp

theorem decodeRendering_of_code {b : Byte} {r : Rendering} (h : r.code.toNat = b.toNat) : decodeRendering b = some r := by
  rw [← BitVec.eq_of_toNat_eq h, decodeRendering_code]

theorem decodeMode_of_code {b : Byte} {m : Mode} (h : m.code.toNat = b.toNat) : decodeMode b = some m := by
  rw [← BitVec.eq_of_toNat_eq h, decodeMode_code]

theorem decodeRendering_refused {b : Byte} (h : 2 < b.toNat) : decodeRendering b = none := by
  cases hd : decodeRendering b with
  | none => rfl
  | some r =>
    unfold decodeRendering at hd
    split at hd
    case h_4 => cases hd
    all_goals omega

theorem decodeMode_refused {b : Byte} (h : 4 < b.toNat) : decodeMode b = none := by
  cases hd : decodeMode b with
  | none => rfl
  | some r =>
    unfold decodeMode at hd
    split at hd
    case h_6 => cases hd
    all_goals omega

/-! ## Lists of fields -/

theorem mapM_some_of {α β : Type} {f : α → Option β} {g : α → β} : ∀ (l : List α), (∀ x ∈ l, f x = some (g x)) →
    l.mapM f = some (l.map g)
  | [], _ => rfl
  | x :: l, h => by
    rw [List.mapM_cons, h x (by simp), mapM_some_of l fun y hy => h y (by simp [hy])]
    rfl

theorem mapM_none_of {α β : Type} {f : α → Option β} : ∀ (l : List α), (∃ x ∈ l, f x = none) → l.mapM f = none
  | [], h => by simp at h
  | x :: l, h => by
    rw [List.mapM_cons]
    cases hx : f x with
    | none => rfl
    | some y =>
      have hl : ∃ z ∈ l, f z = none := by simpa [hx] using h
      rw [mapM_none_of l hl]
      rfl

theorem decodeLangs_accepted {n : Nat} {bs : List Byte} (h : ∀ b ∈ bs.take n, b.toNat < 12) :
    decodeLangs n bs = some ((bs.take n).map fun b => Fin.ofNat 12 b.toNat) :=
  mapM_some_of _ fun b hb => asFin_ofNat (h b hb)

theorem decodeLangs_refused {n : Nat} {bs : List Byte} (h : ∃ b ∈ bs.take n, 11 < b.toNat) : decodeLangs n bs = none :=
  mapM_none_of _ (by
    obtain ⟨b, hb, hl⟩ := h
    exact ⟨b, hb, asFin_ge hl⟩)

/-- The four positions of a list of languages as its bytes give them. -/
def langPositions (ls : List Lang) : List Byte := (ls.map fun l => byte l.val) ++ List.replicate (4 - ls.length) 0

theorem langPositions_eq {ls : List Lang} (h : ls.length ≤ 4) : langPositions ls =
    [(langPositions ls).getD 0 0, (langPositions ls).getD 1 0, (langPositions ls).getD 2 0, (langPositions ls).getD 3 0] := by
  match ls, h with
  | [], _ => rfl
  | [_], _ => rfl
  | [_, _], _ => rfl
  | [_, _, _], _ => rfl
  | [_, _, _, _], _ => rfl

theorem decodeLangs_langPositions {ls : List Lang} : decodeLangs ls.length (langPositions ls) = some ls := by
  have htake : (langPositions ls).take ls.length = ls.map fun l => byte l.val := List.take_left' (by simp)
  have hget : ∀ l ∈ ls, ((fun b : Byte => asFin 12 b.toNat) ∘ fun l : Lang => byte l.val) l = some (id l) := fun l _ =>
    asFin_byte l (by decide)
  rw [decodeLangs, htake, List.mapM_map, mapM_some_of ls hget, List.map_id]

/-- A record as the list of its bytes by number. -/
theorem eq_map_getD {r : List Byte} {n : Nat} (h : r.length = n) : r = (List.range n).map fun k => r.getD k 0 := by
  subst h
  apply List.ext_getElem
  · simp
  · intro i h1 h2
    simp [List.getD_eq_getElem?_getD, List.getElem?_eq_getElem h1]

/-! ## Records of fixed fields -/

theorem decodeSeat_accepted {z e p l v d c sp : Byte} (hz : z.toNat < 4) (hl : l.toNat < 12) :
    decodeSeat [z, e, p, l, v, d, c, sp] = some
      { zone := ⟨z.toNat, hz⟩, enabled := yes e, lang := ⟨l.toNat, hl⟩,
        volume := min 15 v.toNat, defVolume := min 15 d.toNat, cap := min 24 c.toNat } := by
  simp only [decodeSeat, asFin_lt hz, asFin_lt hl]

theorem decodeSeat_refused {z e p l v d c sp : Byte} (h : 3 < z.toNat ∨ 11 < l.toNat) :
    decodeSeat [z, e, p, l, v, d, c, sp] = none := by
  rcases h with hz | hl
  · simp only [decodeSeat, asFin_ge hz]
  · cases hz : asFin 4 z.toNat <;> simp only [decodeSeat, hz, asFin_ge hl]

theorem decodeZone_accepted {c b l t p v x y : Byte} (hc : c.toNat ≤ 3) (hl : l.toNat ≤ 11) (hv : p.toNat = 0 ∨ v.toNat ≤ 11) :
    decodeZone [c, b, l, t, p, v, x, y] = some
      { channel := Fin.ofNat 4 c.toNat, boost := min 12 b.toNat, defLang := Fin.ofNat 12 l.toNat, trim := min 60 t.toNat,
        program := if p.toNat = 0 then none else some (Fin.ofNat 12 v.toNat) } := by
  have hv' : p = 0 ∨ v.toNat < 12 := hv.imp byte_eq_zero_iff.mpr Nat.lt_succ_of_le
  simp only [decodeZone, asFin_ofNat (Nat.lt_succ_of_le hc), asFin_ofNat (Nat.lt_succ_of_le hl), decodeOpt_accepted hv',
    byte_eq_zero_iff]

theorem decodeZone_refused {c b l t p v x y : Byte} (h : 3 < c.toNat ∨ 11 < l.toNat ∨ (p.toNat ≠ 0 ∧ 11 < v.toNat)) :
    decodeZone [c, b, l, t, p, v, x, y] = none := by
  rcases h with hc | hl | ⟨hp, hv⟩
  · simp only [decodeZone, asFin_ge hc]
  · cases hc : asFin 4 c.toNat <;> simp only [decodeZone, hc, asFin_ge hl]
  · have ho : decodeOpt 12 p v = none := decodeOpt_refused (fun e => hp (byte_eq_zero_iff.mp e)) hv
    cases hc : asFin 4 c.toNat <;> cases hl : asFin 12 l.toNat <;> simp only [decodeZone, hc, hl, ho]

theorem decodeLanguage_accepted {own : Lang} {o p f x : Byte} (h : p.toNat = 0 ∨ f.toNat ≤ 11) :
    decodeLanguage own [o, p, f, x] = some
      { offered := decide (o.toNat ≠ 0),
        fallback := if p.toNat = 0 ∨ f.toNat = own.val then none else some (Fin.ofNat 12 f.toNat) } := by
  have h' : p = 0 ∨ f.toNat < 12 := h.imp byte_eq_zero_iff.mpr Nat.lt_succ_of_le
  simp only [decodeLanguage, decodeOpt_accepted h', byte_eq_zero_iff, yes_eq_decide]
  by_cases hp : p.toNat = 0
  · simp [hp]
  · have hf : f.toNat < 12 := Nat.lt_succ_of_le (h.resolve_left hp)
    have he : (Fin.ofNat 12 f.toNat = own) ↔ f.toNat = own.val := by
      rw [Fin.ext_iff, Fin.val_ofNat, Nat.mod_eq_of_lt hf]
    simp only [hp, if_false, Option.some.injEq, he, false_or]

theorem decodeLanguage_refused {own : Lang} {o p f x : Byte} (h : p.toNat ≠ 0 ∧ 11 < f.toNat) :
    decodeLanguage own [o, p, f, x] = none := by
  have ho : decodeOpt 12 p f = none := decodeOpt_refused (fun e => h.1 (byte_eq_zero_iff.mp e)) h.2
  simp only [decodeLanguage, ho]

theorem decodeCell_accepted {p g : Byte} (h : p.toNat = 0 ∨ g.toNat ≤ 23) :
    decodeCell [p, g] = some (if p.toNat = 0 then none else some (Fin.ofNat 24 g.toNat)) := by
  simp only [decodeCell, decodeOpt_accepted (h.imp byte_eq_zero_iff.mpr Nat.lt_succ_of_le), byte_eq_zero_iff]

theorem decodeCell_refused {p g : Byte} (h : p.toNat ≠ 0 ∧ 23 < g.toNat) : decodeCell [p, g] = none :=
  decodeOpt_refused (fun e => h.1 (byte_eq_zero_iff.mp e)) h.2

theorem decodePreset_accepted {m on off a b p f : Byte} {mode : Mode} (h : mode.code.toNat = m.toNat) :
    decodePreset [m, on, off, a, b, p, f] = some
      { mode := mode, levelOn := min 63 on.toNat, levelOff := min 63 off.toNat,
        onLen := max 1 a.toNat, offLen := max 1 b.toNat, pulseCount := max 1 p.toNat, fadeStep := max 1 f.toNat } := by
  simp only [decodePreset, decodePattern, decodeMode_of_code h, Option.map_some, atLeast1_eq]

theorem decodePreset_refused {m on off a b p f : Byte} (h : 4 < m.toNat) : decodePreset [m, on, off, a, b, p, f] = none := by
  simp only [decodePreset, decodePattern, decodeMode_refused h, Option.map_none]

theorem decodeSource_refused {src mask threshold chain : Byte} (h : 4 < src.toNat ∨
    (src.toNat = 2 ∧ (15 < mask.toNat ∨ 3 < threshold.toNat)) ∨ (src.toNat = 4 ∧ 23 < chain.toNat)) :
    decodeSource src mask threshold chain = none := by
  unfold decodeSource
  rcases h with h | ⟨h, h2⟩ | ⟨h, h4⟩
  · split
    case h_6 => rfl
    all_goals omega
  · rw [h]
    rcases h2 with hm | ht
    · simp only [decodeMask_refused hm]
    · cases hm : decodeMask mask <;> simp only [asFin_ge ht]
  · rw [h]
    simp only [asFin_ge h4, Option.map_none]

theorem decodeGroup_refused {m on off a b pp pa pb pulses fade src mask thr chain fo ho sa : Byte} (h : 4 < m.toNat ∨
    4 < src.toNat ∨ (src.toNat = 2 ∧ (15 < mask.toNat ∨ 3 < thr.toNat)) ∨ (src.toNat = 4 ∧ 23 < chain.toNat)) :
    decodeGroup [m, on, off, a, b, pp, pa, pb, pulses, fade, src, mask, thr, chain, fo, ho, sa] = none := by
  rcases h with hm | hs
  · simp only [decodeGroup, decodePattern, decodeMode_refused hm, Option.map_none]
  · cases hp : decodePattern m on off a b pulses fade <;> simp only [decodeGroup, hp, decodeSource_refused hs]

theorem decodeSettings_refused {t d0 d1 d2 d3 h1 h0 g1 g0 j1 j0 r1 r0 rows cp cv cr ap av n a b c d : Byte}
    (h : (rows.toNat ≠ 4 ∧ rows.toNat ≠ 6 ∧ rows.toNat ≠ 8) ∨ (cp ≠ 0 ∧ 127 < cv.toNat) ∨ (ap ≠ 0 ∧ 127 < av.toNat) ∨
      2 < cr.toNat ∨ n.toNat < 1 ∨ 4 < n.toNat ∨ (∃ k ∈ [a, b, c, d].take n.toNat, 11 < k.toNat)) :
    decodeSettings [t, d0, d1, d2, d3, h1, h0, g1, g0, j1, j0, r1, r0, rows, cp, cv, cr, ap, av, n, a, b, c, d] = none := by
  simp only [decodeSettings]
  split
  · rfl
  next hrows =>
  split
  · rfl
  next hn =>
  split
  · next hc hr ha hl =>
    rcases h with h | h | h | h | h | h | h
    · exact absurd h hrows
    · rw [decodeOpt_refused h.1 h.2] at hc
      cases hc
    · rw [decodeOpt_refused h.1 h.2] at ha
      cases ha
    · rw [decodeRendering_refused h] at hr
      cases hr
    · exact absurd (.inl h) hn
    · exact absurd (.inr h) hn
    · rw [decodeLangs_refused h] at hl
      cases hl
  · rfl

theorem decodeSettings_accepted {t d0 d1 d2 d3 h1 h0 g1 g0 j1 j0 r1 r0 rows cp cv cr ap av n a b c d : Byte} {r : Rendering}
    (hrows : rows.toNat = 4 ∨ rows.toNat = 6 ∨ rows.toNat = 8) (hc : cp = 0 ∨ cv.toNat < 128) (ha : ap = 0 ∨ av.toNat < 128)
    (hr : decodeRendering cr = some r) (hn1 : 1 ≤ n.toNat) (hn4 : n.toNat ≤ 4)
    (hl : ∀ k ∈ [a, b, c, d].take n.toNat, k.toNat < 12) :
    decodeSettings [t, d0, d1, d2, d3, h1, h0, g1, g0, j1, j0, r1, r0, rows, cp, cv, cr, ap, av, n, a, b, c, d] = some
      { trim := min 24 t.toNat, duck := #v[min 121 d0.toNat, min 121 d1.toNat, min 121 d2.toNat, min 121 d3.toNat],
        hang := min 1000 (be16 h1 h0), gap := min 2000 (be16 g1 g0), jump := clamp 10 1000 (be16 j1 j0),
        ramp := clamp 16 1000 (be16 r1 r0), rows := rows.toNat,
        chime := if cp = 0 then none else some (Fin.ofNat 128 cv.toNat), chimeRendering := r,
        alarm := if ap = 0 then none else some (Fin.ofNat 128 av.toNat),
        speakers := ([a, b, c, d].take n.toNat).map fun k => Fin.ofNat 12 k.toNat } := by
  have hrows' : ¬(rows.toNat ≠ 4 ∧ rows.toNat ≠ 6 ∧ rows.toNat ≠ 8) := by omega
  have hn' : ¬(n.toNat < 1 ∨ 4 < n.toNat) := by omega
  simp only [decodeSettings, if_neg hrows', if_neg hn', decodeOpt_accepted hc, decodeOpt_accepted ha, hr,
    decodeLangs_accepted hl]

end Sys2Proof.Proofs
end

section
/-! PROOFS. Records of a list of fields: the noise curve, cues, phrases, clips and scenes, and what each table's reading decodes
back to (R27). -/

namespace Sys2Proof.Proofs

open Sys2Proof Sys2Proof.Machine Sys2Proof.Laws

/-! ## The noise curve (R60) -/

/-- The point of a curve's record by its number. -/
def pointAt (bs : List Byte) (i : Nat) : CurvePoint :=
  { speed := (bs.getD (2 * i) 0).toNat, boost := min 24 (bs.getD (2 * i + 1) 0).toNat }

theorem decodePoints_eq : ∀ (n : Nat) (bs : List Byte), bs.length = 2 * n →
    decodePoints bs = (List.range n).map (pointAt bs)
  | 0, bs, h => by
    have : bs = [] := List.eq_nil_of_length_eq_zero h
    subst this
    rfl
  | n + 1, s :: b :: rest, h => by
    have hr : rest.length = 2 * n := by simp only [List.length_cons] at h; omega
    rw [decodePoints, decodePoints_eq n rest hr, List.range_succ_eq_map, List.map_cons, List.map_map]
    rfl
  | n + 1, [], h => by simp at h
  | n + 1, [_], h => by simp only [List.length_singleton] at h; omega

theorem risingSpeeds_iff : ∀ ps : List CurvePoint, risingSpeeds ps = true ↔
    ∀ i (h : i + 1 < ps.length), (ps[i]).speed ≤ (ps[i + 1]).speed
  | [] => by simp [risingSpeeds]
  | [_] => by simp [risingSpeeds]
  | a :: b :: rest => by
    have ih := risingSpeeds_iff (b :: rest)
    simp only [risingSpeeds, Bool.and_eq_true, decide_eq_true_iff, ih]
    constructor
    · rintro ⟨h0, hs⟩ i hi
      cases i with
      | zero => exact h0
      | succ i => exact hs i (by simpa using hi)
    · intro h
      exact ⟨h 0 (by simp), fun i hi => h (i + 1) (by simpa using hi)⟩

theorem risingSpeeds_map (bs : List Byte) (n : Nat) : risingSpeeds ((List.range (n + 1)).map (pointAt bs)) = true ↔
    ∀ i < n, (bs.getD (2 * i) 0).toNat ≤ (bs.getD (2 * i + 2) 0).toNat := by
  rw [risingSpeeds_iff]
  simp only [List.length_map, List.length_range, List.getElem_map, List.getElem_range, Nat.add_lt_add_iff_right, pointAt]
  exact Iff.rfl

theorem getD_take {bs : List Byte} {n k : Nat} (h : k < n) : (bs.take n).getD k 0 = bs.getD k 0 := by
  simp [List.getD_eq_getElem?_getD, h]

theorem decodeCurve_points {bs : List Byte} (h : bs.length = 17) :
    decodePoints (bs.take 16) = (List.range 8).map (pointAt bs) := by
  rw [decodePoints_eq 8 (bs.take 16) (by rw [List.length_take, h]; rfl)]
  apply List.map_congr_left
  intro i hi
  have hi8 : i < 8 := List.mem_range.mp hi
  rw [pointAt, getD_take (by omega), getD_take (by omega), pointAt]

theorem decodeCurve_accepted {bs : List Byte} (h : bs.length = 17)
    (hr : ∀ i < 7, (bs.getD (2 * i) 0).toNat ≤ (bs.getD (2 * i + 2) 0).toNat) :
    decodeCurve bs = some (Vector.ofFn fun i => pointAt bs i.val) := by
  have hrise : (decide (bs.length = 17) && risingSpeeds (decodePoints (bs.take 16))) = true := by
    rw [decodeCurve_points h, (risingSpeeds_map bs 7).mpr hr, h]
    rfl
  rw [decodeCurve, if_pos (by simpa using hrise), decodeCurve_points h]
  rfl

theorem decodeCurve_refused {bs : List Byte} (h : bs.length = 17)
    (hr : ∃ i < 7, (bs.getD (2 * i + 2) 0).toNat < (bs.getD (2 * i) 0).toNat) : decodeCurve bs = none := by
  have hrise : risingSpeeds (decodePoints (bs.take 16)) = false := by
    rw [decodeCurve_points h, Bool.eq_false_iff, ne_eq, risingSpeeds_map bs 7]
    obtain ⟨i, hi, hl⟩ := hr
    exact fun hall => absurd (hall i hi) (Nat.not_le.mpr hl)
  rw [decodeCurve]
  rw [if_neg (by simp [hrise])]

/-! ## Phrases (R108) -/

/-- The item of a phrase's record by its number. -/
def itemAt (bs : List Byte) (i : Nat) : Item :=
  { family := be16 (bs.getD (3 * i) 0) (bs.getD (3 * i + 1) 0), neutral := yes (bs.getD (3 * i + 2) 0) }

theorem decodeItems_accepted : ∀ (n : Nat) (bs : List Byte), 3 * n ≤ bs.length → (∀ i < n, (itemAt bs i).family ≤ 1023) →
    decodeItems n bs = some ((List.range n).map (itemAt bs))
  | 0, _, _, _ => rfl
  | n + 1, h :: l :: f :: rest, hlen, hall => by
    have h0 : ¬1023 < be16 h l := Nat.not_lt.mpr (hall 0 (Nat.succ_pos n))
    have hr : 3 * n ≤ rest.length := by simp only [List.length_cons] at hlen; omega
    rw [decodeItems, if_neg h0, decodeItems_accepted n rest hr fun i hi => hall (i + 1) (Nat.succ_lt_succ hi),
      List.range_succ_eq_map, List.map_cons, List.map_map]
    rfl
  | n + 1, [], hlen, _ => by simp at hlen
  | n + 1, [_], hlen, _ => by simp only [List.length_singleton] at hlen; omega
  | n + 1, [_, _], hlen, _ => by simp only [List.length_cons, List.length_nil] at hlen; omega

theorem decodeItems_refused : ∀ (n : Nat) (bs : List Byte), (∃ i < n, 1023 < (itemAt bs i).family) → decodeItems n bs = none
  | 0, _, h => by simp at h
  | n + 1, h :: l :: f :: rest, hex => by
    rw [decodeItems]
    split
    · rfl
    · next h0 =>
      obtain ⟨i, hi, hl⟩ := hex
      cases i with
      | zero => exact absurd hl h0
      | succ i => rw [decodeItems_refused n rest ⟨i, Nat.lt_of_succ_lt_succ hi, hl⟩, Option.map_none]
  | n + 1, [], _ => rfl
  | n + 1, [_], _ => rfl
  | n + 1, [_, _], _ => rfl

theorem decodePhrase_accepted {r : List Byte} (hlen : r.length = 25) (hn : (r.getD 0 0).toNat ≤ 8)
    (hall : ∀ i < (r.getD 0 0).toNat, be16 (r.getD (3 * i + 1) 0) (r.getD (3 * i + 2) 0) ≤ 1023) :
    decodePhrase r = some ((List.range (r.getD 0 0).toNat).map fun i =>
      { family := be16 (r.getD (3 * i + 1) 0) (r.getD (3 * i + 2) 0), neutral := yes (r.getD (3 * i + 3) 0) }) := by
  match r, hlen with
  | cnt :: items, hlen =>
    have hn' : cnt.toNat ≤ 8 := hn
    have hlen' : 3 * cnt.toNat ≤ items.length := by simp only [List.length_cons] at hlen; omega
    rw [decodePhrase, if_neg (Nat.not_lt.mpr hn'), decodeItems_accepted _ items hlen' hall]
    rfl

theorem decodePhrase_refused {r : List Byte} (h : 8 < (r.getD 0 0).toNat ∨
    ∃ i < (r.getD 0 0).toNat, 1023 < be16 (r.getD (3 * i + 1) 0) (r.getD (3 * i + 2) 0)) : decodePhrase r = none := by
  cases r with
  | nil => rfl
  | cons cnt items =>
    rw [decodePhrase]
    split
    · rfl
    · next hn => exact decodeItems_refused _ items (h.resolve_left hn)

/-! ## Clips (R146) -/

/-- The checks of a clip's fields. -/
def clipFits (c : Clip) : Prop :=
  c.family ≤ 1023 ∧ (c.language ≤ 11 ∨ c.language = 15) ∧ c.first ≤ 4095 ∧ 1 ≤ c.length ∧
    c.length ≤ 524288 ∧ c.first + (c.length + 2047) / 2048 - 1 ≤ 4095

theorem decodeClip_accepted {p f1 f0 l s1 s0 n2 n1 n0 : Byte} {c : Clip}
    (hc : c = { family := be16 f1 f0, language := l.toNat, first := be16 s1 s0, length := be24 n2 n1 n0 })
    (h : p.toNat = 0 ∨ clipFits c) :
    decodeClip [p, f1, f0, l, s1, s0, n2, n1, n0] = some (if p.toNat = 0 then none else some c) := by
  subst hc
  by_cases hp : p.toNat = 0
  · simp only [decodeClip, yes_eq_decide, hp, ne_eq, not_true_eq_false, decide_false, Bool.not_false, if_true]
  · have hf := h.resolve_left hp
    simp only [decodeClip, yes_eq_decide, ne_eq, hp, not_false_eq_true, decide_true, Bool.not_true, Bool.false_eq_true, if_false]
    exact if_pos hf

theorem decodeClip_refused {p f1 f0 l s1 s0 n2 n1 n0 : Byte} (hp : p.toNat ≠ 0)
    (h : ¬clipFits { family := be16 f1 f0, language := l.toNat, first := be16 s1 s0, length := be24 n2 n1 n0 }) :
    decodeClip [p, f1, f0, l, s1, s0, n2, n1, n0] = none := by
  simp only [decodeClip, yes_eq_decide, ne_eq, hp, not_false_eq_true, decide_true, Bool.not_true, Bool.false_eq_true, if_false]
  exact if_neg h

/-! ## Scenes (R176) -/

/-- The setting of a byte in range. -/
def settingOf (b : Byte) : SceneSetting :=
  if b.toNat = 0 then .leave else if b.toNat = 1 then .stop else .load (Fin.ofNat 32 (b.toNat - 2))

theorem decodeSetting_accepted {b : Byte} (h : b.toNat ≤ 33) : decodeSetting b = some (settingOf b) := by
  unfold decodeSetting settingOf
  split
  · next e => rw [if_pos e]
  · next e => rw [if_neg (by omega), if_pos e]
  · next n e => rw [if_neg (by omega), if_neg (by omega), e, asFin_ofNat (by omega), Option.map_some]; rfl

theorem decodeSetting_refused {b : Byte} (h : 33 < b.toNat) : decodeSetting b = none := by
  unfold decodeSetting
  split
  · omega
  · omega
  · next n e => rw [asFin_ge (by omega), Option.map_none]

theorem decodeScene_accepted {r : List Byte} (hlen : r.length = 24) (h : ∀ i < 24, (r.getD i 0).toNat ≤ 33) :
    decodeScene r = some (Vector.ofFn fun g => settingOf (r.getD g.val 0)) := by
  have hall : ∀ b ∈ r, decodeSetting b = some (settingOf b) := fun b hb => by
    obtain ⟨i, hi, rfl⟩ := List.getElem_of_mem hb
    have hfit := h i (by omega)
    rw [List.getD_eq_getElem?_getD, List.getElem?_eq_getElem hi] at hfit
    exact decodeSetting_accepted hfit
  rw [decodeScene, if_neg (by simp [hlen]), mapM_some_of r hall, Option.map_some]
  refine congrArg some (table_ext fun g => ?_)
  have hg : g.val < r.length := by omega
  rw [get_ofFn, get_ofFn, List.getD_eq_getElem?_getD, List.getD_eq_getElem?_getD, List.getElem?_map,
    List.getElem?_eq_getElem hg]
  rfl

theorem decodeScene_refused {r : List Byte} (hlen : r.length = 24) (h : ∃ i < 24, 33 < (r.getD i 0).toNat) :
    decodeScene r = none := by
  obtain ⟨i, hi, hl⟩ := h
  have hi' : i < r.length := by omega
  rw [List.getD_eq_getElem?_getD, List.getElem?_eq_getElem hi'] at hl
  rw [decodeScene, if_neg (by simp [hlen]), mapM_none_of r ⟨r[i], List.getElem_mem hi', decodeSetting_refused hl⟩, Option.map_none]

/-! ## Cues (R89, R90) -/

theorem decodeCue_of_action {t1 t0 lp l1 l0 kind phrase prio mask rend cnt a b c d scene x : Byte} {act : CueAction}
    (hlatest : lp.toNat = 0 ∨ be16 t1 t0 ≤ be16 l1 l0)
    (hact : decodeCueAction kind phrase prio mask rend cnt [a, b, c, d] scene = some act) :
    decodeCue [t1, t0, lp, l1, l0, kind, phrase, prio, mask, rend, cnt, a, b, c, d, scene, x] = some
      { trigger := be16 t1 t0, latest := if lp.toNat = 0 then none else some (be16 l1 l0), action := act,
        state := .pending } := by
  have hcheck : ¬((yes lp && decide (be16 l1 l0 < be16 t1 t0)) = true) := by
    simp only [yes_eq_decide, Bool.and_eq_true, decide_eq_true_iff]
    omega
  simp only [decodeCue, if_neg hcheck, hact]
  simp only [yes_eq_decide, decide_eq_true_iff, ne_eq, ite_not]

theorem decodeCue_refused {t1 t0 lp l1 l0 kind phrase prio mask rend cnt a b c d scene x : Byte}
    (h : (lp.toNat ≠ 0 ∧ be16 l1 l0 < be16 t1 t0) ∨
      decodeCueAction kind phrase prio mask rend cnt [a, b, c, d] scene = none) :
    decodeCue [t1, t0, lp, l1, l0, kind, phrase, prio, mask, rend, cnt, a, b, c, d, scene, x] = none := by
  rcases h with ⟨hl, hlt⟩ | h
  · have hcheck : (yes lp && decide (be16 l1 l0 < be16 t1 t0)) = true := by
      rw [yes_eq_decide, Bool.and_eq_true, decide_eq_true_iff, decide_eq_true_iff]
      exact ⟨hl, hlt⟩
    simp only [decodeCue, if_pos hcheck]
  · simp only [decodeCue, h, ite_self]

theorem decodeCueAction_refused {kind phrase prio mask rend cnt scene : Byte} {langs : List Byte}
    (h : 5 < kind.toNat ∨
      (kind.toNat = 0 ∧ (127 < phrase.toNat ∨ 3 < prio.toNat ∨ 15 < mask.toNat ∨ 2 < rend.toNat ∨ 4 < cnt.toNat ∨
        ∃ b ∈ langs.take cnt.toNat, 11 < b.toNat)) ∨
      (kind.toNat = 1 ∧ 15 < scene.toNat) ∨ ((kind.toNat = 2 ∨ kind.toNat = 3) ∧ 15 < mask.toNat)) :
    decodeCueAction kind phrase prio mask rend cnt langs scene = none := by
  unfold decodeCueAction
  rcases h with h | ⟨h, h0⟩ | ⟨h, h1⟩ | ⟨h | h, h2⟩
  · split
    case h_7 => rfl
    all_goals omega
  · simp only [h]
    split
    · rfl
    next hcnt =>
    split
    · next hp hpr hm hr hl =>
      rcases h0 with h0 | h0 | h0 | h0 | h0 | h0
      · rw [asFin_ge h0] at hp
        cases hp
      · rw [asFin_ge h0] at hpr
        cases hpr
      · rw [decodeMask_refused h0] at hm
        cases hm
      · rw [decodeRendering_refused h0] at hr
        cases hr
      · exact absurd h0 hcnt
      · rw [decodeLangs_refused h0] at hl
        cases hl
    · rfl
  · simp only [h, asFin_ge h1, Option.map_none]
  · simp only [h, decodeMask_refused h2, Option.map_none]
  · simp only [h, decodeMask_refused h2, Option.map_none]

/-! ## What is read decodes back -/

theorem min_of_le {a n : Nat} (h : n ≤ a) : min a n = n := Nat.min_eq_right h

theorem toNat_byte {n : Nat} (h : n ≤ 255) : (byte n).toNat = n := byte_toNat_of_lt (Nat.lt_succ_of_le h)

theorem seat_decodes (x : Seat) (hv : x.volume ≤ 15) (hd : x.defVolume ≤ 15) (hc : x.cap ≤ 24) :
    decodeSeat (seatBytes x) = some { zone := x.zone, enabled := x.enabled, lang := x.lang, volume := x.volume,
                                      defVolume := x.defVolume, cap := x.cap } := by
  simp only [seatBytes, decodeSeat, asFin_byte x.zone (by decide), asFin_byte x.lang (by decide), yes_yesByte,
    toNat_byte (show x.volume ≤ 255 by omega), toNat_byte (show x.defVolume ≤ 255 by omega),
    toNat_byte (show x.cap ≤ 255 by omega), min_of_le hv, min_of_le hd, min_of_le hc]

theorem zone_decodes (x : ZoneRec) (hb : x.boost ≤ 12) (ht : x.trim ≤ 60) :
    decodeZone (zoneBytes x) = some { channel := x.channel, boost := x.boost, defLang := x.defLang, trim := x.trim,
                                      program := x.program } := by
  have ho := decodeOpt_optBytes (by decide) x.program
  rw [zoneBytes, optBytes_eq x.program]
  simp only [List.cons_append, List.nil_append, decodeZone, asFin_byte x.channel (by decide),
    asFin_byte x.defLang (by decide), ho, toNat_byte (show x.boost ≤ 255 by omega),
    toNat_byte (show x.trim ≤ 255 by omega), min_of_le hb, min_of_le ht]

theorem language_decodes (own : Lang) (x : Language) (live : Bool) (h : x.fallback ≠ some own) :
    decodeLanguage own (languageBytes x live) = some x := by
  have ho := decodeOpt_optBytes (by decide) x.fallback
  rw [languageBytes, optBytes_eq x.fallback]
  simp only [List.cons_append, List.nil_append, decodeLanguage, ho, yes_yesByte, if_neg h]

theorem cueAction_decodes {kind phrase prio mask rend cnt a b c d scene : Byte} {act : CueAction}
    (hact : cueActionBytes act = [kind, phrase, prio, mask, rend, cnt, a, b, c, d, scene])
    (hl : ∀ p pr m r ls, act = .announce p pr m r ls → ls.length ≤ 4) :
    decodeCueAction kind phrase prio mask rend cnt [a, b, c, d] scene = some act := by
  cases act with
  | announce p pr m r ls =>
    have hlen := hl p pr m r ls rfl
    have hpos : langBytes ls = byte ls.length :: langPositions ls := rfl
    rw [cueActionBytes, hpos, langPositions_eq hlen] at hact
    simp only [List.cons_append, List.nil_append, List.cons.injEq, and_true] at hact
    obtain ⟨rfl, rfl, rfl, rfl, rfl, rfl, rfl, rfl, rfl, rfl, rfl⟩ := hact
    have hdec := decodeLangs_langPositions (ls := ls)
    rw [langPositions_eq hlen] at hdec
    have hcnt : ¬4 < (byte ls.length).toNat := by
      rw [toNat_byte (by omega)]
      omega
    show (if 4 < (byte ls.length).toNat then none else _) = _
    rw [if_neg hcnt, toNat_byte (show ls.length ≤ 255 by omega)]
    simp only [asFin_byte p (by decide), asFin_byte pr (by decide), decodeMask_maskByte, decodeRendering_code, hdec]
  | scene n =>
    cases hact
    show (asFin 16 (byte n.val).toNat).map _ = _
    rw [asFin_byte n (by decide), Option.map_some]
  | quietOn m =>
    cases hact
    show (decodeMask (maskByte m)).map _ = _
    rw [decodeMask_maskByte, Option.map_some]
  | quietOff m =>
    cases hact
    show (decodeMask (maskByte m)).map _ = _
    rw [decodeMask_maskByte, Option.map_some]
  | stopReached =>
    cases hact
    rfl
  | mark =>
    cases hact
    rfl

theorem cueActionBytes_eq {act : CueAction} (hl : ∀ p pr m r ls, act = .announce p pr m r ls → ls.length ≤ 4) :
    ∃ kind phrase prio mask rend cnt a b c d scene,
      cueActionBytes act = [kind, phrase, prio, mask, rend, cnt, a, b, c, d, scene] := by
  cases act with
  | announce p pr m r ls =>
    have hpos : langBytes ls = byte ls.length :: langPositions ls := rfl
    rw [cueActionBytes, hpos, langPositions_eq (hl p pr m r ls rfl)]
    exact ⟨_, _, _, _, _, _, _, _, _, _, _, rfl⟩
  | scene | quietOn | quietOff | stopReached | mark => exact ⟨_, _, _, _, _, _, _, _, _, _, _, rfl⟩

theorem cue_decodes (c : Cue) (ht : c.trigger < 65536) (hlatest : ∀ l, c.latest = some l → c.trigger ≤ l ∧ l < 65536)
    (hl : ∀ p pr m r ls, c.action = .announce p pr m r ls → ls.length ≤ 4) :
    decodeCue (cueBytes c) = some { c with state := .pending } := by
  obtain ⟨kind, phrase, prio, mask, rend, cnt, a, b, d, e, scene, hbytes⟩ := cueActionBytes_eq hl
  have hact := cueAction_decodes hbytes hl
  have htrig : be16 (byte (c.trigger / 256)) (byte c.trigger) = c.trigger := be16_bytes ht
  rw [cueBytes, hbytes, bytes16]
  cases hc : c.latest with
  | none =>
    refine (decodeCue_of_action (.inl rfl) hact).trans ?_
    rw [htrig, if_pos (show (0 : Byte).toNat = 0 from rfl), ← hc]
  | some l =>
    obtain ⟨hle, hlt⟩ := hlatest l hc
    have hlat : be16 (byte (l / 256)) (byte l) = l := be16_bytes hlt
    refine (decodeCue_of_action (lp := 1) (.inr (by rw [htrig, hlat]; exact hle)) hact).trans ?_
    rw [htrig, hlat, if_neg (show (1 : Byte).toNat ≠ 0 by decide), ← hc]

theorem items_decode (rest : List Byte) : ∀ is : List Item, (∀ i ∈ is, i.family ≤ 1023) →
    decodeItems is.length ((is.flatMap fun i => bytes16 i.family ++ [yesByte i.neutral]) ++ rest) = some is
  | [], _ => rfl
  | x :: is, h => by
    have hx : x.family ≤ 1023 := h x (by simp)
    have hb : be16 (byte (x.family / 256)) (byte x.family) = x.family := be16_bytes (by omega)
    rw [List.length_cons, List.flatMap_cons, List.append_assoc]
    show (if 1023 < be16 (byte (x.family / 256)) (byte x.family) then none
      else (decodeItems is.length ((is.flatMap fun i => bytes16 i.family ++ [yesByte i.neutral]) ++ rest)).map _) = _
    rw [hb, if_neg (Nat.not_lt.mpr hx), items_decode rest is fun i hi => h i (by simp [hi]), yes_yesByte]
    rfl

theorem phrase_decodes (is : List Item) (hlen : is.length ≤ 8) (h : ∀ i ∈ is, i.family ≤ 1023) :
    decodePhrase (phraseBytes is) = some is := by
  have hn : (byte is.length).toNat = is.length := toNat_byte (by omega)
  rw [phraseBytes, decodePhrase, hn, if_neg (Nat.not_lt.mpr hlen)]
  exact items_decode _ is h

theorem clip_decodes (c : Clip) (h : clipFits c) : decodeClip (clipBytesOf (some c)) = some (some c) := by
  obtain ⟨hf, hl, hs, -, hn, -⟩ := id h
  have hlang : (byte c.language).toNat = c.language := toNat_byte (by omega)
  refine (decodeClip_accepted (p := 1) (c := c) ?_ (.inr h)).trans rfl
  rw [be16_bytes (by omega), be16_bytes (by omega), be24_bytes (by omega), hlang]

/-- A pattern whose fields are in range. -/
def patternFits (p : Pattern) : Prop :=
  p.levelOn ≤ 63 ∧ p.levelOff ≤ 63 ∧ (1 ≤ p.onLen ∧ p.onLen ≤ 255) ∧ (1 ≤ p.offLen ∧ p.offLen ≤ 255) ∧
    (1 ≤ p.pulseCount ∧ p.pulseCount ≤ 255) ∧ 1 ≤ p.fadeStep ∧ p.fadeStep ≤ 255

theorem pattern_decodes {p : Pattern} (h : patternFits p) :
    decodePattern p.mode.code (byte p.levelOn) (byte p.levelOff) (byte p.onLen) (byte p.offLen) (byte p.pulseCount)
      (byte p.fadeStep) = some p := by
  obtain ⟨h1, h2, h3, h4, h5, h6⟩ := h
  simp only [decodePattern, decodeMode_code, Option.map_some, toNat_byte (show p.levelOn ≤ 255 by omega),
    toNat_byte (show p.levelOff ≤ 255 by omega), min_of_le h1, min_of_le h2, atLeast1_byte h3.1 h3.2,
    atLeast1_byte h4.1 h4.2, atLeast1_byte h5.1 h5.2, atLeast1_byte h6.1 h6.2]

theorem source_decodes (x : StartSource) : decodeSource ((sourceBytes x).getD 0 0) ((sourceBytes x).getD 1 0)
    ((sourceBytes x).getD 2 0) ((sourceBytes x).getD 3 0) = some x := by
  cases x with
  | none | stopRequest | alarm => rfl
  | announce m t =>
    show (match decodeMask (maskByte m), asFin 4 (byte t.val).toNat with
      | some m, some t => some (StartSource.announce m t)
      | _, _ => none) = _
    rw [decodeMask_maskByte, asFin_byte t (by decide)]
  | chain g =>
    show (asFin 24 (byte g.val).toNat).map StartSource.chain = _
    rw [asFin_byte g (by decide), Option.map_some]

theorem sourceBytes_eq (x : StartSource) : sourceBytes x =
    [(sourceBytes x).getD 0 0, (sourceBytes x).getD 1 0, (sourceBytes x).getD 2 0, (sourceBytes x).getD 3 0] := by
  cases x <;> rfl

/-- The pending pair of a group as its record shows it. -/
def pendingBytes : Option (Nat × Nat) → List Byte
  | none => [0, 0, 0]
  | some (a, b) => [1, byte a, byte b]

theorem group_decodes {x : Group} (hp : patternFits x.pat)
    (hpend : ∀ a b, x.pending = some (a, b) → 1 ≤ a ∧ a ≤ 255 ∧ 1 ≤ b ∧ b ≤ 255) :
    decodeGroup ((groupBytes x).take 17) = some
      { pat := x.pat, pending := x.pending, source := x.source, follow := x.follow, hold := x.hold,
        safety := x.safety } := by
  have hpat := pattern_decodes hp
  have hsrc := source_decodes x.source
  have hb : groupBytes x = [x.pat.mode.code, byte x.pat.levelOn, byte x.pat.levelOff, byte x.pat.onLen, byte x.pat.offLen] ++
      pendingBytes x.pending ++ [byte x.pat.pulseCount, byte x.pat.fadeStep] ++ sourceBytes x.source ++
      [yesByte x.follow, yesByte x.hold, yesByte x.safety, yesByte x.running, yesByte (!x.phaseOn), yesByte x.begun,
        byte x.framesLeft, byte x.pulsesLeft, byte x.level, x.ign.code] := by
    unfold groupBytes
    rcases hpe : x.pending with _ | ⟨a, b⟩ <;> rfl
  have h0 : yes (0 : Byte) = false := rfl
  have h1 : yes (1 : Byte) = true := rfl
  rw [hb, sourceBytes_eq]
  rcases hpe : x.pending with _ | ⟨a, b⟩
  · simp only [pendingBytes, List.cons_append, List.nil_append, List.take_succ_cons, List.take_zero, decodeGroup, hpat, hsrc,
      yes_yesByte, h0, Bool.false_eq_true, if_false]
  · obtain ⟨ha1, ha2, hb1, hb2⟩ := hpend a b hpe
    simp only [pendingBytes, List.cons_append, List.nil_append, List.take_succ_cons, List.take_zero, decodeGroup, hpat, hsrc,
      yes_yesByte, h1, if_true, atLeast1_byte ha1 ha2, atLeast1_byte hb1 hb2]

theorem setting_decodes (x : SceneSetting) : decodeSetting (settingByte x) = some x := by
  cases x with
  | leave | stop => rfl
  | load p =>
    have hb : (settingByte (.load p)).toNat = p.val + 2 := toNat_byte (show p.val + 2 ≤ 255 by omega)
    rw [decodeSetting, hb]
    show (asFin 32 p.val).map _ = _
    rw [asFin_val, Option.map_some]

theorem scene_decodes (sc : Vector SceneSetting 24) : decodeScene (sc.toList.map settingByte) = some sc := by
  have hlen : (sc.toList.map settingByte).length = 24 := by simp
  have hall : ∀ x ∈ sc.toList, (decodeSetting ∘ settingByte) x = some (id x) := fun x _ => setting_decodes x
  rw [decodeScene, if_neg (by simp [hlen]), List.mapM_map, mapM_some_of _ hall, List.map_id, Option.map_some]
  refine congrArg some (table_ext fun i => ?_)
  rw [get_ofFn, List.getD_eq_getElem?_getD, List.getElem?_eq_getElem (by simp)]
  rfl

theorem points_decode : ∀ ps : List CurvePoint, (∀ p ∈ ps, p.speed ≤ 255 ∧ p.boost ≤ 24) →
    decodePoints (ps.flatMap fun p => [byte p.speed, byte p.boost]) = ps
  | [], _ => rfl
  | p :: ps, h => by
    obtain ⟨hs, hb⟩ := h p (by simp)
    show ({ speed := (byte p.speed).toNat, boost := min 24 (byte p.boost).toNat } : CurvePoint) :: decodePoints _ = _
    rw [toNat_byte hs, toNat_byte (by omega), min_of_le hb]
    exact congrArg _ (points_decode ps fun q hq => h q (by simp [hq]))

theorem curve_decodes (c : Vector CurvePoint 8) (boost : Nat) (hb : ∀ i, (c.get i).speed ≤ 255 ∧ (c.get i).boost ≤ 24)
    (hr : ∀ i j : Fin 8, i ≤ j → (c.get i).speed ≤ (c.get j).speed) : decodeCurve (curveBytes c boost) = some c := by
  have hflat : (c.toList.flatMap fun p => [byte p.speed, byte p.boost]).length = 16 := by simp [List.length_flatMap]
  have hpoints : decodePoints ((curveBytes c boost).take 16) = c.toList := by
    rw [curveBytes, List.take_left' hflat]
    refine points_decode _ fun p hp => ?_
    obtain ⟨i, hi, rfl⟩ := List.getElem_of_mem hp
    exact hb ⟨i, by simpa using hi⟩
  have hrise : risingSpeeds c.toList = true := by
    rw [risingSpeeds_iff]
    intro i hi
    have hi' : i + 1 < 8 := by simpa using hi
    exact hr ⟨i, by omega⟩ ⟨i + 1, hi'⟩ (Nat.le_succ i)
  have hlen : (curveBytes c boost).length = 17 := by simp [curveBytes, List.length_flatMap]
  rw [decodeCurve, hpoints, if_pos (by simp [hlen, hrise])]
  refine congrArg some (table_ext fun i => ?_)
  rw [get_ofFn, List.getD_eq_getElem?_getD, List.getElem?_eq_getElem (by simp)]
  rfl

theorem clamp_of_mem {lo hi n : Nat} (h1 : lo ≤ n) (h2 : n ≤ hi) : clamp lo hi n = n := by
  unfold clamp
  omega

end Sys2Proof.Proofs
end

section
/-! PROOFS. ENTRY_WRITE and the readings of the tables: the settings record, what a write stores or refuses, and the obligations of
the record tables (R27 to R32). -/

namespace Sys2Proof.Proofs

open Sys2Proof Sys2Proof.Machine Sys2Proof.Laws

/-! ## The settings record read and written back (R31) -/

theorem duck_eq (t : Vector Nat 4) : t = #v[t.get 0, t.get 1, t.get 2, t.get 3] := by
  apply table_ext
  intro i
  fin_cases i <;> rfl

theorem settings_decodes (x : Settings) (ht : x.trim ≤ 24) (hd : ∀ p, x.duck.get p ≤ 121) (hh : x.hang ≤ 1000)
    (hg : x.gap ≤ 2000) (hj1 : 10 ≤ x.jump) (hj2 : x.jump ≤ 1000) (hr1 : 16 ≤ x.ramp) (hr2 : x.ramp ≤ 1000)
    (hrows : x.rows = 4 ∨ x.rows = 6 ∨ x.rows = 8) (hn1 : 1 ≤ x.speakers.length) (hn4 : x.speakers.length ≤ 4) :
    decodeSettings (settingsBytes x) = some x := by
  have hpos : langBytes x.speakers = byte x.speakers.length :: langPositions x.speakers := rfl
  have hduck : x.duck.toList.map byte = [byte (x.duck.get 0), byte (x.duck.get 1), byte (x.duck.get 2), byte (x.duck.get 3)] := by
    have h := congrArg (fun t : Vector Nat 4 => t.toList.map byte) (duck_eq x.duck)
    exact h
  have hlangs := decodeLangs_langPositions (ls := x.speakers)
  rw [langPositions_eq hn4] at hlangs
  have hchime := decodeOpt_optBytes (by decide) x.chime
  have halarm := decodeOpt_optBytes (by decide) x.alarm
  have hrowsb : (byte x.rows).toNat = x.rows := toNat_byte (by omega)
  have hnb : (byte x.speakers.length).toNat = x.speakers.length := toNat_byte (by omega)
  have hduckb : ∀ p, min 121 (byte (x.duck.get p)).toNat = x.duck.get p := fun p => by
    have := hd p
    rw [toNat_byte (by omega), min_of_le this]
  rw [settingsBytes, hpos, hduck, langPositions_eq hn4, optBytes_eq x.chime, optBytes_eq x.alarm]
  simp only [bytes16, List.cons_append, List.nil_append, decodeSettings, hrowsb, hnb, hlangs, hchime, halarm,
    decodeRendering_code, hduckb, toNat_byte (show x.trim ≤ 255 by omega), min_of_le ht, be16_bytes (show x.hang < 65536 by omega),
    be16_bytes (show x.gap < 65536 by omega), be16_bytes (show x.jump < 65536 by omega),
    be16_bytes (show x.ramp < 65536 by omega), min_of_le hh, min_of_le hg, clamp_of_mem hj1 hj2, clamp_of_mem hr1 hr2]
  rw [if_neg (by omega), if_neg (by omega), ← duck_eq]

/-- Settles O23: each record's reading decodes to its fields. -/
theorem recordsDecodeBack : Obligations.RecordsDecodeBack := by
  unfold Obligations.RecordsDecodeBack
  refine ⟨seat_decodes, zone_decodes, language_decodes, cue_decodes, phrase_decodes,
    fun c hf hl hs hn1 hn2 hend => clip_decodes c ⟨hf, hl, hs, hn1, hn2, hend⟩, rfl, fun g => ?_,
    fun p h1 h2 a1 a2 b1 b2 c1 c2 d1 d2 => ?_, scene_decodes, curve_decodes, settings_decodes⟩
  · rw [optBytes_eq g]
    exact decodeOpt_optBytes (by decide) g
  · have hfit : patternFits p := ⟨h1, h2, ⟨a1, a2⟩, ⟨b1, b2⟩, ⟨c1, c2⟩, d1, d2⟩
    exact ⟨pattern_decodes hfit, fun x hx hp => group_decodes (hx ▸ hfit) hp⟩

/-! ## A write by its table, index and length (R28) -/

theorem storeIf_accepted {ι α : Type} {i : Option ι} {w : Option α} {a : ι} {b : α} (hi : i = some a) (hw : w = some b)
    (store : ι → α → State → State) (s : State) : storeIf i w store s = (store a b s, answer .done) := by
  subst hi hw
  rfl

theorem storeIf_refused {ι α : Type} (i : Option ι) {w : Option α} (hw : w = none) (store : ι → α → State → State)
    (s : State) : storeIf i w store s = (s, answer .badValue) := by
  subst hw
  cases i <;> rfl

variable {table : Byte} {index : Word16} {record : List Byte} {s : State} {t : Table}

theorem exec_entryWrite {u : State} {p : List Byte} (ht : takes false s)
    (h : entryWriteOp table index.toNat record s = (u, .reply p)) :
    exec (.entryWrite table index record) s = .next (withReply false 0x81 p u) :=
  request_takes ht h

/-- A record of the right length at an index of the table is its owner's to write. -/
theorem entryWrite_owner {u : State} {p : List Byte} (ht : takes false s) (hid : Table.ofId table = some t)
    (hi : index.toNat < t.entries) (hl : record.length = t.size) (h : t.write index.toNat record s = (u, .reply p)) :
    exec (.entryWrite table index record) s = .next (withReply false 0x81 p u) := by
  refine exec_entryWrite ht ?_
  rw [entryWriteOp, hid]
  dsimp only
  rw [if_neg (Nat.not_le.mpr hi), if_neg (by simp [hl]), h]

theorem entryWrite_done {ι α : Type} {i : Option ι} {w : Option α} {a : ι} {b : α} {store : ι → α → State → State}
    (ht : takes false s) (hid : Table.ofId table = some t) (hindex : index.toNat < t.entries)
    (hl : record.length = t.size) (h : t.write index.toNat record s = storeIf i w store s) (hi : i = some a)
    (hw : w = some b) : exec (.entryWrite table index record) s = .next (withReply false 0x81 [0] (store a b s)) :=
  entryWrite_owner ht hid hindex hl (h.trans (storeIf_accepted hi hw store s))

theorem entryWrite_badValue {ι α : Type} {i : Option ι} {w : Option α} {store : ι → α → State → State}
    (ht : takes false s) (hid : Table.ofId table = some t) (hindex : index.toNat < t.entries)
    (hl : record.length = t.size) (h : t.write index.toNat record s = storeIf i w store s) (hw : w = none) :
    exec (.entryWrite table index record) s = .next (withReply false 0x81 [4] s) :=
  entryWrite_owner ht hid hindex hl (h.trans (storeIf_refused i hw store s))

/-- Settles O21: the record decodes to its fields with their clamps, and the store of `storeSeat` lifts the indexes to the cap. -/
theorem seatRecordWritten : Obligations.SeatRecordWritten := by
  unfold Obligations.SeatRecordWritten
  intro index z e p l v d c sp s h ht
  constructor
  · intro hbad
    exact entryWrite_badValue (t := .seat) ht rfl h rfl rfl (decodeSeat_refused hbad)
  · intro hz hl
    refine (entryWrite_done (t := .seat) ht rfl h rfl rfl (asFin_lt h) (decodeSeat_accepted hz hl)).trans ?_
    simp only [storeSeat, liftToCap, setSeat, seatOf, writeEnabled, adjust_eq, yes_eq, bne, Bool.not_not]

/-- Settles O22: `decodeSettings` refuses or clamps, and the record is stored whole. -/
theorem settingsWritten : Obligations.SettingsWritten := by
  unfold Obligations.SettingsWritten
  intro t d0 d1 d2 d3 h1 h0 g1 g0 j1 j0 r1 r0 rows cp cv cr ap av n a b c d s ht record
  have hrow : ∀ k : Byte, rows = k ↔ rows.toNat = k.toNat := fun k => ⟨fun h => h ▸ rfl, BitVec.eq_of_toNat_eq⟩
  have hrefused : decodeSettings record = none →
      exec (.entryWrite 12 0 record) s = .next (withReply false 0x81 [4] s) := fun hnone =>
    entryWrite_badValue (t := .settings) (index := 0) ht rfl (by decide) rfl rfl hnone
  refine ⟨fun h4 h6 h8 => ?_, fun hbad => ?_, fun hrows hc ha hr hn1 hn4 hl => ?_⟩
  · refine hrefused (decodeSettings_refused (.inl ⟨?_, ?_, ?_⟩))
    · exact fun e => h4 ((hrow 4).mpr e)
    · exact fun e => h6 ((hrow 6).mpr e)
    · exact fun e => h8 ((hrow 8).mpr e)
  · refine hrefused (decodeSettings_refused (.inr ?_))
    rcases hbad with hbad | hbad | hbad | hbad | hbad | hbad
    · exact .inl hbad
    · exact .inr (.inl hbad)
    · exact .inr (.inr (.inl hbad))
    · exact .inr (.inr (.inr (.inl (by rw [hbad]; decide))))
    · exact .inr (.inr (.inr (.inr (.inl hbad))))
    · exact .inr (.inr (.inr (.inr (.inr hbad))))
  · obtain ⟨r, hrend, hcode⟩ : ∃ r, decodeRendering cr = some r ∧ r.code = cr := by
      have h3 : cr.toNat = 0 ∨ cr.toNat = 1 ∨ cr.toNat = 2 := by omega
      rcases h3 with h3 | h3 | h3
      · exact ⟨.speakers, decodeRendering_of_code h3.symm, BitVec.eq_of_toNat_eq h3.symm⟩
      · exact ⟨.headsets, decodeRendering_of_code h3.symm, BitVec.eq_of_toNat_eq h3.symm⟩
      · exact ⟨.both, decodeRendering_of_code h3.symm, BitVec.eq_of_toNat_eq h3.symm⟩
    have hselect : ∀ p v : Byte, (p = 0 ∨ v.toNat ≤ 127) →
        (if p = 0 then none else some (Fin.ofNat 128 v.toNat)).map Fin.val = if p = 0 then none else some v.toNat := by
      intro p v hpv
      by_cases hp : p = 0
      · simp [hp]
      · have hv := hpv.resolve_left hp
        simp only [hp, if_false, Option.map_some, Fin.val_ofNat, Nat.mod_eq_of_lt (Nat.lt_succ_of_le hv)]
    have hdec := decodeSettings_accepted (t := t) (d0 := d0) (d1 := d1) (d2 := d2) (d3 := d3) (h1 := h1) (h0 := h0) (g1 := g1)
      (g0 := g0) (j1 := j1) (j0 := j0) (r1 := r1) (r0 := r0) (a := a) (b := b) (c := c) (d := d)
      (hrows.imp (hrow 4).mp (.imp (hrow 6).mp (hrow 8).mp)) (hc.imp_right Nat.lt_succ_of_le)
      (ha.imp_right Nat.lt_succ_of_le) hrend hn1 hn4 hl
    refine ⟨_, entryWrite_done (t := .settings) (index := 0) ht rfl (by decide) rfl rfl rfl hdec, rfl, rfl, rfl, rfl, rfl, rfl,
      rfl, rfl, rfl, hselect cp cv hc, ?_, hselect ap av ha, ?_⟩
    · rw [← hcode]
      cases r <;> rfl
    · show (([a, b, c, d].take n.toNat).map fun k => Fin.ofNat 12 k.toNat).map Fin.val = _
      rw [List.map_map]
      refine List.map_congr_left fun k hk => ?_
      exact Nat.mod_eq_of_lt (hl k hk)

end Sys2Proof.Proofs
end

section
/-! PROOFS. What ENTRY_WRITE stores in each table, and its refusals (R27, R28). -/

namespace Sys2Proof.Proofs

open Sys2Proof Sys2Proof.Machine Sys2Proof.Laws

/-! ## Cue actions from their bytes (R90) -/

/-- What the bytes of a cue's record give for its action. -/
def cueActionFits (r : List Byte) : CueAction → Prop
  | .announce p pr m rd ls => (r.getD 5 0).toNat = 0 ∧ p.val = (r.getD 6 0).toNat ∧ pr.val = (r.getD 7 0).toNat ∧
      m.toNat = (r.getD 8 0).toNat ∧ rd.code.toNat = (r.getD 9 0).toNat ∧ ls.length = (r.getD 10 0).toNat ∧
      (r.getD 10 0).toNat ≤ 4 ∧ ls.map Fin.val = ((r.drop 11).take (r.getD 10 0).toNat).map BitVec.toNat
  | .scene n => (r.getD 5 0).toNat = 1 ∧ n.val = (r.getD 15 0).toNat
  | .quietOn m => (r.getD 5 0).toNat = 2 ∧ m.toNat = (r.getD 8 0).toNat
  | .quietOff m => (r.getD 5 0).toNat = 3 ∧ m.toNat = (r.getD 8 0).toNat
  | .stopReached => (r.getD 5 0).toNat = 4
  | .mark => (r.getD 5 0).toNat = 5

theorem asFin_of_val {n : Nat} {k : Fin n} {m : Nat} (h : k.val = m) : asFin n m = some k := by
  rw [← h, asFin_val]

theorem decodeMask_of_toNat {m : ZoneMask} {b : Byte} (h : m.toNat = b.toNat) : decodeMask b = some m := by
  have hlt : m.toNat < 16 := m.isLt
  rw [decodeMask, ← h, if_pos hlt]
  simp

theorem decodeLangs_of_map {n : Nat} {bs : List Byte} {ls : List Lang} (h : ls.map Fin.val = (bs.take n).map BitVec.toNat) :
    decodeLangs n bs = some ls := by
  have hmap : (bs.take n).mapM (fun b => asFin 12 b.toNat) = ((bs.take n).map BitVec.toNat).mapM (asFin 12) := by
    rw [List.mapM_map]
    rfl
  have hget : ∀ l ∈ ls, (asFin 12 ∘ Fin.val) l = some (id l) := fun l _ => asFin_val l
  rw [decodeLangs, hmap, ← h, List.mapM_map, mapM_some_of ls hget, List.map_id]

/-- The seventeen bytes of a cue's record. -/
theorem cueRecord_eq {r : List Byte} (h : r.length = 17) : r = [r.getD 0 0, r.getD 1 0, r.getD 2 0, r.getD 3 0, r.getD 4 0,
    r.getD 5 0, r.getD 6 0, r.getD 7 0, r.getD 8 0, r.getD 9 0, r.getD 10 0, r.getD 11 0, r.getD 12 0, r.getD 13 0,
    r.getD 14 0, r.getD 15 0, r.getD 16 0] := eq_map_getD h

theorem cueLangs_eq {r : List Byte} (h : r.length = 17) {n : Nat} (hn : n ≤ 4) :
    [r.getD 11 0, r.getD 12 0, r.getD 13 0, r.getD 14 0].take n = (r.drop 11).take n := by
  have hd : r.drop 11 = [r.getD 11 0, r.getD 12 0, r.getD 13 0, r.getD 14 0, r.getD 15 0, r.getD 16 0] :=
    congrArg (List.drop 11) (cueRecord_eq h)
  rw [hd]
  match n, hn with
  | 0, _ | 1, _ | 2, _ | 3, _ | 4, _ => rfl

theorem decodeCueAction_fits {r : List Byte} {act : CueAction} (hlen : r.length = 17) (h : cueActionFits r act) :
    decodeCueAction (r.getD 5 0) (r.getD 6 0) (r.getD 7 0) (r.getD 8 0) (r.getD 9 0) (r.getD 10 0)
      [r.getD 11 0, r.getD 12 0, r.getD 13 0, r.getD 14 0] (r.getD 15 0) = some act := by
  cases act with
  | announce p pr m rd ls =>
    obtain ⟨hk, hp, hpr, hm, hr, -, hn, hls⟩ := h
    rw [← cueLangs_eq hlen hn] at hls
    simp only [decodeCueAction, hk, if_neg (Nat.not_lt.mpr hn), asFin_of_val hp, asFin_of_val hpr, decodeMask_of_toNat hm,
      decodeRendering_of_code hr, decodeLangs_of_map hls]
  | scene n => simp only [decodeCueAction, h.1, asFin_of_val h.2, Option.map_some]
  | quietOn m => simp only [decodeCueAction, h.1, decodeMask_of_toNat h.2, Option.map_some]
  | quietOff m => simp only [decodeCueAction, h.1, decodeMask_of_toNat h.2, Option.map_some]
  | stopReached => simp only [decodeCueAction, show (r.getD 5 0).toNat = 4 from h]
  | mark => simp only [decodeCueAction, show (r.getD 5 0).toNat = 5 from h]

/-! ## Writes refused (R28) -/

/-- The checks that a record of a table may fail, by its bytes. -/
def recordUnfit (t : Table) (r : List Byte) : Prop :=
  let v := fun k : Nat => (r.getD k 0).toNat
  match t with
  | .zone => 3 < v 0 ∨ 11 < v 2 ∨ (v 4 ≠ 0 ∧ 11 < v 5)
  | .language => v 1 ≠ 0 ∧ 11 < v 2
  | .curve => ∃ i < 7, v (2 * i + 2) < v (2 * i)
  | .cue => (v 2 ≠ 0 ∧ v 3 * 256 + v 4 < v 0 * 256 + v 1) ∨ 5 < v 5 ∨
      (v 5 = 0 ∧ (127 < v 6 ∨ 3 < v 7 ∨ 15 < v 8 ∨ 2 < v 9 ∨ 4 < v 10 ∨ ∃ i < v 10, i < 4 ∧ 11 < v (11 + i))) ∨
      (v 5 = 1 ∧ 15 < v 15) ∨ ((v 5 = 2 ∨ v 5 = 3) ∧ 15 < v 8)
  | .phrase => 8 < v 0 ∨ ∃ i < v 0, 1023 < v (3 * i + 1) * 256 + v (3 * i + 2)
  | .clip => v 0 ≠ 0 ∧
      let first := v 4 * 256 + v 5
      let length := v 6 * 65536 + v 7 * 256 + v 8
      (1023 < v 1 * 256 + v 2 ∨ (11 < v 3 ∧ v 3 ≠ 15) ∨ 4095 < first ∨ length < 1 ∨ 524288 < length ∨
        4095 < first + (length + 2047) / 2048 - 1)
  | .cell => v 0 ≠ 0 ∧ 23 < v 1
  | .group => 4 < v 0 ∨ 4 < v 10 ∨ (v 10 = 2 ∧ (15 < v 11 ∨ 3 < v 12)) ∨ (v 10 = 4 ∧ 23 < v 13)
  | .preset => 4 < v 0
  | .scene => ∃ i < 24, 33 < v i
  | .seat | .settings => False

theorem decodeCue_unfit {r : List Byte} (hlen : r.length = 17) (h : recordUnfit .cue r) : decodeCue r = none := by
  refine (congrArg decodeCue (eq_map_getD hlen)).trans (decodeCue_refused ?_)
  refine h.imp_right fun h => decodeCueAction_refused ?_
  refine h.imp_right (.imp (And.imp_right fun h => ?_) id)
  refine h.imp_right (.imp_right (.imp_right (.imp_right fun h => ?_)))
  by_cases hn : 4 < (r.getD 10 0).toNat
  · exact .inl hn
  · obtain ⟨i, hi, hi4, hl⟩ := h.resolve_left hn
    refine .inr ⟨r.getD (11 + i) 0, ?_, hl⟩
    rw [cueLangs_eq hlen (Nat.le_of_not_lt hn)]
    have hi' : 11 + i < r.length := by omega
    have hget : r.getD (11 + i) 0 = r[11 + i] := by
      rw [List.getD_eq_getElem?_getD, List.getElem?_eq_getElem hi', Option.getD_some]
    rw [hget, List.mem_take_iff_getElem]
    exact ⟨i, lt_min hi (by rw [List.length_drop]; omega), by rw [List.getElem_drop]⟩

theorem decodeClip_unfit {r : List Byte} (hlen : r.length = 9) (h : recordUnfit .clip r) : decodeClip r = none := by
  obtain ⟨hp, hbad⟩ := h
  refine (congrArg decodeClip (eq_map_getD hlen)).trans (decodeClip_refused hp ?_)
  rintro ⟨h1, h2, h3, h4, h5, h6⟩
  simp only [be16, be24] at hbad h1 h2 h3 h4 h5 h6
  omega

variable {table : Byte} {index : Word16} {record : List Byte} {s : State} {t : Table}

theorem entryWrite_unfit (ht : takes false s) (hid : Table.ofId table = some t) (hindex : index.toNat < t.entries)
    (hl : record.length = t.size) (hidle : t = .cue → s.rce.state = .idle) (h : recordUnfit t record) :
    exec (.entryWrite table index record) s = .next (withReply false 0x81 [4] s) := by
  have hrec := eq_map_getD hl
  cases t
  case seat => exact h.elim
  case settings => exact h.elim
  case zone =>
    exact entryWrite_badValue ht hid hindex hl rfl ((congrArg decodeZone hrec).trans (decodeZone_refused h))
  case language =>
    exact entryWrite_badValue ht hid hindex hl rfl ((congrArg (decodeLanguageAt index.toNat) hrec).trans
      ((congrArg (Option.bind · _) (asFin_lt hindex)).trans (decodeLanguage_refused (x := record.getD 3 0) h)))
  case curve => exact entryWrite_badValue ht hid hindex hl rfl (decodeCurve_refused hl h)
  case cue =>
    exact entryWrite_badValue ht hid hindex hl (if_neg (by simp [hidle rfl])) (decodeCue_unfit hl h)
  case phrase => exact entryWrite_badValue ht hid hindex hl rfl (decodePhrase_refused h)
  case clip => exact entryWrite_badValue ht hid hindex hl rfl (decodeClip_unfit hl h)
  case cell =>
    exact entryWrite_badValue ht hid hindex hl rfl ((congrArg decodeCell hrec).trans (decodeCell_refused h))
  case group =>
    exact entryWrite_badValue ht hid hindex hl rfl ((congrArg decodeGroup hrec).trans (decodeGroup_refused h))
  case preset =>
    exact entryWrite_badValue ht hid hindex hl rfl ((congrArg decodePreset hrec).trans (decodePreset_refused h))
  case scene => exact entryWrite_badValue ht hid hindex hl rfl (decodeScene_refused hl h)

theorem ofId_none (h : table.toNat < 1 ∨ 12 < table.toNat) : Table.ofId table = none := by
  unfold Table.ofId
  split
  case h_13 => rfl
  all_goals omega

/-- Settles O25: each record decodes to what is stored, or to none where a field is out of its range. -/
theorem recordsStored : Obligations.RecordsStored := by
  unfold Obligations.RecordsStored
  refine ⟨fun index record s ht => ?_, fun table index record s ht => ⟨fun hid => ?_, fun t hid =>
    ⟨fun hi => ?_, fun hi hl => ?_, fun hi hl hc hs => ?_, fun hi hl hc h => ?_⟩⟩⟩
  · intro done v
    refine ⟨fun h hlen h0 h2 h4 => ?_, fun h hlen h1 => ?_, fun h0 hlen hr => ?_, fun h action hidle hlen hlatest hact => ?_,
      fun h hlen hn hall => ?_, fun h hlen hc => ?_, fun h hlen h1 => ?_, fun h mode hlen hmode => ?_, fun h hlen hall => ?_⟩
    · exact entryWrite_done (t := .zone) ht rfl h hlen rfl (asFin_lt h)
        ((congrArg decodeZone (eq_map_getD hlen)).trans (decodeZone_accepted h0 h2 h4))
    · exact entryWrite_done (t := .language) ht rfl h hlen rfl (asFin_lt h)
        ((congrArg (decodeLanguageAt index.toNat) (eq_map_getD hlen)).trans
          ((congrArg (Option.bind · _) (asFin_lt h)).trans (decodeLanguage_accepted (x := record.getD 3 0) h1)))
    · subst h0
      exact entryWrite_done (t := .curve) (index := 0) ht rfl (by decide) hlen rfl rfl (decodeCurve_accepted hlen hr)
    · have hfits : cueActionFits record action := by
        cases action with
        | announce p pr m r ls =>
          refine ⟨hact.1, hact.2.1, hact.2.2.1, hact.2.2.2.1, ?_, hact.2.2.2.2.2⟩
          refine Eq.trans ?_ hact.2.2.2.2.1
          cases r <;> rfl
        | scene | quietOn | quietOff | stopReached | mark => exact hact
      exact entryWrite_done (t := .cue) ht rfl h hlen (if_neg (by simp [hidle])) (asFin_lt h)
        ((congrArg decodeCue (eq_map_getD hlen)).trans (decodeCue_of_action hlatest (decodeCueAction_fits hlen hfits)))
    · refine (entryWrite_done (t := .phrase) ht rfl h hlen rfl (asFin_lt h) (decodePhrase_accepted hlen hn hall)).trans ?_
      simp only [yes_eq_decide]
      rfl
    · exact entryWrite_done (t := .clip) ht rfl h hlen rfl (asFin_lt h)
        ((congrArg decodeClip (eq_map_getD hlen)).trans (decodeClip_accepted rfl hc))
    · exact entryWrite_done (t := .cell) ht rfl h hlen rfl (asFin_lt h)
        ((congrArg decodeCell (eq_map_getD hlen)).trans (decodeCell_accepted h1))
    · have hcode : mode.code.toNat = (record.getD 0 0).toNat := by
        refine Eq.trans ?_ hmode
        cases mode <;> rfl
      exact entryWrite_done (t := .preset) ht rfl h hlen rfl (asFin_lt h)
        ((congrArg decodePreset (eq_map_getD hlen)).trans (decodePreset_accepted hcode))
    · exact entryWrite_done (t := .scene) ht rfl h hlen rfl (asFin_lt h) (decodeScene_accepted hlen hall)
  · refine exec_entryWrite ht ?_
    rw [entryWriteOp, ofId_none hid]
    rfl
  · refine exec_entryWrite ht ?_
    rw [entryWriteOp, hid]
    exact if_pos hi
  · refine exec_entryWrite ht ?_
    rw [entryWriteOp, hid]
    exact (if_neg (Nat.not_le.mpr hi)).trans (if_pos hl)
  · subst hc
    exact entryWrite_owner ht hid hi hl (if_pos hs)
  · refine entryWrite_unfit ht hid hi hl hc ?_
    cases t <;> exact h

end Sys2Proof.Proofs
end

section
/-! PROOFS. ENTRY_READ and STATE_READ: the bytes of each record (R29, R32). -/

namespace Sys2Proof.Proofs

open Sys2Proof Sys2Proof.Machine Sys2Proof.Laws

/-! ## ENTRY_READ (R29) -/

variable {table : Byte} {index : Word16} {s : State} {t : Table}

theorem exec_entryRead {p : List Byte} (ht : takes false s) (h : entryReadOp table index.toNat s = (s, .reply p)) :
    exec (.entryRead table index) s = .next (withReply false 0x82 p s) :=
  request_takes ht h

theorem entryRead_done {r : List Byte} (ht : takes false s) (hid : Table.ofId table = some t)
    (hi : index.toNat < t.entries) (hr : t.read index.toNat s = r) :
    exec (.entryRead table index) s = .next (withReply false 0x82
      ([0, table, index.extractLsb' 8 8, index.extractLsb' 0 8] ++ r) s) := by
  refine exec_entryRead ht ?_
  rw [entryReadOp, hid]
  dsimp only
  rw [if_neg (Nat.not_le.mpr hi), hr, bytes16_word]
  rfl

/-- An entry of a table of as many entries. -/
theorem entryBytes_lt {n i : Nat} (h : i < n) (f : Fin n → List Byte) : entryBytes i f = f ⟨i, h⟩ := by
  rw [entryBytes, asFin_lt h]

theorem optBytes_map {n : Nat} (x : Option (Fin n)) :
    optBytes x = match x.map Fin.val with | none => [0, 0] | some k => [1, BitVec.ofNat 8 k] := by
  cases x <;> rfl

theorem toList_eq_map_get {α : Type} {n : Nat} (t : Vector α n) : t.toList = (List.finRange n).map t.get := by
  apply List.ext_getElem
  · simp
  · intro i h1 h2
    rw [List.getElem_map, List.getElem_finRange]
    rfl

theorem settingByte_eq (x : SceneSetting) : settingByte x = match x with
    | .leave => 0 | .stop => 1 | .load p => BitVec.ofNat 8 (p.val + 2) := by
  cases x <;> rfl

/-- Settles O20: the checks of `entryReadOp`, and each table's bytes with their codes written out. -/
theorem entryReadAnswers : Obligations.EntryReadAnswers := by
  unfold Obligations.EntryReadAnswers
  intro table index s ht
  refine ⟨fun h => ?_, fun t hid hi => ?_, ?_⟩
  · refine exec_entryRead ht ?_
    rw [entryReadOp, ofId_none h]
    rfl
  · refine exec_entryRead ht ?_
    rw [entryReadOp, hid]
    exact if_pos hi
  intro b w yn opt done mode rend langs pattern
  refine ⟨fun h e => ?_, fun h e => ?_, fun h e => ?_, fun h e => ?_, fun h e => ?_, fun h e => ?_, fun h e => ?_,
    fun h e => ?_, fun h e => ?_, fun h e => ?_, fun h e => ?_, fun h e => ?_⟩ <;> subst e
  · exact entryRead_done (t := .seat) ht rfl h (entryBytes_lt h _)
  · refine entryRead_done (t := .zone) ht rfl h ((entryBytes_lt h _).trans ?_)
    rw [zoneBytes, optBytes_map]
    rfl
  · refine entryRead_done (t := .language) ht rfl h ((entryBytes_lt h _).trans ?_)
    rw [languageBytes, optBytes_map]
    rfl
  · refine entryRead_done (t := .curve) ht rfl h ?_
    show curveBytes s.hmx.curve s.hmx.boost = _
    rw [curveBytes, toList_eq_map_get, List.flatMap_map]
    rfl
  · refine entryRead_done (t := .cue) ht rfl h ((entryBytes_lt h _).trans ?_)
    generalize s.rce.cues.get ⟨index.toNat, h⟩ = x
    have haction : cueActionBytes x.action = match x.action with
        | .announce p pr m r ls => [0, b p.val, b pr.val, b m.toNat, rend r] ++ langs ls ++ [0]
        | .scene n => [1, 0, 0, 0, 0, 0, 0, 0, 0, 0, b n.val]
        | .quietOn m => [2, 0, 0, b m.toNat, 0, 0, 0, 0, 0, 0, 0]
        | .quietOff m => [3, 0, 0, b m.toNat, 0, 0, 0, 0, 0, 0, 0]
        | .stopReached => [4, 0, 0, 0, 0, 0, 0, 0, 0, 0, 0]
        | .mark => [5, 0, 0, 0, 0, 0, 0, 0, 0, 0, 0] := by cases x.action <;> rfl
    have hstate : x.state.code = match x.state with
        | .pending => 0 | .fired => 1 | .missed => 2 | .skipped => (3 : Byte) := by cases x.state <;> rfl
    rw [cueBytes, haction, hstate]
    rfl
  · exact entryRead_done (t := .phrase) ht rfl h (entryBytes_lt h _)
  · refine entryRead_done (t := .clip) ht rfl h ((entryBytes_lt h _).trans ?_)
    cases s.ccc.directory.get ⟨index.toNat, h⟩ <;> rfl
  · refine entryRead_done (t := .cell) ht rfl h ((entryBytes_lt h _).trans ?_)
    exact optBytes_map _
  · refine entryRead_done (t := .group) ht rfl h ((entryBytes_lt h _).trans ?_)
    show groupBytes (s.lmc.groups.get ⟨index.toNat, h⟩) = _
    generalize s.lmc.groups.get ⟨index.toNat, h⟩ = x
    have hign : x.ign.code = match x.ign with | .dark => 0 | .waiting => 1 | .lit => (2 : Byte) := by cases x.ign <;> rfl
    have hsource : sourceBytes x.source = match x.source with
        | .none => [0, 0, 0, 0]
        | .stopRequest => [1, 0, 0, 0]
        | .announce m k => [2, b m.toNat, b k.val, 0]
        | .alarm => [3, 0, 0, 0]
        | .chain g => [4, 0, 0, b g.val] := by cases x.source <;> rfl
    have hmode : x.pat.mode.code = mode x.pat.mode := by cases x.pat.mode <;> rfl
    simp only [groupBytes, hign, hsource, hmode]
    cases x.pending <;> rfl
  · refine entryRead_done (t := .preset) ht rfl h ((entryBytes_lt h _).trans ?_)
    rfl
  · refine entryRead_done (t := .scene) ht rfl h ((entryBytes_lt h _).trans ?_)
    rw [toList_eq_map_get, List.map_map]
    exact List.map_congr_left fun g _ => settingByte_eq _
  · refine entryRead_done (t := .settings) ht rfl h ?_
    show settingsBytes s.cth.settings = _
    rw [settingsBytes, toList_eq_map_get, List.map_map, optBytes_map, optBytes_map]
    rfl

/-! ## STATE_READ (R32) -/

/-- The two bytes of the current announcement's id and priority. -/
def currentBytes : Option Announcement → List Byte
  | none => [0, 0xFF]
  | some a => [byte a.id, byte a.priority.val]

theorem stateRecord_eq (s : State) : stateRecord s =
    [0x28, 1, byte s.tif.node.toNat, s.cth.cause.code, s.tif.trunk.code, s.rce.state.code, byte (s.rce.cursor / 256),
      byte s.rce.cursor, byte (s.rce.lastOdo / 256), byte s.rce.lastOdo, (currentBytes s.asq.current).getD 0 0,
      (currentBytes s.asq.current).getD 1 0, byte s.asq.queue.length, byte s.asq.stack.length, byte (busyVoices s),
      byte (validCount s), byte s.ccc.locks.length, (portState s).code, s.lmc.supply.code, s.lmc.override.code,
      yesByte s.scc.latch.isSome, onlineByte s 3, onlineByte s 2, onlineByte s 1, onlineByte s 0] := by
  unfold stateRecord
  cases s.asq.current <;> rfl

theorem filter_finRange_length {n : Nat} (p : Fin n → Bool) : ((List.finRange n).filter p).length ≤ n :=
  (List.length_filter_le _ _).trans (by simp)

theorem portState_code (s : State) : (portState s).code = match s.cmp.fetch, s.cmp.maint with
    | some _, _ => (1 : Byte)
    | none, none => 0
    | none, some m => if m.stage = .pending then 0 else match m.op with
      | .erase _ => 2
      | .program _ _ => 3
      | .read _ _ => 4 := by
  unfold portState
  cases s.cmp.fetch with
  | some f => rfl
  | none =>
    cases s.cmp.maint with
    | none => rfl
    | some m =>
      obtain ⟨op, stage, ticks⟩ := m
      dsimp only
      split
      · rfl
      · cases op <;> rfl

/-- A number made of its bits, the lowest first. -/
def bitsUpTo (f : Nat → Bool) (n : Nat) : Nat := (List.range n).foldl (fun m j => m + if f j then 2 ^ j else 0) 0

theorem bitsUpTo_succ (f : Nat → Bool) (n : Nat) : bitsUpTo f (n + 1) = bitsUpTo f n + if f n then 2 ^ n else 0 := by
  rw [bitsUpTo, List.range_succ, List.foldl_append]
  rfl

theorem bitsUpTo_lt (f : Nat → Bool) : ∀ n, bitsUpTo f n < 2 ^ n
  | 0 => Nat.one_pos
  | n + 1 => by
    have ih := bitsUpTo_lt f n
    rw [bitsUpTo_succ, pow_succ]
    split <;> omega

theorem testBit_bitsUpTo (f : Nat → Bool) : ∀ n j, j < n → (bitsUpTo f n).testBit j = f j
  | 0, _, h => absurd h (Nat.not_lt_zero _)
  | n + 1, j, h => by
    rw [bitsUpTo_succ]
    rcases Nat.lt_succ_iff_lt_or_eq.mp h with hj | rfl
    · rw [← testBit_bitsUpTo f n j hj]
      split
      · rw [Nat.add_comm, Nat.testBit_two_pow_add_gt hj]
      · rw [Nat.add_zero]
    · have hz : (bitsUpTo f j).testBit j = false := Nat.testBit_lt_two_pow (bitsUpTo_lt f j)
      cases hf : f j with
      | true => rw [if_pos rfl, Nat.add_comm, Nat.testBit_two_pow_add_eq, hz, Bool.not_false]
      | false => simpa using hz

/-- Whether the box of a number is ONLINE, no for a number of none. -/
def onlineAt (s : State) (n : Nat) : Bool := match asFin 32 n with
  | some k => (s.scc.boxes.get k).online
  | none => false

theorem onlineBit_eq (s : State) (n j : Nat) : onlineBit s n j = if onlineAt s n then 2 ^ j else 0 := by
  unfold onlineBit onlineAt
  cases asFin 32 n <;> rfl

/-- The bit of a box in its byte of the mask. -/
theorem onlineByte_bit (s : State) (b : BoxNo) : (onlineByte s (b.val / 8)).getLsbD (b.val % 8) = (s.scc.boxes.get b).online := by
  have hj : b.val % 8 < 8 := Nat.mod_lt _ (by decide)
  have hsum : onlineByte s (b.val / 8) = byte (bitsUpTo (fun j => onlineAt s (8 * (b.val / 8) + j)) 8) := by
    simp only [onlineByte, bitsUpTo, onlineBit_eq]
  rw [hsum, byte, BitVec.getLsbD_ofNat, testBit_bitsUpTo _ 8 _ hj, decide_eq_true hj, Bool.true_and, Nat.div_add_mod,
    onlineAt, asFin_val]

/-- The online bytes stand in the record from the highest down. -/
theorem stateRecord_online (s : State) (b : BoxNo) :
    ((stateRecord s)[24 - b.val / 8]?).getD 0 = onlineByte s (b.val / 8) := by
  have h4 : b.val / 8 = 0 ∨ b.val / 8 = 1 ∨ b.val / 8 = 2 ∨ b.val / 8 = 3 := by omega
  rw [stateRecord_eq]
  rcases h4 with h | h | h | h <;> rw [h] <;> rfl

/-- Settles O24: the record by its bytes. -/
theorem stateReadAnswers : Obligations.StateReadAnswers := by
  unfold Obligations.StateReadAnswers
  intro s ht
  refine ⟨stateRecord s, request_takes ht rfl, ?_⟩
  have hrec := stateRecord_eq s
  refine ⟨by rw [hrec]; rfl, by rw [hrec]; rfl, ?_, ?_, ?_, ?_, fun h => ?_, fun h => ?_, fun h => ?_, fun a h hid => ?_, fun h => ?_,
    fun h => ?_, ?_, ?_, fun h => ?_, ?_, ?_, ?_, ?_, fun b => ?_⟩
  · rw [hrec]
    show some (byte s.tif.node.toNat) = _
    refine congrArg some (BitVec.eq_of_toNat_eq ?_)
    rw [byte_toNat, BitVec.toNat_setWidth]
  · rw [hrec]
    show some s.cth.cause.code = _
    cases s.cth.cause <;> rfl
  · rw [hrec]
    show some s.tif.trunk.code = _
    cases s.tif.trunk <;> rfl
  · rw [hrec]
    show some s.rce.state.code = _
    cases s.rce.state <;> rfl
  · rw [hrec]
    exact be16_bytes h
  · rw [hrec]
    exact be16_bytes h
  · rw [hrec, h]
    exact ⟨rfl, rfl⟩
  · rw [hrec, h]
    exact ⟨byte_toNat_of_lt hid, byte_toNat_of_lt (by omega)⟩
  · rw [hrec]
    exact byte_toNat_of_lt (by omega)
  · rw [hrec]
    exact byte_toNat_of_lt (by omega)
  · have hle := filter_finRange_length fun v : VoiceNo => (voiceOf s v).state != .idle
    rw [hrec]
    refine (byte_toNat_of_lt (n := busyVoices s) (by rw [busyVoices, allVoices]; omega)).trans ?_
    rw [busyVoices, allVoices]
    refine congrArg List.length (List.filter_congr fun v _ => ?_)
    rw [bne, Bool.eq_iff_iff]
    simp [voiceOf]
  · have hle := filter_finRange_length fun i : LineNo => (lineOf s i).isValid
    rw [hrec]
    refine (byte_toNat_of_lt (n := validCount s) (by rw [validCount, allLines]; omega)).trans ?_
    rw [validCount, allLines]
    refine congrArg List.length (List.filter_congr fun i _ => ?_)
    rw [lineOf]
    cases s.ccc.lines.get i <;> rfl
  · rw [hrec]
    exact byte_toNat_of_lt (by omega)
  · rw [hrec]
    exact congrArg some (portState_code s)
  · rw [hrec]
    show some s.lmc.supply.code = _
    cases s.lmc.supply <;> rfl
  · rw [hrec]
    show some s.lmc.override.code = _
    cases s.lmc.override <;> rfl
  · rw [hrec]
    rfl
  · rw [stateRecord_online, onlineByte_bit]

end Sys2Proof.Proofs
end

section
/-! PROOFS. Packets: the slots of one fold to the request that it carries (R21, R22). -/

namespace Sys2Proof.Proofs

open Sys2Proof Sys2Proof.Machine Sys2Proof.Laws

/-! ## Slots by their bytes -/

/-- The first bytes of a list, zeros beyond its end. -/
def firstBytes (x : List Byte) (n : Nat) : List Byte := (List.range n).map fun i => x.getD i 0

@[simp] theorem firstBytes_length (x : List Byte) (n : Nat) : (firstBytes x n).length = n := by simp [firstBytes]

theorem firstBytes_take (x : List Byte) {n m : Nat} (h : n ≤ m) : (firstBytes x m).take n = firstBytes x n := by
  rw [firstBytes, ← List.map_take, List.take_range, Nat.min_eq_left h, firstBytes]

theorem firstBytes_append (x y : List Byte) : firstBytes (x ++ y) x.length = x := by
  refine Eq.trans (List.map_congr_left fun i hi => ?_) (eq_map_getD (r := x) rfl).symm
  have hi' : i < x.length := List.mem_range.mp hi
  simp [List.getD_eq_getElem?_getD, List.getElem?_append_left hi']

theorem getD_drop (x : List Byte) (n k : Nat) : (x.drop n).getD k 0 = x.getD (n + k) 0 := by
  simp [List.getD_eq_getElem?_getD]

/-- The bytes of a slot follow those before it. -/
theorem firstBytes_slot (x : List Byte) (k : Nat) :
    firstBytes x (4 * k) ++ (Slot.ofBytes (x.drop (4 * k))).bytes = firstBytes x (4 * (k + 1)) := by
  have h4 : (Slot.ofBytes (x.drop (4 * k))).bytes = [x.getD (4 * k) 0, x.getD (4 * k + 1) 0, x.getD (4 * k + 2) 0,
      x.getD (4 * k + 3) 0] := by
    simp only [Slot.ofBytes, Slot.bytes, getD_drop, Nat.add_zero]
  rw [h4, firstBytes, firstBytes, Nat.mul_succ]
  simp only [show 4 * k + 4 = 4 * k + 1 + 1 + 1 + 1 from rfl, List.range_succ, List.map_append, List.map_cons, List.map_nil,
    List.append_assoc, List.cons_append, List.nil_append]

/-! ## The assembly of a packet (R21) -/

variable {s : State}

theorem setAssembly_setAssembly (a b : Option Assembly) (s : State) : setAssembly a (setAssembly b s) = setAssembly a s := rfl

theorem setAssembly_none (h : s.cth.assembly = none) : setAssembly none s = s := by
  rw [setAssembly, ← h]

theorem takeSlot_idle {t : Slot} (h : s.cth.assembly = none) : takeSlot t s =
    if t.b0 = 0xC5 ∧ t.b3.toNat ≤ 56 then setAssembly (some { buffer := t.bytes, total := 5 + t.b3.toNat }) s else s := by
  rw [takeSlot, h]

theorem takeSlot_busy {t : Slot} {a : Assembly} (h : s.cth.assembly = some a) : takeSlot t s =
    if a.total ≤ (a.buffer ++ t.bytes).length then sortPacket ((a.buffer ++ t.bytes).take a.total) (setAssembly none s)
    else setAssembly (some { a with buffer := a.buffer ++ t.bytes }) s := by
  rw [takeSlot, h]

/-- The slots of a packet but the last, from IDLE: its bytes so far. -/
theorem takeSlots_part {x : List Byte} {total : Nat} (hidle : s.cth.assembly = none) (hstart : x.getD 0 0 = 0xC5)
    (hlen : 5 + (x.getD 3 0).toNat = total) (hfit : (x.getD 3 0).toNat ≤ 56) : ∀ n, 4 * (n + 1) < total →
    (List.range (n + 1)).foldl (fun t k => takeSlot (Slot.ofBytes (x.drop (4 * k))) t) s =
      setAssembly (some { buffer := firstBytes x (4 * (n + 1)), total := total }) s
  | 0, _ => by
    have hb : (Slot.ofBytes (x.drop (4 * 0))).bytes = firstBytes x (4 * (0 + 1)) := firstBytes_slot x 0
    show takeSlot (Slot.ofBytes (x.drop (4 * 0))) s = _
    rw [takeSlot_idle hidle, if_pos ⟨hstart, hfit⟩, hb]
    exact congrArg (fun k => setAssembly (some { buffer := firstBytes x (4 * (0 + 1)), total := k }) s) hlen
  | n + 1, h => by
    have ih := takeSlots_part hidle hstart hlen hfit n (by omega)
    rw [List.range_succ, List.foldl_append, ih, List.foldl_cons, List.foldl_nil, takeSlot_busy (a := _) rfl, firstBytes_slot,
      if_neg (by rw [firstBytes_length]; exact Nat.not_le.mpr h), setAssembly_setAssembly]

/-- The slots of a packet, from IDLE: its bytes sorted. -/
theorem takeSlots_packet {x : List Byte} {n total : Nat} (hidle : s.cth.assembly = none) (hstart : x.getD 0 0 = 0xC5)
    (hlen : 5 + (x.getD 3 0).toNat = total) (hfit : (x.getD 3 0).toNat ≤ 56) (hn : 4 * (n + 1) < total)
    (hlast : total ≤ 4 * (n + 2)) :
    (List.range (n + 2)).foldl (fun t k => takeSlot (Slot.ofBytes (x.drop (4 * k))) t) s = sortPacket (firstBytes x total) s := by
  rw [List.range_succ, List.foldl_append, takeSlots_part hidle hstart hlen hfit n hn, List.foldl_cons, List.foldl_nil,
    takeSlot_busy (a := _) rfl, firstBytes_slot, if_pos (by rw [firstBytes_length]; exact hlast), firstBytes_take x hlast,
    setAssembly_setAssembly, setAssembly_none hidle]

/-! ## The check byte and the request (R22) -/

/-- The bytes of a packet behind its start byte. -/
def packetBody (addr kind : Byte) (payload : List Byte) : List Byte :=
  addr :: kind :: BitVec.ofNat 8 payload.length :: payload

theorem sumBytes_check (body : List Byte) : sumBytes (body ++ [0 - sumBytes body]) = 0 := by
  have h : sumBytes (body ++ [0 - sumBytes body]) = sumBytes body + (0 - sumBytes body) := by
    rw [sumBytes, List.foldl_append]
    rfl
  exact h.trans (add_sub_cancel _ _)

theorem sortPacket_packet (addr kind : Byte) (payload : List Byte) (s : State) :
    sortPacket (0xC5 :: packetBody addr kind payload ++ [0 - sumBytes (packetBody addr kind payload)]) s =
      if addr = 15 then (if kind = 3 ∨ kind = 8 then handleRequest true kind payload s else s)
      else if addr = s.tif.node.setWidth 8 then handleRequest false kind payload s else s := by
  have hnode : addr.toNat = s.tif.node.toNat ↔ addr = s.tif.node.setWidth 8 := by
    rw [BitVec.toNat_eq, BitVec.toNat_setWidth, Nat.mod_eq_of_lt]
    have := s.tif.node.isLt
    omega
  have hsum : sumBytes ((0xC5 :: packetBody addr kind payload ++ [0 - sumBytes (packetBody addr kind payload)]).tail) = 0 :=
    sumBytes_check _
  have hlast : (payload ++ [0 - sumBytes (packetBody addr kind payload)]).dropLast = payload := List.dropLast_concat
  unfold sortPacket
  rw [if_neg (not_not.mpr hsum)]
  show (if addr = 15 then (if kind = 3 ∨ kind = 8 then handleRequest true kind (payload ++ [_]).dropLast s else s)
    else if addr.toNat = s.tif.node.toNat then handleRequest false kind (payload ++ [_]).dropLast s else s) = _
  rw [hlast]
  simp only [hnode]

/-- Settles O18: a packet's slots by `takeSlots_packet`, what sorts it by `sortPacket_packet`, and a slot by the assembly state. -/
theorem packetIsTaken : Obligations.PacketIsTaken := by
  unfold Obligations.PacketIsTaken
  refine ⟨fun s addr kind payload fill hidle hlen => ?_, fun s => ⟨fun b h hbad => ?_, fun b h h0 h3 => ?_, fun a b h => ?_, rfl,
    fun bytes h => ?_⟩⟩
  · intro body bytes
    have hbytes : bytes.length = payload.length + 5 := by simp [bytes, body]
    have hlength : ((bytes ++ fill).getD 3 0).toNat = payload.length := byte_toNat_of_lt (by omega)
    have hslots : (payload.length + 8) / 4 = (payload.length + 8) / 4 - 2 + 2 := by omega
    rw [hslots, takeSlots_packet hidle rfl rfl (by rw [hlength]; exact hlen) (by rw [hlength]; omega) (by rw [hlength]; omega),
      hlength, Nat.add_comm 5, ← hbytes, firstBytes_append]
    exact sortPacket_packet addr kind payload s
  · rw [takeSlot_idle h, if_neg]
    rintro ⟨h0, h3⟩
    exact hbad.elim (absurd h0) (absurd h3 ∘ Nat.not_le.mpr)
  · rw [takeSlot_idle h, if_pos ⟨h0, h3⟩]
    rfl
  · rw [takeSlot_busy h]
    by_cases hfull : a.total ≤ (a.buffer ++ b.bytes).length
    · rw [if_pos hfull]
      exact (if_neg (Nat.not_lt.mpr hfull)).symm
    · rw [if_neg hfull]
      exact (if_pos (Nat.lt_of_not_le hfull)).symm
  · exact if_pos h

end Sys2Proof.Proofs
end

section
/-! PROOFS. Requests by their kind and payload, and actions by their code and parameters (R23, R24, R30). -/

namespace Sys2Proof.Proofs

open Sys2Proof Sys2Proof.Machine Sys2Proof.Laws

variable {s : State} {bc : Bool}

/-! ## Requests discarded (R14, R23) -/

theorem requestOf_owner {c : Instr} {kind : Byte} {f : State → State × Answer}
    (h : ownerOfCommand c = some (bc, kind, f)) : requestOf c = some bc := by
  cases c <;> cases h <;> rfl

theorem requestOf_noOwner {c : Instr} (h : ownerOfCommand c = none) (hr : requestOf c = some bc) :
    ∃ n tag, c = .routeArm bc n tag := by
  cases c
  case routeArm b n tag =>
    cases hr
    exact ⟨n, tag, rfl⟩
  case powerOn | resetLineAssert | resetLineRelease | warmUpEnd | validSlot | invalidSlot | downstreamReturnFrame
      | deckResetEffect | tick | boxReply | talkHangExpiry | voicesFinished | gapExpiry | clipStall | fadeEnd | fetchComplete
      | memoryReady | maintenanceTimeout | scanFrameBoundary | supplyRampDone | supplyRampTimeout | supplyGoodLost
      | deckAlarmInput | overrideClear | powerFail => cases hr
  all_goals cases h

theorem whenLocked_runs {f : State → State} (hr : s.power.running = true) (hl : s.tif.trunk = .locked) :
    whenLocked f s = .next (f s) := by
  simp only [whenLocked, whenRunning, hr, hl, if_true]

theorem whenLocked_idle {f : State → State} (hr : s.power.running = true) (h : s.tif.trunk ≠ .locked ∨ f s = s) :
    whenLocked f s = .next s := by
  by_cases hl : s.tif.trunk = .locked
  · rw [whenLocked_runs hr hl, h.resolve_left (not_not.mpr hl)]
  · exact whenLocked_unlocked hl

theorem exec_routeArm (bc : Bool) (n : Word16) (tag : Byte) (s : State) : exec (.routeArm bc n tag) s =
    whenLocked (fun s => settle (takeRequest bc replyAction (routeArmOp n.toNat tag) s)) s := rfl

theorem exec_discarded {c : Instr} (hc : requestOf c = some bc) (hr : s.power.running = true) (hdue : s.rce.due = [])
    (h : s.tif.trunk ≠ .locked ∨ s.cth.deckPending = true ∨ (bc = false ∧ 4 ≤ s.cth.replies.length)) :
    exec c s = .next s := by
  cases ho : ownerOfCommand c with
  | some r =>
    obtain ⟨b, kind, f⟩ := r
    have hb : b = bc := Option.some.inj ((requestOf_owner ho).symm.trans hc)
    subst hb
    rw [exec_request ho]
    exact whenLocked_idle hr (h.imp_right takeRequest_discarded)
  | none =>
    obtain ⟨n, tag, rfl⟩ := requestOf_noOwner ho hc
    rw [exec_routeArm]
    refine whenLocked_idle hr (h.imp_right fun hd => ?_)
    show settle (takeRequest bc replyAction (routeArmOp n.toNat tag) s) = s
    rw [takeRequest_discarded hd, settle_none hdue]

/-! ## Rows by their bytes (R24, R30) -/

theorem append_byte_toNat {n : Nat} (h : BitVec n) (l : Byte) : (h ++ l).toNat = h.toNat * 256 + l.toNat := by
  rw [BitVec.toNat_append, Nat.shiftLeft_eq, Nat.mul_comm, ← Nat.two_pow_add_eq_or_of_lt l.isLt, Nat.mul_comm]

theorem be16_append (h l : Byte) : be16 h l = (h ++ l).toNat := (append_byte_toNat h l).symm

theorem be24_append (a b c : Byte) : be24 a b c = (a ++ b ++ c).toNat := by
  rw [append_byte_toNat, append_byte_toNat, be24]
  omega

/-- A command of a kind's payload is the request of that kind. -/
theorem exec_row {c : Instr} {kind reply : Byte} {f : State → State × Answer} {payload : List Byte}
    (hr : s.power.running = true) (hl : s.tif.trunk = .locked) (hc : ownerOfCommand c = some (bc, reply, f))
    (hkind : replyKindOf kind = reply) (hf : ownerOf bc kind payload = f) :
    exec c s = .next (handleRequest bc kind payload s) := by
  rw [exec_request hc, whenLocked_runs hr hl, handleRequest, hkind, hf]

theorem exec_action {c : Instr} {code : Byte} {f : State → State × Answer} {params : List Byte}
    (hr : s.power.running = true) (hl : s.tif.trunk = .locked) (hc : ownerOfCommand c = some (bc, replyAction, f))
    (hf : actionOp code params = f) : exec c s = .next (handleRequest bc 3 (code :: params) s) :=
  exec_row (kind := 3) hr hl hc rfl hf

/-! ## Requests refused (R24, R30, R177) -/

theorem handleRequest_answer {kind reply : Byte} {p payload : List Byte} (ht : takes bc s) (hkind : replyKindOf kind = reply)
    (h : ownerOf bc kind payload s = (s, .reply p)) : handleRequest bc kind payload s = withReply bc reply p s := by
  rw [handleRequest, hkind]
  exact takeRequest_takes ht h

theorem ownerOf_unknown {kind : Byte} (h : kind.toNat < 1 ∨ 8 < kind.toNat) (payload : List Byte) (s : State) :
    ownerOf bc kind payload s = badKindOp kind s := by
  unfold ownerOf
  split
  case h_9 => rfl
  all_goals omega

theorem replyKindOf_unknown {kind : Byte} (h : kind.toNat < 1 ∨ 8 < kind.toNat) : replyKindOf kind = 0x80 :=
  if_neg (by omega)

theorem actionOp_unknown {code : Byte} (params : List Byte) (s : State)
    (h : code ∉ ([0x01, 0x02, 0x10, 0x11, 0x12, 0x20, 0x21, 0x30, 0x31, 0x40, 0x50, 0x51, 0x52] : List Byte)) :
    actionOp code params s = unknownActionOp code s := by
  have hne : ∀ n : Byte, n ∈ ([0x01, 0x02, 0x10, 0x11, 0x12, 0x20, 0x21, 0x30, 0x31, 0x40, 0x50, 0x51, 0x52] : List Byte) →
      code.toNat ≠ n.toNat := fun n hn e => h (BitVec.eq_of_toNat_eq e ▸ hn)
  unfold actionOp
  split
  case h_14 => rfl
  case h_1 e => exact absurd e (hne 0x01 (by decide))
  case h_2 e => exact absurd e (hne 0x02 (by decide))
  case h_3 e => exact absurd e (hne 0x10 (by decide))
  case h_4 e => exact absurd e (hne 0x11 (by decide))
  case h_5 e => exact absurd e (hne 0x12 (by decide))
  case h_6 e => exact absurd e (hne 0x20 (by decide))
  case h_7 e => exact absurd e (hne 0x21 (by decide))
  case h_8 e => exact absurd e (hne 0x30 (by decide))
  case h_9 e => exact absurd e (hne 0x31 (by decide))
  case h_10 e => exact absurd e (hne 0x40 (by decide))
  case h_11 e => exact absurd e (hne 0x50 (by decide))
  case h_12 e => exact absurd e (hne 0x51 (by decide))
  case h_13 e => exact absurd e (hne 0x52 (by decide))

/-- A payload whose length does not fit its kind. -/
theorem payload_refused {p : List Byte} (s : State) :
    (p.length < 3 → entryWritePayload p s = badLength s ∧ clipProgramPayload p s = badLength s) ∧
    (p.length ≠ 3 → entryReadPayload p s = badLength s) ∧
    (p.length = 0 → actionPayload p s = badLength s) ∧
    (∀ f, p.length ≠ 0 → emptyPayload p f s = badLength s) ∧
    (p.length ≠ 2 → clipErasePayload p s = badLength s) ∧
    (p.length ≠ 4 → clipReadPayload p s = badLength s) := by
  refine ⟨fun h => ⟨?_, ?_⟩, fun h => ?_, fun h => ?_, fun f h => ?_, fun h => ?_, fun h => ?_⟩
  · unfold entryWritePayload
    split
    · simp only [List.length_cons] at h
      omega
    · rfl
  · unfold clipProgramPayload
    split
    · simp only [List.length_cons] at h
      omega
    · rfl
  · unfold entryReadPayload
    split
    · exact absurd rfl h
    · rfl
  · rw [List.eq_nil_of_length_eq_zero h]
    rfl
  · rw [emptyPayload, if_neg]
    rintro he
    exact h (by rw [List.isEmpty_iff.mp he]; rfl)
  · unfold clipErasePayload
    split
    · exact absurd rfl h
    · rfl
  · unfold clipReadPayload
    split
    · exact absurd rfl h
    · rfl

/-- An action with another count of parameters than its own. -/
theorem params_refused {p : List Byte} (s : State) :
    (p.length ≠ 12 → announceOp p s = badParams s ∧ groupOp p s = badParams s) ∧
    (p.length ≠ 2 → cutAction p s = badParams s ∧ quietAction p s = badParams s) ∧
    (p.length ≠ 1 → sceneAction p s = badParams s ∧ supplyAction p s = badParams s) ∧
    (p.length ≠ 3 → routeArmAction p s = badParams s ∧ clipLockAction p s = badParams s) ∧
    (p.length ≠ 4 → clipUnlockAction p s = badParams s) ∧
    (p.length ≠ 7 → seatOp p s = badParams s) ∧
    ∀ f, p.length ≠ 0 → bareAction f p s = badParams s := by
  refine ⟨fun h => ⟨?_, ?_⟩, fun h => ⟨?_, quietAction_of_length_ne h s⟩, fun h => ⟨?_, ?_⟩, fun h => ⟨?_, ?_⟩, fun h => ?_,
    fun h => ?_, fun f h => ?_⟩
  · have hnone : decodeAnnounce p = none := by
      unfold decodeAnnounce
      split
      · exact absurd rfl h
      · rfl
    rw [announceOp, hnone]
    rfl
  · unfold groupOp
    split
    · exact absurd rfl h
    · rfl
  · unfold cutAction
    split
    · exact absurd rfl h
    · rfl
  · unfold sceneAction
    split
    · exact absurd rfl h
    · rfl
  · unfold supplyAction
    split
    · exact absurd rfl h
    · rfl
  · unfold routeArmAction
    split
    · exact absurd rfl h
    · rfl
  · unfold clipLockAction
    split
    · exact absurd rfl h
    · rfl
  · unfold clipUnlockAction
    split
    · exact absurd rfl h
    · rfl
  · rw [seatOp, decodeSeatParams_of_length_ne h]
    rfl
  · rw [bareAction, if_neg]
    rintro he
    exact h (by rw [List.isEmpty_iff.mp he]; rfl)

theorem groupOp_refused {g op : Byte} (rest : List Byte) (s : State) (h : 5 < op.toNat) :
    groupOp (g :: op :: rest) s = badParams s := by
  unfold groupOp
  split
  · next g' op' p m on off a b k f st hd heq =>
    have he : op = op' := (List.cons.inj (List.cons.inj heq).2).1
    subst he
    split
    case h_7 => rfl
    all_goals omega
  · rfl

theorem cutAction_refused {id mode : Byte} (s : State) (h : 1 < mode.toNat) : cutAction [id, mode] s = badParams s := by
  have h0 : mode ≠ 0 := fun e => absurd h (by rw [e]; decide)
  have h1 : mode ≠ 1 := fun e => absurd h (by rw [e]; decide)
  rw [cutAction, if_neg h0, if_neg h1]

/-- Settles O19: discarded requests by `exec_discarded`, the rows by their owners, and the refusals by length, count and code. -/
theorem requestsSortedOut : Obligations.RequestsSortedOut := by
  unfold Obligations.RequestsSortedOut
  refine ⟨fun c bc s hc hr hdue h => exec_discarded hc hr hdue h, fun s kind code bc payload => ⟨fun ht => ?_, fun ht => ?_,
    fun ht h => ?_, fun ht h => ?_⟩, fun s bc hr hl => ?_, fun s bc payload ht => ?_⟩
  · exact request_takes ht rfl
  · exact request_takes ht rfl
  · exact handleRequest_answer ht (replyKindOf_unknown h) (ownerOf_unknown h payload s)
  · exact handleRequest_answer ht rfl (actionOp_unknown payload s h)
  · intro row action
    refine ⟨fun t i1 i0 record => ?_, fun t i1 i0 => ?_, ?_, fun k1 k0 => ?_, fun a2 a1 a0 data => ?_, fun a2 a1 a0 n => ?_, ?_,
      fun params => ?_, fun id => ⟨?_, ?_⟩, fun n => ?_, fun g p m on off a b k f st h => ⟨?_, ?_, ?_, ?_, ?_, ?_⟩, fun on => ?_,
      fun c1 c0 tag => ?_, ?_, ?_, fun params => ?_, fun zones on => ?_, fun f1 f0 l => ?_, fun p f1 f0 l => ?_, ?_⟩
    · exact exec_row hr hl rfl rfl (congrArg (entryWriteOp t · record) (be16_append i1 i0))
    · exact exec_row hr hl rfl rfl (congrArg (entryReadOp t) (be16_append i1 i0))
    · exact exec_row hr hl rfl rfl rfl
    · exact exec_row hr hl rfl rfl (congrArg clipEraseOp (be16_append k1 k0))
    · exact exec_row hr hl rfl rfl (congrArg (clipProgramOp · data) (be24_append a2 a1 a0))
    · exact exec_row hr hl rfl rfl (congrArg (clipReadOp · n.toNat) (be24_append a2 a1 a0))
    · exact exec_row hr hl rfl rfl rfl
    · exact exec_action hr hl rfl rfl
    · exact exec_action hr hl rfl rfl
    · exact exec_action hr hl rfl rfl
    · exact exec_action hr hl rfl rfl
    · exact exec_action hr hl rfl rfl
    · exact exec_action hr hl rfl rfl
    · exact exec_action hr hl rfl rfl
    · exact exec_action hr hl rfl rfl
    · exact exec_action hr hl rfl rfl
    · exact exec_action hr hl rfl rfl
    · by_cases hon : on = 0
      · subst hon
        exact exec_action hr hl rfl rfl
      · show exec (if on = 0 then .supplyOff bc else .supplyOn bc) s = _
        rw [if_neg hon]
        exact exec_action hr hl rfl (funext fun s => if_pos (yes_eq_true hon))
    · rw [exec_routeArm, whenLocked_runs hr hl, ← be16_append]
      rfl
    · exact exec_action hr hl rfl rfl
    · exact exec_action hr hl rfl rfl
    · exact exec_action hr hl rfl rfl
    · exact exec_action hr hl rfl rfl
    · exact exec_action hr hl rfl (congrArg (clipLockOp · l) (be16_append f1 f0))
    · exact exec_action hr hl rfl (congrArg (clipUnlockOp p · l) (be16_append f1 f0))
    · exact exec_action hr hl rfl rfl
  · intro refused
    obtain ⟨h1, h2, h3, h4, h5, h7⟩ := payload_refused (p := payload) s
    refine ⟨fun h => ⟨?_, ?_⟩, fun h => ?_, fun h => ?_, fun h => ⟨?_, ?_⟩, fun h => ?_, fun h => ?_, fun code count hm h => ?_,
      fun id mode h => ?_, fun g op h => ?_⟩
    · exact handleRequest_answer ht rfl (h1 h).1
    · exact handleRequest_answer ht rfl (h1 h).2
    · exact handleRequest_answer ht rfl (h2 h)
    · exact handleRequest_answer ht rfl (h3 h)
    · exact handleRequest_answer ht rfl (h4 _ h)
    · exact handleRequest_answer ht rfl (h4 _ h)
    · exact handleRequest_answer ht rfl (h5 h)
    · exact handleRequest_answer ht rfl (h7 h)
    · obtain ⟨h12, h2, h1, h3, h4, h7, h0⟩ := params_refused (p := payload) s
      simp only [List.mem_cons, Prod.mk.injEq, List.not_mem_nil, or_false] at hm
      rcases hm with ⟨rfl, rfl⟩ | ⟨rfl, rfl⟩ | ⟨rfl, rfl⟩ | ⟨rfl, rfl⟩ | ⟨rfl, rfl⟩ | ⟨rfl, rfl⟩ | ⟨rfl, rfl⟩ | ⟨rfl, rfl⟩ |
        ⟨rfl, rfl⟩ | ⟨rfl, rfl⟩ | ⟨rfl, rfl⟩ | ⟨rfl, rfl⟩ | ⟨rfl, rfl⟩
      · exact handleRequest_answer ht rfl (h12 h).1
      · exact handleRequest_answer ht rfl (h2 h).1
      · exact handleRequest_answer ht rfl (h1 h).1
      · exact handleRequest_answer ht rfl (h12 h).2
      · exact handleRequest_answer ht rfl (h1 h).2
      · exact handleRequest_answer ht rfl (h3 h).1
      · exact handleRequest_answer ht rfl (h0 _ h)
      · exact handleRequest_answer ht rfl (h0 _ h)
      · exact handleRequest_answer ht rfl (h7 h)
      · exact handleRequest_answer ht rfl (h2 h).2
      · exact handleRequest_answer ht rfl (h3 h).2
      · exact handleRequest_answer ht rfl (h4 h)
      · exact handleRequest_answer ht rfl (h0 _ h)
    · exact handleRequest_answer ht rfl (cutAction_refused s h)
    · exact handleRequest_answer ht rfl (groupOp_refused payload s h)

end Sys2Proof.Proofs
end

section
/-! PROOFS. SCENE, the GROUP actions and the write of a lamp group's record (R168, R169, R173 to R177). -/

namespace Sys2Proof.Proofs

open Sys2Proof Sys2Proof.Machine Sys2Proof.Laws

variable {s : State} {bc : Bool}

/-! ## Answers of an action -/

theorem exec_action_done {c : Instr} {f : State → State × Answer} {t : State} (ht : takes bc s)
    (hc : ownerOfCommand c = some (bc, replyAction, f)) (hf : f s = (t, answer .done)) :
    exec c s = .next (withReply bc 0x83 [0] t) := by
  rw [exec_request hc]
  exact request_takes ht hf

theorem exec_action_badValue {c : Instr} {f : State → State × Answer} (ht : takes bc s)
    (hc : ownerOfCommand c = some (bc, replyAction, f)) (hf : f s = (s, answer .badValue)) :
    exec c s = .next (withReply bc 0x83 [4] s) := by
  rw [exec_request hc]
  exact request_takes ht hf

theorem onGroup_lt {n : Byte} (h : n.toNat < 24) (f : GroupNo → State × Answer) (s : State) :
    onGroup n f s = f ⟨n.toNat, h⟩ := by
  rw [onGroup, asFin_lt h]

theorem onGroup_ge {n : Byte} (h : 23 < n.toNat) (f : GroupNo → State × Answer) (s : State) :
    onGroup n f s = (s, answer .badValue) := by
  rw [onGroup, asFin_ge h]

/-! ## SCENE and the GROUP actions -/

/-- Settles O40: the scene by `applyScene_eq`. -/
theorem sceneActs : Obligations.SceneActs := by
  unfold Obligations.SceneActs
  refine fun bc n s ht => ⟨fun h => ?_, fun h => ?_⟩
  · refine exec_action_badValue ht rfl ?_
    rw [sceneOp, asFin_ge h]
  · have hop : sceneOp n s = doneWith (applyScene ⟨n.toNat, h⟩ s) := by rw [sceneOp, asFin_lt h]
    refine (exec_action_done ht rfl hop).trans ?_
    rw [applyScene_eq]
    refine congrArg (fun t => Host.Outcome.next (withReply bc 0x83 [0] t)) (withGroups_congr fun g => ?_)
    split
    · rfl
    · cases (s.lmc.scenes.get ⟨n.toNat, h⟩).get g <;> rfl

/-- Settles O41: each operation by its equation for one group. -/
theorem groupCommandsAct : Obligations.GroupCommandsAct := by
  unfold Obligations.GroupCommandsAct
  refine ⟨fun bc n s ht => ⟨fun h => ⟨?_, ?_⟩, fun h => ⟨?_, ?_⟩⟩, fun bc n a b s ht => ⟨fun h => ⟨?_, ?_⟩, fun h => ⟨?_, ?_⟩⟩⟩
  · exact exec_action_badValue ht rfl (onGroup_ge h _ s)
  · exact exec_action_badValue ht rfl (onGroup_ge h _ s)
  · refine exec_action_done ht rfl ((onGroup_lt h _ s).trans ?_)
    rw [startGroup_eq]
    rfl
  · refine exec_action_done ht rfl ((onGroup_lt h _ s).trans ?_)
    rw [stopGroup_eq]
    rfl
  · exact exec_action_badValue ht rfl (onGroup_ge h _ s)
  · exact exec_action_badValue ht rfl (onGroup_ge h _ s)
  · refine exec_action_done ht rfl ((onGroup_lt h _ s).trans ?_)
    simp only [doneWith, writePending, groupOf, atLeast1_eq]
    split
    · rfl
    · rfl
  · exact exec_action_done ht rfl (onGroup_lt h _ s)

/-- A pattern written and the group started where asked, as one change of the group. -/
theorem startAfter_writePattern (st : Byte) (g : GroupNo) (p : Pattern) (s : State) :
    startAfter st g (writePattern g p s) =
      withGroups (onlyGroup g fun x => if st = 0 then afterPattern p x else afterStart (afterPattern p x)) s := by
  rw [startAfter, writePattern_eq]
  by_cases h : st = 0
  · rw [h]
    rfl
  · rw [if_pos (yes_eq_true h), startGroup_eq, onlyGroup_onlyGroup (fun x => afterStart_after_pattern p x)]
    simp only [if_neg h]

/-- Settles O42: `startAfter_writePattern`, with the pattern of the fields or of the preset. -/
theorem groupPatternActs : Obligations.GroupPatternActs := by
  unfold Obligations.GroupPatternActs
  refine fun bc n m on off a b p f st s ht => ⟨fun h => ?_, fun h => ?_, fun h => ⟨fun mode hm => ?_, fun h2 => ?_⟩⟩
  · refine exec_action_badValue ht rfl ?_
    rw [groupFieldsOp]
    by_cases hn : 23 < n.toNat
    · exact onGroup_ge hn _ s
    · rw [onGroup_lt (Nat.lt_of_not_le hn), decodePattern, decodeMode_refused (h.resolve_left hn)]
      rfl
  · refine exec_action_badValue ht rfl ?_
    rw [groupPresetOp]
    by_cases hn : 23 < n.toNat
    · exact onGroup_ge hn _ s
    · rw [onGroup_lt (Nat.lt_of_not_le hn), asFin_ge (h.resolve_left hn)]
  · have hcode : mode.code = m := Eq.trans (by cases mode <;> rfl) hm
    refine exec_action_done ht rfl ((onGroup_lt h _ s).trans ?_)
    have hdec : decodePattern m on off a b p f = some
        { mode := mode, levelOn := min 63 on.toNat, levelOff := min 63 off.toNat, onLen := max 1 a.toNat,
          offLen := max 1 b.toNat, pulseCount := max 1 p.toNat, fadeStep := max 1 f.toNat } :=
      decodePreset_accepted (congrArg BitVec.toNat hcode)
    rw [hdec]
    exact congrArg doneWith (startAfter_writePattern st _ _ s)
  · refine exec_action_done ht rfl ((onGroup_lt h _ s).trans ?_)
    rw [asFin_lt h2]
    exact congrArg doneWith (startAfter_writePattern st _ _ s)

/-! ## The record of a group written (R167, R168) -/

/-- The seventeen bytes of a group's record decoded: the pattern and the source in range. -/
theorem decodeGroup_accepted {m on off a b pp pa pb pulses fade src mask thr chain fo ho sa : Byte} {mode : Mode}
    {source : StartSource} (hm : mode.code.toNat = m.toNat) (hs : decodeSource src mask thr chain = some source) :
    decodeGroup [m, on, off, a, b, pp, pa, pb, pulses, fade, src, mask, thr, chain, fo, ho, sa] = some
      { pat := { mode := mode, levelOn := min 63 on.toNat, levelOff := min 63 off.toNat, onLen := max 1 a.toNat,
                 offLen := max 1 b.toNat, pulseCount := max 1 pulses.toNat, fadeStep := max 1 fade.toNat },
        pending := if pp.toNat = 0 then none else some (max 1 pa.toNat, max 1 pb.toNat), source := source,
        follow := decide (fo.toNat ≠ 0), hold := decide (ho.toNat ≠ 0), safety := decide (sa.toNat ≠ 0) } := by
  simp only [decodeGroup, decodePattern, decodeMode_of_code hm, Option.map_some, hs, atLeast1_eq, yes_eq_decide,
    decide_eq_true_iff, ne_eq, ite_not]

theorem decodeSource_accepted {src mask thr chain : Byte} {source : StartSource} (h : match source with
      | .none => src.toNat = 0
      | .stopRequest => src.toNat = 1
      | .announce m k => src.toNat = 2 ∧ m.toNat = mask.toNat ∧ k.val = thr.toNat
      | .alarm => src.toNat = 3
      | .chain g => src.toNat = 4 ∧ g.val = chain.toNat) : decodeSource src mask thr chain = some source := by
  cases source with
  | none => simp only [decodeSource, show src.toNat = 0 from h]
  | stopRequest => simp only [decodeSource, show src.toNat = 1 from h]
  | announce m k =>
    obtain ⟨h1, h2, h3⟩ := h
    simp only [decodeSource, h1, decodeMask_of_toNat h2, asFin_of_val h3]
  | alarm => simp only [decodeSource, show src.toNat = 3 from h]
  | chain g =>
    obtain ⟨h1, h2⟩ := h
    simp only [decodeSource, h1, asFin_of_val h2, Option.map_some]

theorem afterStop_pending (x : Group) (p : Option (Nat × Nat)) :
    afterStop { x with pending := p } = { afterStop x with pending := p } := by
  unfold afterStop
  split
  · rfl
  · rfl

theorem afterStart_pending (x : Group) (p : Option (Nat × Nat)) :
    afterStart { x with pending := p } = { afterStart x with pending := p } := by
  unfold afterStart
  split
  · exact afterStop_pending x p
  · rfl

theorem afterPattern_pending (q : Pattern) (x : Group) (p : Option (Nat × Nat)) :
    afterPattern q { x with pending := p } = { afterPattern q x with pending := p } := by
  unfold afterPattern
  dsimp only
  split
  · exact afterStop_pending { x with pat := q } p
  · split
    · exact afterStart_pending { x with pat := q } p
    · rfl

/-- What a mode written brings, with the mode before it (R168). -/
def modeGroup (before : Mode) (x : Group) : Group :=
  if x.running && x.pat.mode == .off then afterStop x
  else if x.running && x.pat.mode != before then afterStart x else x

theorem afterPattern_eq (q : Pattern) (x : Group) : afterPattern q x = modeGroup x.pat.mode { x with pat := q } := by
  simp only [afterPattern, modeGroup, Bool.and_eq_true, beq_iff_eq, bne_iff_ne]

/-- The fields of a written record but the pattern and the pending pair, with what a changed safety flag shows. -/
def configuredGroup (l : Lmc) (w : GroupWrite) (x : Group) : Group :=
  let fields : Group := { x with source := w.source, follow := w.follow, hold := w.hold, safety := w.safety }
  if l.supply = .ready ∧ l.override ≠ .clear ∧ w.safety ≠ x.safety then
    { fields with ign := if w.safety then .lit else .dark }
  else fields

theorem overriddenGroup_written (l : Lmc) (w : GroupWrite) (x : Group) :
    overriddenGroup l x.safety (writtenGroup w x) = { configuredGroup l w x with pat := w.pat, pending := none } := by
  by_cases hc : l.supply = .ready ∧ l.override ≠ .clear ∧ w.safety ≠ x.safety
  · have ho : overriddenGroup l x.safety (writtenGroup w x) =
        { writtenGroup w x with ign := if w.safety then .lit else .dark } := if_pos hc
    rw [ho, configuredGroup, if_pos hc, writtenGroup]
  · have ho : overriddenGroup l x.safety (writtenGroup w x) = writtenGroup w x := if_neg hc
    rw [ho, configuredGroup, if_neg hc, writtenGroup]

/-- What a written record makes of the group. -/
def recordedGroup (l : Lmc) (w : GroupWrite) (x : Group) : Group :=
  let y := afterPattern w.pat (configuredGroup l w x)
  match w.pending with
  | none => { y with pending := none }
  | some (a, b) => if y.running then { y with pending := some (a, b) }
    else { y with pat := { y.pat with onLen := a, offLen := b }, pending := none }

theorem configuredGroup_mode (l : Lmc) (w : GroupWrite) (x : Group) :
    (configuredGroup l w x).pat = x.pat ∧ (configuredGroup l w x).running = x.running := by
  unfold configuredGroup
  dsimp only
  split
  · exact ⟨rfl, rfl⟩
  · exact ⟨rfl, rfl⟩

/-- The mode's effect after the fields are written, all of them at once. -/
theorem modeEffect_written (g : GroupNo) (w : GroupWrite) (s : State) :
    modeEffect g (groupOf s g).pat.mode (overrideSafety g (groupOf s g).safety (setGroup g (writtenGroup w (groupOf s g)) s)) =
      withGroups (onlyGroup g fun x => { afterPattern w.pat (configuredGroup s.lmc w x) with pending := none }) s := by
  have e : setGroup g (writtenGroup w (groupOf s g)) s = withGroups (onlyGroup g (writtenGroup w)) s :=
    setGroup_map (writtenGroup w) g s fun _ => rfl
  have hl : (withGroups (onlyGroup g (writtenGroup w)) s).lmc.supply = s.lmc.supply ∧
      (withGroups (onlyGroup g (writtenGroup w)) s).lmc.override = s.lmc.override := by simp
  have eo : overriddenGroup (withGroups (onlyGroup g (writtenGroup w)) s).lmc (groupOf s g).safety =
      overriddenGroup s.lmc (groupOf s g).safety := by
    funext x
    rw [overriddenGroup, hl.1, hl.2, overriddenGroup]
  rw [e, overrideSafety_eq, modeEffect_eq, eo,
    onlyGroup_onlyGroup (f := overriddenGroup s.lmc _) (h := writtenGroup w) (fun _ => .inl rfl),
    onlyGroup_onlyGroup (h := fun x => overriddenGroup s.lmc _ (writtenGroup w x))
      (fun x => .inl (overriddenGroup_running s.lmc _ _))]
  apply withGroups_congr
  intro k
  unfold onlyGroup
  split
  · next hk =>
    subst hk
    obtain ⟨hp, hr⟩ := configuredGroup_mode s.lmc w (s.lmc.groups.get k)
    have hw := overriddenGroup_written s.lmc w (s.lmc.groups.get k)
    refine Eq.trans ?_ (afterPattern_pending w.pat (configuredGroup s.lmc w (s.lmc.groups.get k)) none)
    rw [afterPattern_eq]
    show modeGroup (s.lmc.groups.get k).pat.mode (overriddenGroup s.lmc (s.lmc.groups.get k).safety _) = _
    rw [hw, ← hp]
  · rfl

theorem recordedGroup_pending (l : Lmc) (w : GroupWrite) (x : Group) {c : Prop} [Decidable c] (a b : Nat)
    (h : w.pending = if c then none else some (a, b)) : recordedGroup l w x =
      if c then { afterPattern w.pat (configuredGroup l w x) with pending := none }
      else if (afterPattern w.pat (configuredGroup l w x)).running then
        { afterPattern w.pat (configuredGroup l w x) with pending := some (a, b) }
      else { afterPattern w.pat (configuredGroup l w x) with
        pat := { (afterPattern w.pat (configuredGroup l w x)).pat with onLen := a, offLen := b }, pending := none } := by
  unfold recordedGroup
  rw [h]
  by_cases hc : c
  · rw [if_pos hc, if_pos hc]
  · rw [if_neg hc, if_neg hc]

theorem storeGroup_eq (g : GroupNo) (w : GroupWrite) (s : State) :
    storeGroup g w s = withGroups (onlyGroup g (recordedGroup s.lmc w)) s := by
  have hm := modeEffect_written g w s
  unfold storeGroup
  dsimp only
  rw [writtenGroup] at hm
  rw [hm]
  cases hp : w.pending with
  | none =>
    have hr : recordedGroup s.lmc w = fun x => { afterPattern w.pat (configuredGroup s.lmc w x) with pending := none } := by
      funext x
      rw [recordedGroup, hp]
    rw [hr]
  | some ab =>
    obtain ⟨a, b⟩ := ab
    dsimp only
    rw [writePending_eq, onlyGroup_onlyGroup]
    · refine congrArg (fun f => withGroups (onlyGroup g f) s) (funext fun x => ?_)
      rw [recordedGroup, hp]
    · intro x
      refine .inr ?_
      split <;> rfl

/-- Settles O43: the record decodes to `GroupWrite`, and `storeGroup_eq` says what it makes of the group. -/
theorem groupRecordWritten : Obligations.GroupRecordWritten := by
  unfold Obligations.GroupRecordWritten
  intro index record mode source s h ht hlen v hmode hsource pat safety
  have hcode : mode.code.toNat = (record.getD 0 0).toNat := Eq.trans (by cases mode <;> rfl) hmode
  have hsrc : decodeSource (record.getD 10 0) (record.getD 11 0) (record.getD 12 0) (record.getD 13 0) = some source := by
    refine decodeSource_accepted ?_
    cases source <;> exact hsource
  refine (entryWrite_done (t := .group) ht rfl h hlen rfl (asFin_lt h)
    ((congrArg decodeGroup (eq_map_getD hlen)).trans (decodeGroup_accepted hcode hsrc))).trans ?_
  rw [storeGroup_eq]
  refine congrArg (fun f => Host.Outcome.next (withReply false 0x81 [0] (withGroups (onlyGroup ⟨index.toNat, h⟩ f) s)))
    (funext fun x => ?_)
  exact recordedGroup_pending _ _ _ _ _ rfl

end Sys2Proof.Proofs
end

section
/-! PROOFS. The lamp supply and the deck alarm override: their moves, and what enters and leaves the ignition queue with them (R180,
R181, R184, R185). -/

namespace Sys2Proof.Proofs

open Sys2Proof Sys2Proof.Machine Sys2Proof.Laws

variable {s : State} {bc : Bool}

/-! ## Groups that join the ignition queue (R183) -/

theorem takeWhile_of_all {α : Type} {p : α → Bool} {l : List α} (h : ∀ a ∈ l, p a = true) : l.takeWhile p = l := by
  induction l with
  | nil => rfl
  | cons a l ih => rw [List.takeWhile_cons_of_pos (h a (by simp)), ih fun b hb => h b (by simp [hb])]

theorem insertIgnition_tail {p : GroupNo → Bool} {g : GroupNo} {q : List GroupNo} (h : p g = true → ∀ k ∈ q, p k = true) :
    insertIgnition p g q = q ++ [g] := by
  unfold insertIgnition
  split
  · next hg =>
    have hall := h hg
    have hdrop : q.dropWhile p = [] := List.dropWhile_eq_nil_iff.mpr hall
    rw [takeWhile_of_all hall, hdrop]
  · rfl

/-- A group set WAITING. -/
def waitingGroup (x : Group) : Group := { x with ign := .waiting, stands := false }

/-- The groups of a list set WAITING, and the list behind the ignition queue. -/
def queuedBehind (l : List GroupNo) (s : State) : State :=
  { s with lmc := { s.lmc with
      ignQueue := s.lmc.ignQueue ++ l,
      groups := Vector.ofFn fun g => if g ∈ l then waitingGroup (s.lmc.groups.get g) else s.lmc.groups.get g } }

theorem queueIgnition_tail {g : GroupNo} {s : State} (hg : g ∉ s.lmc.ignQueue)
    (h : (s.lmc.groups.get g).safety = true → ∀ k ∈ s.lmc.ignQueue, (s.lmc.groups.get k).safety = true) :
    queueIgnition g s = queuedBehind [g] s := by
  have hsafe : ∀ k, (groupOf (setGroup g { groupOf s g with ign := .waiting, stands := false } s) k).safety =
      (s.lmc.groups.get k).safety := fun k => by
    rw [groupOf, setGroup_get]
    split
    · next e => rw [e]; rfl
    · rfl
  have hq : insertIgnition (fun k => (groupOf (setGroup g { groupOf s g with ign := .waiting, stands := false } s) k).safety) g
      s.lmc.ignQueue = s.lmc.ignQueue ++ [g] := insertIgnition_tail (by simpa only [hsafe] using h)
  have hl : (queueIgnition g s).lmc = (queuedBehind [g] s).lmc := by
    refine lmc_ext (fun k => ?_) ?_ rfl
    · rw [queueIgnition_get]
      simp only [queuedBehind, get_ofFn, List.mem_singleton, waitingGroup]
      split
      · next e => rw [e]
      · rfl
    · simp only [queueIgnition, queuedBehind, setGroup, List.contains_iff_mem, hg, if_false]
      exact hq
  exact state_ext hl rfl

theorem queueAll_eq : ∀ (l : List GroupNo) (s : State), l.Nodup → (∀ g ∈ l, g ∉ s.lmc.ignQueue) →
    (∀ g ∈ l, (s.lmc.groups.get g).safety = true → ∀ k ∈ s.lmc.ignQueue, (s.lmc.groups.get k).safety = true) →
    l.Pairwise (fun g k => (s.lmc.groups.get k).safety = true → (s.lmc.groups.get g).safety = true) →
    l.foldl (fun s g => queueIgnition g s) s = queuedBehind l s
  | [], s, _, _, _, _ => by
    have hl : (queuedBehind [] s).lmc = s.lmc :=
      lmc_ext (fun k => by simp [queuedBehind]) (List.append_nil _) (by simp only [queuedBehind])
    exact (state_ext hl (by simp only [queuedBehind])).symm
  | g :: l, s, hn, hout, hsafe, hord => by
    rw [List.nodup_cons] at hn
    rw [List.pairwise_cons] at hord
    have hg := queueIgnition_tail (hout g (by simp)) (hsafe g (by simp))
    have hget : ∀ k, ((queuedBehind [g] s).lmc.groups.get k).safety = (s.lmc.groups.get k).safety := fun k => by
      simp only [queuedBehind, get_ofFn, waitingGroup]
      split <;> rfl
    have hq : (queuedBehind [g] s).lmc.ignQueue = s.lmc.ignQueue ++ [g] := rfl
    rw [List.foldl_cons, hg, queueAll_eq l _ hn.2]
    · have hl : (queuedBehind l (queuedBehind [g] s)).lmc = (queuedBehind (g :: l) s).lmc := by
        refine lmc_ext (fun k => ?_) ?_ (by simp only [queuedBehind])
        · simp only [queuedBehind, get_ofFn, List.mem_cons]
          by_cases hkg : k = g
          · subst hkg
            simp [hn.1]
          · simp [hkg]
        · simp only [queuedBehind, List.append_assoc, List.cons_append, List.nil_append]
      exact state_ext hl (by simp only [queuedBehind])
    · intro k hk
      rw [hq, List.mem_append, List.mem_singleton, not_or]
      exact ⟨hout k (by simp [hk]), fun e => hn.1 (e ▸ hk)⟩
    · intro k hk hs j hj
      rw [hget] at hs ⊢
      rw [hq, List.mem_append, List.mem_singleton] at hj
      rcases hj with hj | rfl
      · exact hsafe k (by simp [hk]) hs j hj
      · exact hord.1 k hk hs
    · simpa only [hget] using hord.2

/-- The groups of a test, safety groups first, each kind in group order. -/
def safetyFirst (t : Vector Group 24) (p : GroupNo → Bool) : List GroupNo :=
  allGroups.filter (fun g => p g && (t.get g).safety) ++ allGroups.filter (fun g => p g && !(t.get g).safety)

theorem requestOrder_filter (s : State) (p : GroupNo → Bool) : (requestOrder s).filter p = safetyFirst s.lmc.groups p := by
  rw [requestOrder, List.filter_append, List.filter_filter, List.filter_filter]
  rfl

theorem safetyFirst_mem (t : Vector Group 24) (p : GroupNo → Bool) (g : GroupNo) : g ∈ safetyFirst t p ↔ p g = true := by
  simp only [safetyFirst, List.mem_append, List.mem_filter, mem_allGroups, true_and, Bool.and_eq_true, Bool.not_eq_true']
  cases (t.get g).safety <;> simp

theorem safetyFirst_order (t : Vector Group 24) (p : GroupNo → Bool) : (safetyFirst t p).Pairwise fun g k =>
    (t.get k).safety = true → (t.get g).safety = true := by
  refine List.pairwise_append.mpr ⟨?_, ?_, fun g hg k hk hs => ?_⟩
  · refine List.pairwise_of_forall_mem_list fun g hg k _ _ => ?_
    simp only [List.mem_filter, Bool.and_eq_true] at hg
    exact hg.2.2
  · refine List.pairwise_of_forall_mem_list fun g _ k hk hs => ?_
    simp only [List.mem_filter, Bool.and_eq_true, Bool.not_eq_true'] at hk
    rw [hk.2.2] at hs
    cases hs
  · simp only [List.mem_filter, Bool.and_eq_true, Bool.not_eq_true'] at hk
    rw [hk.2.2] at hs
    cases hs

/-- Into an empty queue the groups of a test join in their order. -/
theorem queueLit_eq {p : Group → Bool} {s : State} (hq : s.lmc.ignQueue = []) : queueLit p s =
    queuedBehind (safetyFirst s.lmc.groups fun g => (s.lmc.groups.get g).running && decide (0 < (s.lmc.groups.get g).level) &&
      p (s.lmc.groups.get g)) s := by
  have hl : queueLit p s = ((requestOrder s).filter fun g => (s.lmc.groups.get g).running &&
      decide (0 < (s.lmc.groups.get g).level) && p (s.lmc.groups.get g)).foldl (fun s g => queueIgnition g s) s := rfl
  rw [hl, queueAll_eq _ s ((requestOrder_nodup s).filter _) (by simp [hq]) (by simp [hq]), requestOrder_filter]
  rw [requestOrder_filter]
  exact safetyFirst_order s.lmc.groups _

theorem queuedBehind_safetyFirst (p : GroupNo → Bool) (s : State) : queuedBehind (safetyFirst s.lmc.groups p) s =
    { s with lmc := { s.lmc with
        ignQueue := s.lmc.ignQueue ++ safetyFirst s.lmc.groups p,
        groups := Vector.ofFn fun g => if p g then waitingGroup (s.lmc.groups.get g) else s.lmc.groups.get g } } := by
  simp only [queuedBehind, safetyFirst_mem]

end Sys2Proof.Proofs
end

section
/-! PROOFS. SUPPLY, the supply's own moves, and the override by its sources (R180, R181, R184, R185). -/

namespace Sys2Proof.Proofs

open Sys2Proof Sys2Proof.Machine Sys2Proof.Laws

variable {s : State} {bc : Bool}

/-! ## Notices and LMC apart -/

theorem pushNotice_withLmc (n : Notice) (l : Lmc) (s : State) :
    pushNotice n { s with lmc := l } = { pushNotice n s with lmc := l } := by
  unfold pushNotice
  dsimp only
  split <;> rfl

theorem queuedBehind_pushNotice (l : List GroupNo) (n : Notice) (s : State) :
    queuedBehind l (pushNotice n s) = pushNotice n (queuedBehind l s) := by
  simp only [queuedBehind, pushNotice_withLmc, pushNotice_lmc]

/-! ## The supply (R180, R181) -/

theorem exec_action_answer {c : Instr} {f : State → State × Answer} {t : State} {p : List Byte} (ht : takes bc s)
    (hc : ownerOfCommand c = some (bc, replyAction, f)) (hf : f s = (t, .reply p)) :
    exec c s = .next (withReply bc 0x83 p t) := by
  rw [exec_request hc]
  exact request_takes ht hf

theorem exec_running {c : Instr} {e : EndEvent} (h : eventOfCommand c = some e) (hr : s.power.running = true) :
    exec c s = .next (takeEvent e s) := by
  rw [exec_event h, whenRunning_running hr]

theorem supplyAnswer_eq {t : State} {x : Supply} (h : t.lmc.supply = x) : supplyAnswer t = (t, .reply [0, x.code]) := by
  rw [supplyAnswer, h]
  rfl

theorem rampUp_supply (s : State) : (rampUp s).lmc.supply = .ramp := moveSupply_supply _ _

theorem leaveSupply_supply (x : Supply) (s : State) : (leaveSupply x s).lmc.supply = x := moveSupply_supply _ _

theorem leaveSupply_override (x : Supply) (s : State) : (leaveSupply x s).lmc.override = s.lmc.override := by
  rw [leaveSupply, moveSupply_override]
  split
  · simp only [darkenAll]
  · rfl

/-- Entry to READY with no group waiting and the override CLEAR: the groups that show light wait for it. -/
theorem enterReady_clear (ho : s.lmc.override = .clear) (hq : s.lmc.ignQueue = []) :
    enterReady s = moveSupply .ready { s with lmc := { s.lmc with
      ignQueue := (List.finRange 24).filter (fun g => (s.lmc.groups.get g).running && decide (0 < (s.lmc.groups.get g).level) &&
          (s.lmc.groups.get g).safety) ++
        (List.finRange 24).filter (fun g => (s.lmc.groups.get g).running && decide (0 < (s.lmc.groups.get g).level) &&
          !(s.lmc.groups.get g).safety),
      groups := Vector.ofFn fun g =>
        if (s.lmc.groups.get g).running && decide (0 < (s.lmc.groups.get g).level) then
          { s.lmc.groups.get g with ign := .waiting, stands := false } else s.lmc.groups.get g } } := by
  have hq' : (moveSupply .ready s).lmc.ignQueue = [] := by rw [moveSupply, pushNotice_lmc]; exact hq
  have ho' : (moveSupply .ready s).lmc.override = .clear := (moveSupply_override _ s).trans ho
  have hg : (moveSupply .ready s).lmc.groups = s.lmc.groups := by rw [moveSupply, pushNotice_lmc]
  unfold enterReady
  dsimp only
  rw [if_pos ho', queueLit_eq hq', hg, moveSupply, queuedBehind_pushNotice]
  simp only [Bool.and_true]
  exact congrArg (pushNotice (.supplyState .ready)) ((queuedBehind_safetyFirst _ _).trans (by rw [hq]; rfl))

/-- Settles O44: the supply's moves, each by the two records of the statement. -/
theorem supplyActs : Obligations.SupplyActs := by
  unfold Obligations.SupplyActs
  intro waits darkened shown moved
  refine ⟨fun bc s ht => ?_, fun s hr => ⟨fun hs hc ho hq => ?_, fun hs hc ho => ?_, fun hs hc => ?_, fun hs => ?_, fun h => ?_,
    fun h => ?_, fun h => ?_⟩⟩
  · intro ramped left
    have hleft : (if s.lmc.supply = .off then s else leaveSupply .off s) = left := rfl
    have hoverride : left.lmc.override = s.lmc.override := by
      rw [← hleft]
      split
      · rfl
      · exact leaveSupply_override _ s
    have hoff : left.lmc.supply = .off := by
      rw [← hleft]
      split
      · next hs => exact hs
      · exact leaveSupply_supply _ s
    refine ⟨fun hs => ?_, fun hs => ?_, fun ho => ?_, fun ho => ?_⟩
    · refine exec_action_answer ht rfl ?_
      have hop : supplyOnOp s = ramped s := if_pos hs
      rw [supplyOnAction, hop]
      exact supplyAnswer_eq (rampUp_supply s)
    · have hcode : s.lmc.supply.code = match s.lmc.supply with | .off => 0 | .ramp => 1 | .ready => 2 | .fault => (3 : Byte) := by
        cases s.lmc.supply <;> rfl
      refine exec_action_answer ht rfl ?_
      rw [supplyOnAction, supplyOnOp, if_neg hs]
      exact (supplyAnswer_eq rfl).trans (congrArg (fun c => (s, Answer.reply [0, c])) hcode)
    · have hop : supplyOffOp s = left := by
        unfold supplyOffOp
        rw [hleft]
        exact if_pos (hoverride.trans ho)
      refine exec_action_answer ht rfl ?_
      rw [supplyOffAction, hop]
      exact supplyAnswer_eq hoff
    · have hop : supplyOffOp s = ramped left := by
        unfold supplyOffOp
        rw [hleft]
        exact if_neg fun h => ho (hoverride.symm.trans h)
      refine exec_action_answer ht rfl ?_
      rw [supplyOffAction, hop]
      exact supplyAnswer_eq (rampUp_supply left)
  · rw [exec_running rfl hr]
    exact congrArg Host.Outcome.next ((if_pos ⟨hs, hc⟩).trans (enterReady_clear ho hq))
  · rw [exec_running rfl hr]
    refine congrArg Host.Outcome.next ((if_pos ⟨hs, hc⟩).trans ?_)
    have ho' : (moveSupply .ready s).lmc.override ≠ .clear := fun h => ho ((moveSupply_override _ s).symm.trans h)
    unfold enterReady
    dsimp only
    rw [if_neg ho', moveSupply, overrideLevels, pushNotice_lmc, ← pushNotice_withLmc]
    rfl
  · rw [exec_running rfl hr]
    refine congrArg Host.Outcome.next ((if_pos ⟨hs, hc⟩).trans ?_)
    rw [leaveSupply, if_neg (by rw [hs]; exact nofun)]
    rfl
  · rw [exec_running rfl hr]
    refine congrArg Host.Outcome.next ((if_pos hs).trans ?_)
    rw [leaveSupply, if_pos hs]
    rfl
  · rw [exec_running rfl hr]
    exact congrArg Host.Outcome.next (if_neg fun ⟨hs, hc⟩ => h.elim (absurd hs) (absurd hc ∘ Nat.not_le.mpr))
  · rw [exec_running rfl hr]
    exact congrArg Host.Outcome.next (if_neg fun ⟨hs, hc⟩ => h.elim (absurd hs) (absurd hc ∘ Nat.not_le.mpr))
  · rw [exec_running rfl hr]
    exact congrArg Host.Outcome.next (if_neg h)

/-! ## The override (R184, R185) -/

theorem exec_alarmInput (low : Bool) (hr : s.power.running = true) : exec (.deckAlarmInput low) s =
    .next (overrideEvent { s with lmc := { s.lmc with lineSource := low } }) :=
  exec_running (e := .deckAlarmInput low) rfl hr

theorem overrideEvent_clear (ho : s.lmc.override = .clear) :
    overrideEvent s = if sourceAsserted s then overrideStart s else s := by
  rw [overrideEvent, ho]

theorem overrideEvent_active (ho : s.lmc.override = .active) :
    overrideEvent s = if sourceAsserted s then s else setOverride .releasing s := by
  rw [overrideEvent, ho]

theorem overrideEvent_releasing (ho : s.lmc.override = .releasing) :
    overrideEvent s = if sourceAsserted s then setOverride .active s else s := by
  rw [overrideEvent, ho]

theorem lampAlarmStart_eq' (s : State) :
    lampAlarmStart s = withGroups (fun _ x => if x.source = .alarm then afterStart x else x) s := by
  rw [lampAlarmStart_eq]
  simp only [beq_iff_eq]

theorem withGroups_noQueue (f : GroupNo → Group → Group) (hq : s.lmc.ignQueue = []) : withGroups f s =
    { s with lmc := { s.lmc with groups := Vector.ofFn fun g => f g (s.lmc.groups.get g) } } := by
  simp only [withGroups, hq, List.filter_nil]

/-- The safety groups shown at their own level (R185). -/
def safetyGroup (x : Group) : Group :=
  if x.safety then { x with ign := if x.running && decide (0 < x.level) then .lit else .dark } else x

theorem safetyFirst_unsafe {t : Vector Group 24} {p : GroupNo → Bool} (h : ∀ g, p g = true → (t.get g).safety = false) :
    safetyFirst t p = (List.finRange 24).filter p := by
  have hsafe : ∀ g, (p g && (t.get g).safety) = false := fun g => by
    cases hp : p g with
    | false => rfl
    | true => exact h g hp
  have hunsafe : ∀ g, (p g && !(t.get g).safety) = p g := fun g => by
    cases hp : p g with
    | false => rfl
    | true => rw [h g hp]; rfl
  simp only [safetyFirst, hsafe, hunsafe, List.filter_false, List.nil_append]
  rfl

theorem safetyGroup_safety (x : Group) : (safetyGroup x).safety = x.safety := by
  unfold safetyGroup
  split <;> rfl

theorem safetyGroup_running (x : Group) : (safetyGroup x).running = x.running := by
  unfold safetyGroup
  split <;> rfl

theorem safetyGroup_level (x : Group) : (safetyGroup x).level = x.level := by
  unfold safetyGroup
  split <;> rfl

theorem safetyGroup_unsafe {x : Group} (h : x.safety = false) : safetyGroup x = x := by
  rw [safetyGroup, if_neg (by simp [h])]

/-- A group that waits for light again at the override's end. -/
def waitsAgain (x : Group) : Bool := x.running && decide (0 < x.level) && !x.safety

theorem waitsAgain_safetyGroup (x : Group) : waitsAgain (safetyGroup x) = waitsAgain x := by
  rw [waitsAgain, safetyGroup_safety, safetyGroup_running, safetyGroup_level, waitsAgain]

theorem waitsAgain_safety {x : Group} (h : waitsAgain x = true) : x.safety = false := by
  simp only [waitsAgain, Bool.and_eq_true, Bool.not_eq_true'] at h
  exact h.2

/-- The override's end over groups already stopped, none waiting (R184, R185). -/
theorem released_eq (hq : s.lmc.ignQueue = []) :
    queueLit (fun x => !x.safety) (safetyLevels s) = { s with lmc := { s.lmc with
      ignQueue := (List.finRange 24).filter fun g => waitsAgain (s.lmc.groups.get g),
      groups := Vector.ofFn fun g => if waitsAgain (s.lmc.groups.get g) then waitingGroup (s.lmc.groups.get g)
        else safetyGroup (s.lmc.groups.get g) } } := by
  have hget : ∀ g, (safetyLevels s).lmc.groups.get g = safetyGroup (s.lmc.groups.get g) := safetyLevels_get s
  have hq' : (safetyLevels s).lmc.ignQueue = [] := (safetyLevels_frame s).1.trans hq
  have hlit : queueLit (fun x => !x.safety) (safetyLevels s) =
      queuedBehind (safetyFirst (safetyLevels s).lmc.groups fun g => waitsAgain ((safetyLevels s).lmc.groups.get g))
        (safetyLevels s) := queueLit_eq hq'
  have hfirst : safetyFirst (safetyLevels s).lmc.groups (fun g => waitsAgain ((safetyLevels s).lmc.groups.get g)) =
      (List.finRange 24).filter fun g => waitsAgain (s.lmc.groups.get g) := by
    rw [safetyFirst_unsafe fun g hg => waitsAgain_safety hg]
    exact List.filter_congr fun g _ => by rw [hget, waitsAgain_safetyGroup]
  have hl : (queueLit (fun x => !x.safety) (safetyLevels s)).lmc = { s.lmc with
      ignQueue := (List.finRange 24).filter fun g => waitsAgain (s.lmc.groups.get g),
      groups := Vector.ofFn fun g => if waitsAgain (s.lmc.groups.get g) then waitingGroup (s.lmc.groups.get g)
        else safetyGroup (s.lmc.groups.get g) } := by
    rw [hlit, queuedBehind_safetyFirst]
    refine lmc_ext (fun g => ?_) ?_ (by simp only [safetyLevels])
    · simp only [get_ofFn, hget, waitsAgain_safetyGroup]
      split
      · next hw => rw [safetyGroup_unsafe (waitsAgain_safety hw)]
      · rfl
    · dsimp only
      rw [hq', hfirst, List.nil_append]
  refine state_ext hl ?_
  rw [hlit, queuedBehind_safetyFirst]
  simp only [safetyLevels]

theorem settings_kept (x : Settings) : AsqClosed (fun t => t.cth.settings = x) := by
  have rest : RestFree (fun t => t.cth.settings = x) :=
    ⟨fun _ _ h => h, fun _ _ h => h, fun _ _ h => h, fun _ _ h => h, fun _ _ h => h, fun _ _ h => h, fun _ _ h => h,
      fun _ _ h => h, fun _ _ _ h => h⟩
  refine rest.announcements (cacheClosed_of (fun _ _ _ h => h) (fun _ _ h => h) fun _ _ h => h)
    (lampClosed_of fun _ _ _ h => h) fun n s h => ?_
  rcases pushNotice_eq n s with ⟨_, e⟩ | ⟨_, e⟩ <;> rw [e] <;> exact h

theorem requestAlarm_settings (s : State) : (requestAlarm s).cth.settings = s.cth.settings := by
  unfold requestAlarm
  split
  · rfl
  · split
    · rfl
    · exact keep_takeInternal (settings_kept s.cth.settings) _ s rfl

theorem pushNotice_settings (n : Notice) (s : State) : (pushNotice n s).cth.settings = s.cth.settings :=
  (settings_kept s.cth.settings).notice n s rfl

theorem rampUp_kept {r : Nat} (h : s.cth.settings.ramp = r) : rampUp s =
    pushNotice (.supplyState .ramp) { s with lmc := { s.lmc with supply := .ramp, rampCount := 0, rampKept := r } } := by
  subst h
  rfl

/-- The ALARM request and the starts of the ALARM groups, behind the override's notice. -/
def alarmStarted (u : State) : State :=
  withGroups (fun _ x => if x.source = .alarm then afterStart x else x) (requestAlarm (pushNotice (.alarm true) u))

/-- The override's start, over what it shows. -/
theorem overrideStart_eq {u : State} (hu : (if (setOverride .active s).lmc.supply = .ready then
      overrideLevels (setOverride .active s) else setOverride .active s) = u) (hset : u.cth = s.cth) :
    overrideStart s = if (alarmStarted u).lmc.supply = .off then
      pushNotice (.supplyState .ramp) { alarmStarted u with lmc := { (alarmStarted u).lmc with
        supply := .ramp, rampCount := 0, rampKept := s.cth.settings.ramp } }
    else alarmStarted u := by
  have hstart : lampAlarmStart (requestAlarm (pushNotice (.alarm true) u)) = alarmStarted u := lampAlarmStart_eq' _
  have hramp : (alarmStarted u).cth.settings.ramp = s.cth.settings.ramp := by
    rw [alarmStarted, withGroups_cth, requestAlarm_settings, pushNotice_settings, hset]
  have hop : overrideStart s = if (lampAlarmStart (requestAlarm (pushNotice (.alarm true) u))).lmc.supply = .off then
      rampUp (lampAlarmStart (requestAlarm (pushNotice (.alarm true) u)))
      else lampAlarmStart (requestAlarm (pushNotice (.alarm true) u)) := by
    unfold overrideStart
    dsimp only
    rw [hu]
  rw [hop, hstart, rampUp_kept hramp]

/-- The stops of the ALARM groups that follow the override (R174). -/
def alarmStopped (x : Group) : Group := if x.source = .alarm ∧ x.follow = true then afterStop x else x

/-- The override's clearing with no group waiting, as one record behind its notice. -/
theorem overrideClears_eq (ho : s.lmc.override = .releasing) (ha : sourceAsserted s = false) (hcount : 100 ≤ s.lmc.releaseCount)
    (hq : s.lmc.ignQueue = []) : overrideClears s = pushNotice (.alarm false) { s with lmc := { s.lmc with
      override := .clear, releaseCount := 0,
      ignQueue := (List.finRange 24).filter fun g =>
        s.lmc.supply == .ready && waitsAgain (alarmStopped (s.lmc.groups.get g)),
      groups := Vector.ofFn fun g =>
        if s.lmc.supply == .ready && waitsAgain (alarmStopped (s.lmc.groups.get g)) then
          waitingGroup (alarmStopped (s.lmc.groups.get g))
        else if s.lmc.supply = .ready then safetyGroup (alarmStopped (s.lmc.groups.get g))
        else alarmStopped (s.lmc.groups.get g) } } := by
  have hstop : lampAlarmEnd (pushNotice (.alarm false) (setOverride .clear s)) =
      pushNotice (.alarm false) { s with lmc := { s.lmc with
        override := .clear, releaseCount := 0, groups := Vector.ofFn fun g => alarmStopped (s.lmc.groups.get g) } } := by
    have hq' : (pushNotice (.alarm false) (setOverride .clear s)).lmc.ignQueue = [] := by
      rw [pushNotice_lmc]
      exact hq
    rw [lampAlarmEnd_eq, withGroups_noQueue _ hq']
    simp only [pushNotice_withLmc, setOverride, alarmStopped, Bool.and_eq_true, beq_iff_eq]
  unfold overrideClears
  rw [if_pos ⟨ho, ha, hcount⟩, hstop]
  generalize hu : ({ s with lmc := { s.lmc with
    override := .clear, releaseCount := 0, groups := Vector.ofFn fun g => alarmStopped (s.lmc.groups.get g) } } : State) = u
  have hget : ∀ g, u.lmc.groups.get g = alarmStopped (s.lmc.groups.get g) := fun g => by
    rw [← hu]
    exact get_ofFn _ g
  have hsupply : (pushNotice (.alarm false) u).lmc.supply = s.lmc.supply := by
    rw [pushNotice_lmc, ← hu]
  have huq : u.lmc.ignQueue = [] := by
    rw [← hu]
    exact hq
  dsimp only
  rw [hsupply]
  by_cases hs : s.lmc.supply = .ready
  · rw [if_pos hs, released_eq (by rw [pushNotice_lmc]; exact huq), pushNotice_lmc, ← pushNotice_withLmc]
    simp only [hget, hs, beq_self_eq_true, Bool.true_and, if_true]
    rw [← hu]
    simp only [hs]
  · have hb : (s.lmc.supply == .ready) = false := beq_eq_false_iff_ne.mpr hs
    rw [if_neg hs, ← hu]
    simp only [hb, Bool.false_and, Bool.false_eq_true, if_false, hs, List.filter_false, ← hq]

/-- Settles O45: the override by its state and its sources, and the clearing as one record. -/
theorem alarmLineActs : Obligations.AlarmLineActs := by
  unfold Obligations.AlarmLineActs
  refine ⟨fun low s hr => ?_, fun s hr => ⟨fun h => ?_, fun ho hline hflag hcount hq => ?_⟩⟩
  · intro lined asserted moved
    have hsrc : sourceAsserted lined = true ↔ asserted := by
      show (low || s.lmc.flagSource) = true ↔ _
      rw [Bool.or_eq_true]
    have hexec : exec (.deckAlarmInput low) s = .next (overrideEvent lined) := exec_alarmInput low hr
    refine ⟨fun ho ha => ?_, fun ho ha => ?_, fun ho ha => ?_, fun ho ha => ?_, fun ho ha => ?_, fun ho ha => ?_, ?_⟩
    · rw [hexec, overrideEvent_clear (s := lined) ho, if_neg fun h => ha (hsrc.mp h)]
    · rw [hexec, overrideEvent_active (s := lined) ho, if_pos (hsrc.mpr ha)]
    · rw [hexec, overrideEvent_active (s := lined) ho, if_neg fun h => ha (hsrc.mp h)]
      rfl
    · rw [hexec, overrideEvent_releasing (s := lined) ho, if_neg fun h => ha (hsrc.mp h)]
    · rw [hexec, overrideEvent_releasing (s := lined) ho, if_pos (hsrc.mpr ha)]
      rfl
    · intro shown started
      rw [hexec, overrideEvent_clear (s := lined) ho, if_pos (hsrc.mpr ha)]
      have hcth : shown.cth = s.cth := by
        show (if s.lmc.supply = .ready then _ else moved .active : State).cth = s.cth
        split <;> rfl
      exact congrArg Host.Outcome.next (overrideStart_eq (s := lined) (u := shown) rfl hcth)
    · exact exec_alarmInput s.lmc.lineSource hr
  · rw [exec_running (c := .overrideClear) (e := .overrideClear) rfl hr]
    refine congrArg Host.Outcome.next (if_neg ?_)
    rintro ⟨ho, ha, hcount⟩
    simp only [sourceAsserted, Bool.or_eq_false_iff] at ha
    rcases h with h | h | h | h
    · exact h ho
    · exact Bool.noConfusion (h.symm.trans ha.1)
    · exact Bool.noConfusion (h.symm.trans ha.2)
    · exact absurd hcount (Nat.not_le.mpr h)
  · intro stopped again
    have ha : sourceAsserted s = false := by rw [sourceAsserted, hline, hflag]; rfl
    rw [exec_running (c := .overrideClear) (e := .overrideClear) rfl hr]
    refine congrArg Host.Outcome.next ((overrideClears_eq ho ha hcount hq).trans ?_)
    have hstopped : ∀ g, stopped g = alarmStopped (s.lmc.groups.get g) := fun g => rfl
    have hagain : ∀ g, again g = (s.lmc.supply == .ready && waitsAgain (alarmStopped (s.lmc.groups.get g))) := fun g => by
      simp only [again, hstopped, waitsAgain, Bool.and_assoc]
    have hshown : ∀ g, (if s.lmc.supply = .ready ∧ (stopped g).safety = true then
          { stopped g with ign := if (stopped g).running && decide (0 < (stopped g).level) then .lit else .dark }
        else stopped g) = if s.lmc.supply = .ready then safetyGroup (alarmStopped (s.lmc.groups.get g))
        else alarmStopped (s.lmc.groups.get g) := fun g => by
      rw [hstopped]
      by_cases hs : s.lmc.supply = .ready
      · simp only [hs, true_and, if_true, safetyGroup]
      · simp only [hs, false_and, if_false]
    have hfun : again = fun g => s.lmc.supply == .ready && waitsAgain (alarmStopped (s.lmc.groups.get g)) := funext hagain
    simp only [hshown, hfun]
    rfl

end Sys2Proof.Proofs
end

section
/-! PROOFS. A slot command: what it is by the receiver, the order of its events, and what its own events leave. -/

namespace Sys2Proof.Proofs

open Sys2Proof Sys2Proof.Machine Sys2Proof.Laws

variable {P : State → Prop} {c : Instr} {ws : TrunkWords} {frame : Option (Vector Word16 21)} {order : List SlotEvent} {s : State}

/-! ## The slot that a command ends -/

/-- TIF's record after the slot of a period in which the receiver finds the frame, or none (R7, R8). -/
def slotTif (frame : Option (Vector Word16 21)) (t : Tif) : Tif :=
  match frame with
  | some f => validTif f t
  | none => invalidTif t

/-- What such a slot hands CTH (R14). -/
def slotControl (frame : Option (Vector Word16 21)) (t : Tif) : ControlEvent :=
  match frame with
  | some f => if (validTif f t).trunk = .locked then .slot (slotWords (f.get 18) (f.get 19)) else .nothing
  | none => if t.trunk = .locked then .discard else .nothing

/-- A slot in which the receiver finds the frame, or none. -/
def slotWith (frame : Option (Vector Word16 21)) (order : List SlotEvent) (s : State) : State :=
  endPeriod (slotTif frame s.tif) (turnOffered s.tif (slotTif frame s.tif)) (slotControl frame s.tif) order s

/-- A slot command is a slot of the frame that the receiver finds, its words carried on. -/
theorem exec_slot (hr : s.power.running = true) (h : slotHas c ws frame order s) :
    exec c s = .next (forward ws none (slotWith frame order s)) := by
  obtain ⟨hc, hfound⟩ := h
  have hends : ∀ short, slotEnds ws short order s = forward ws none (slotWith frame order s) := by
    intro short
    unfold slotEnds
    rcases hfound with ⟨hrec, hf⟩ | ⟨hrec, hf, hnone⟩
    · simp only [hrec, hf]
      cases frame <;> rfl
    · subst hnone
      simp only [hrec, hf]
      rfl
  rcases hc with ⟨lead, g, trail, short, rfl, rfl⟩ | rfl
  · exact (whenRunning_running hr).trans (congrArg _ (hends short))
  · exact (whenRunning_running hr).trans (congrArg _ (hends []))

/-! ## The order of a slot's events -/

/-- An event joins an order, one of the slot's own that is there already is passed over. -/
def joinOrder (acc : List SlotEvent) (e : SlotEvent) : List SlotEvent :=
  if e.own && acc.contains e then acc else acc ++ [e]

theorem fullOrder_eq (order : List SlotEvent) : fullOrder order = (order ++ allEvents).foldl joinOrder [] := rfl

theorem joinOrder_new {acc : List SlotEvent} {e : SlotEvent} (h : e.own = true → e ∉ acc) : joinOrder acc e = acc ++ [e] := by
  refine if_neg ?_
  simpa using h

theorem joinOrder_there {acc : List SlotEvent} {e : SlotEvent} (hown : e.own = true) (h : e ∈ acc) : joinOrder acc e = acc :=
  if_pos (by simpa [hown] using h)

theorem mem_joinOrder {acc : List SlotEvent} {e x : SlotEvent} (h : x ∈ joinOrder acc e) : x ∈ acc ∨ x = e := by
  unfold joinOrder at h
  split at h
  · exact .inl h
  · simpa using h

theorem mem_order_of_full {e : SlotEvent} (h : e ∈ fullOrder order) : e ∈ order ++ allEvents := by
  have hsteps : ∀ (l acc : List SlotEvent), e ∈ l.foldl joinOrder acc → e ∈ acc ∨ e ∈ l := by
    intro l
    induction l with
    | nil => exact fun _ h => .inl h
    | cons x l ih =>
      intro acc h
      rcases ih _ h with h | h
      · exact (mem_joinOrder h).imp_right fun hx => by simp [hx]
      · exact .inr (List.mem_cons_of_mem _ h)
  exact (hsteps _ _ h).resolve_left (by simp)

theorem fullOrder_own (ho : ownEvents order) (x : EndEvent) : SlotEvent.also x ∉ fullOrder order := fun h =>
  (List.mem_append.mp (mem_order_of_full h)).elim (ho x) (by simp [allEvents])

/-- No event of the slot's own is twice in the order. -/
theorem fullOrder_nodup (order : List SlotEvent) : ((fullOrder order).filter SlotEvent.own).Nodup := by
  have hsteps : ∀ (l acc : List SlotEvent), (acc.filter SlotEvent.own).Nodup → ((l.foldl joinOrder acc).filter SlotEvent.own).Nodup := by
    intro l
    induction l with
    | nil => exact fun _ h => h
    | cons x l ih =>
      intro acc h
      refine ih _ ?_
      by_cases hown : x.own = true
      · by_cases hmem : x ∈ acc
        · exact (joinOrder_there hown hmem).symm ▸ h
        · rw [joinOrder_new fun _ => hmem, List.filter_append, List.filter_singleton, hown]
          exact List.nodup_append.mpr ⟨h, by simp, fun a ha b hb hab => hmem (by simp_all)⟩
      · rw [joinOrder_new fun hc => absurd hc hown, List.filter_append, List.filter_singleton]
        simpa [hown] using h
  exact hsteps _ _ (by simp)

theorem foldl_joinOrder_new (l acc : List SlotEvent) (h : ((acc ++ l).filter SlotEvent.own).Nodup) :
    l.foldl joinOrder acc = acc ++ l := by
  induction l generalizing acc with
  | nil => simp
  | cons x l ih =>
    have hx : x.own = true → x ∉ acc := fun hown hmem => by
      rw [List.filter_append, List.nodup_append] at h
      exact h.2.2 x (by simp [hmem, hown]) x (by simp [hown]) rfl
    rw [List.foldl_cons, joinOrder_new hx, ih _ (by simpa using h), List.append_assoc, List.singleton_append]

theorem foldl_joinOrder_own (l acc : List SlotEvent) (hown : ∀ e ∈ l, e.own = true) (h : l.Nodup) :
    l.foldl joinOrder acc = acc ++ l.filter fun e => !acc.contains e := by
  induction l generalizing acc with
  | nil => simp
  | cons x l ih =>
    obtain ⟨hxl, hl⟩ := List.nodup_cons.mp h
    have hlown : ∀ e ∈ l, e.own = true := fun e he => hown e (List.mem_cons_of_mem _ he)
    rw [List.foldl_cons]
    by_cases hmem : x ∈ acc
    · rw [joinOrder_there (hown x List.mem_cons_self) hmem, ih _ hlown hl]
      simp [hmem]
    · have hrest : (l.filter fun e => !(acc ++ [x]).contains e) = l.filter fun e => !acc.contains e :=
        List.filter_congr fun e he => by
          have : e ≠ x := fun hc => hxl (hc ▸ he)
          simp [this]
      rw [joinOrder_new fun _ => hmem, ih _ hlown hl, hrest]
      simp [hmem]

/-- An order that names none of the slot's own events twice is taken as it is, then the own events that it leaves out. -/
theorem fullOrder_append (h : (order.filter SlotEvent.own).Nodup) :
    fullOrder order = order ++ allEvents.filter fun e => !order.contains e := by
  rw [fullOrder_eq, List.foldl_append, foldl_joinOrder_new order [] h, List.nil_append]
  exact foldl_joinOrder_own _ _ (by decide) (by decide)

/-! ## What the slot's own events leave -/

theorem tif_deck {Q : Tif → Prop} : DeckSide fun s => Q s.tif where
  cth := fun _ _ h => h
  asq := fun _ _ h => h
  vpl := fun _ _ h => h
  ccc := fun _ _ h => h
  cmp := fun _ _ h => h
  lmc := fun _ _ h => h
  dev := fun _ _ h => h
  row := fun _ _ _ h => h
  duck := fun _ _ h => h

/-- What looks at the ports' slot frames and samples alone is kept by every block but the slots themselves. -/
theorem ports_deck {Q : List Word16 → Vector Sample 4 → Prop} : DeckSide fun s => Q s.out.returnFrame s.out.channels where
  cth := fun _ _ h => h
  asq := fun _ _ h => h
  vpl := fun _ _ h => h
  ccc := fun _ _ h => h
  cmp := fun _ _ h => h
  lmc := fun _ _ h => h
  dev := fun _ _ h => h
  row := fun _ _ _ h => h
  duck := fun _ _ h => h

/-- The poll of the next box and the box whose reply is awaited, with the seats' paths of the period. -/
theorem polls_deck {Q : BoxNo → Option BoxNo → Vector SeatPaths 64 → Prop} :
    DeckSide fun s => Q s.scc.poll s.scc.awaited s.hmx.formed where
  cth := fun _ _ h => h
  asq := fun _ _ h => h
  vpl := fun _ _ h => h
  ccc := fun _ _ h => h
  cmp := fun _ _ h => h
  lmc := fun _ _ h => h
  dev := fun _ _ h => h
  row := fun _ _ _ h => h
  duck := fun _ _ h => h

theorem tif_own {Q : Tif → Prop} : OwnEventClosed fun s => Q s.tif :=
  tif_deck.own (zouOps_of fun _ _ h => h) (seatOps_of (fun _ _ h => h) (fun _ _ h => h)).toSeatRequests
    (routeLeaves_of (fun _ _ h => h) tif_deck.cthOps.notice).ops (routeLeaves_of (fun _ _ h => h) tif_deck.cthOps.notice).steps

theorem ports_ops {Q : List Word16 → Vector Sample 4 → Prop} : OpsClosed fun s => Q s.out.returnFrame s.out.channels :=
  ports_deck.ops (zouOps_of fun _ _ h => h) (seatOps_of (fun _ _ h => h) (fun _ _ h => h))
    (routeLeaves_of (fun _ _ h => h) ports_deck.cthOps.notice).ops (fun _ _ h => h) (fun _ _ h => h)

theorem polls_seats {Q : BoxNo → Option BoxNo → Vector SeatPaths 64 → Prop} :
    SeatRequests fun s => Q s.scc.poll s.scc.awaited s.hmx.formed where
  latch := fun _ _ h => h
  unlatch := fun _ h => h
  stopMark := fun _ _ h => h
  seat := fun ps s h => by
    unfold seatOp
    split <;> exact h
  store := fun _ _ _ _ _ h => h
  language := fun _ _ _ h => h
  curve := fun _ _ h => h

theorem polls_own {Q : BoxNo → Option BoxNo → Vector SeatPaths 64 → Prop} :
    OwnEventClosed fun s => Q s.scc.poll s.scc.awaited s.hmx.formed :=
  polls_deck.own (zouOps_of fun _ _ h => h) polls_seats (routeLeaves_of (fun _ _ h => h) polls_deck.cthOps.notice).ops
    (routeLeaves_of (fun _ _ h => h) polls_deck.cthOps.notice).steps

/-- The clip memory's bytes, and what it gave for reads that nothing constrains. -/
theorem bytes_rest {Q : Memory → Nat → Prop} : RestFree fun s => Q s.dev.bytes s.dev.draws :=
  ⟨fun _ _ h => h, fun _ _ h => h, fun _ _ h => h, fun _ _ h => h, fun _ _ h => h, fun _ _ h => h, fun _ _ h => h,
    fun _ _ h => h, fun _ _ _ h => h⟩

theorem bytes_cache {Q : Memory → Nat → Prop} : CacheClosed fun s => Q s.dev.bytes s.dev.draws where
  request := fun _ _ _ s h => by
    unfold request
    split
    · exact h
    · split <;> exact h
  touch := fun k s h => by
    unfold touch
    split <;> exact h
  ceaseWait := fun _ _ h => h
  arbiter := fun s h => by
    obtain ⟨_, hbytes, hdraws⟩ := arbiter_frame s
    rwa [hbytes, hdraws]

theorem bytes_cth {Q : Memory → Nat → Prop} : CthOps fun s => Q s.dev.bytes s.dev.draws := cthOps_of fun _ _ h => h

theorem bytes_lamps {Q : Memory → Nat → Prop} : LampFree fun s => Q s.dev.bytes s.dev.draws :=
  bytes_rest.lamps bytes_cache (fun _ _ _ h => h) bytes_cth.notice

/-- No own event of a slot changes what the clip memory holds. -/
theorem bytes_own {Q : Memory → Nat → Prop} : OwnEventClosed fun s => Q s.dev.bytes s.dev.draws := by
  have hown : OwnClosed fun s => Q s.dev.bytes s.dev.draws := bytes_rest.own bytes_cache bytes_lamps.ops
    (cacheRequests_of (fun _ _ h => h) (fun _ _ h => h) bytes_cache.arbiter) bytes_cth
  exact { toOwnClosed := hown, toRouteSteps := bytes_rest.steps bytes_cth
          answered := answered_of hown (bytes_rest.steps bytes_cth) fun _ _ h => h }

/-- TIF's record with RCE's fields of another shown (R106). -/
def routed (new t : Tif) : Tif := { t with drive := withRouteFields t.drive new.drive }

/-- The state from which the events of a period's end go on. -/
def periodStart (new : Tif) (offered : Bool) (s : State) : State :=
  let played := playVoices (sendReturn new.counter offered s)
  { played.1 with
    tif := countStart { new with downstream := none, drive := withRouteFields new.drive s.tif.drive },
    scc := { played.1.scc with poll := s.scc.poll + 1, awaited := some s.scc.poll },
    hmx := { played.1.hmx with formed := Vector.ofFn (seatPaths s new.live new.delivered played.2) },
    out := { played.1.out with channels := channelSamples s new.live new.delivered played.2 } }

theorem slotWith_eq (frame : Option (Vector Word16 21)) (order : List SlotEvent) (s : State) : slotWith frame order s =
    takeEvents s.tif (slotTif frame s.tif) (slotControl frame s.tif) order
      (periodStart (slotTif frame s.tif) (turnOffered s.tif (slotTif frame s.tif)) s) := rfl

/-- The own events of a slot keep what they keep one by one. -/
theorem own_takeEvents (c : OwnEventClosed P) {old new : Tif} (ce : ControlEvent) (ho : ownEvents order)
    (hroute : ∀ s, P s → P { s with tif := routed new s.tif }) (halarm : ∀ b s, P s → P (alarmFlag b s)) (h : P s) :
    P (takeEvents old new ce order s) :=
  c.settle _ (keep_foldl_mem _ (fun e he t ht =>
    c.slotEvent ce _ e (fun x hx => fullOrder_own ho x (hx ▸ he)) (fun _ => hroute) (fun _ => halarm _) t ht) s h)

theorem route_mem (order : List SlotEvent) : SlotEvent.route ∈ fullOrder order := mem_fullOrder (by simp [allEvents])

theorem tif_alarmFlag (b : Bool) (s : State) : (alarmFlag b s).tif = s.tif :=
  (tif_deck (Q := (· = s.tif))).alarmFlag b s rfl

/-- Of the slot's own events only the route's changes TIF's record. -/
theorem tif_slotEvent {old new : Tif} (ce : ControlEvent) (waits : CueOwner → Bool) {e : SlotEvent} (halso : ∀ x, e ≠ .also x)
    (s : State) : (slotEvent old new ce waits s e).tif = if e = .route then routed new s.tif else s.tif := by
  split
  · next he =>
    subst he
    have hy : ({ s with tif := routed new s.tif } : State).tif = routed new s.tif := rfl
    exact (tif_own (Q := (· = routed new s.tif))).takeDue _ _
      (keep_ite (P := fun t => t.tif = routed new s.tif) hy ((tif_own (Q := (· = routed new s.tif))).change _ hy))
  · next he =>
    exact (tif_own (Q := (· = s.tif))).slotEvent ce waits e halso (fun h => absurd h he)
      (fun _ u hu => (tif_alarmFlag _ u).trans hu) s rfl

theorem tif_foldl {old new : Tif} (ce : ControlEvent) (waits : CueOwner → Bool) (l : List SlotEvent)
    (halso : ∀ x, SlotEvent.also x ∉ l) (s : State) :
    (l.foldl (slotEvent old new ce waits) s).tif = if .route ∈ l then routed new s.tif else s.tif := by
  induction l generalizing s with
  | nil => rfl
  | cons e l ih =>
    rw [List.foldl_cons, ih (fun x hx => halso x (List.mem_cons_of_mem _ hx)),
      tif_slotEvent ce waits fun x hx => halso x (hx ▸ List.mem_cons_self)]
    by_cases he : e = .route
    · subst he
      simp only [List.mem_cons, true_or, if_true]
      split <;> rfl
    · simp [he, Ne.symm he]

theorem takeEvents_tif {old new : Tif} (ce : ControlEvent) (ho : ownEvents order) (s : State) :
    (takeEvents old new ce order s).tif = routed new s.tif := by
  have hfold := tif_foldl (old := old) (new := new) ce (fun b => order.contains (.delivery b)) (fullOrder order)
    (fullOrder_own ho) s
  rw [if_pos (route_mem order)] at hfold
  exact (tif_own (Q := (· = routed new s.tif))).settle _ hfold

theorem periodStart_tif (new : Tif) (offered : Bool) (s : State) : (periodStart new offered s).tif =
    countStart { new with downstream := none, drive := withRouteFields new.drive s.tif.drive } := rfl

/-- TIF's record after a slot whose order holds the slot's own events alone. -/
theorem slotWith_tif (ho : ownEvents order) (frame : Option (Vector Word16 21)) (s : State) :
    (slotWith frame order s).tif = countStart { slotTif frame s.tif with downstream := none } := by
  rw [slotWith_eq, takeEvents_tif _ ho, periodStart_tif]
  rfl

theorem sendReturn_dev (n : Byte) (b : Bool) (s : State) : (sendReturn n b s).dev = s.dev := by
  unfold sendReturn
  dsimp only
  split
  · split
    · rw [returnTurn_frame s]
    · rfl
  · rfl

theorem periodStart_polls (new : Tif) (offered : Bool) (s : State) : (periodStart new offered s).scc.poll = s.scc.poll + 1 ∧
    (periodStart new offered s).scc.awaited = some s.scc.poll := ⟨rfl, rfl⟩

theorem slotWith_polls (ho : ownEvents order) (frame : Option (Vector Word16 21)) (s : State) :
    (slotWith frame order s).scc.poll = s.scc.poll + 1 ∧ (slotWith frame order s).scc.awaited = some s.scc.poll := by
  rw [slotWith_eq]
  exact own_takeEvents (polls_own (Q := fun p a _ => p = s.scc.poll + 1 ∧ a = some s.scc.poll)) _ ho (fun _ h => h)
    (polls_deck (Q := fun p a _ => p = s.scc.poll + 1 ∧ a = some s.scc.poll)).alarmFlag (periodStart_polls _ _ s)

theorem periodStart_dev (new : Tif) (offered : Bool) (s : State) :
    (periodStart new offered s).dev = (playVoices (sendReturn new.counter offered s)).1.dev := by
  simp only [periodStart]

theorem slotWith_bytes (ho : ownEvents order) (frame : Option (Vector Word16 21)) (s : State) :
    (slotWith frame order s).dev.bytes = s.dev.bytes ∧ (slotWith frame order s).dev.draws = s.dev.draws := by
  rw [slotWith_eq]
  refine own_takeEvents (bytes_own (Q := fun b d => b = s.dev.bytes ∧ d = s.dev.draws)) _ ho (fun _ h => h)
    (fun b u hu => (bytes_lamps (Q := fun b d => b = s.dev.bytes ∧ d = s.dev.draws)).alarmFlag b u hu) ?_
  rw [periodStart_dev]
  have hsent := sendReturn_dev (slotTif frame s.tif).counter (turnOffered s.tif (slotTif frame s.tif)) s
  exact keep_playVoices (bytes_own (Q := fun b d => b = s.dev.bytes ∧ d = s.dev.draws)).toVoiceClosed _
    ⟨congrArg Device.bytes hsent, congrArg Device.draws hsent⟩

theorem slotWith_outer (frame : Option (Vector Word16 21)) (order : List SlotEvent) (s : State) :
    Outer s (slotWith frame order s) := (outer_closed s).endPeriod _ _ _ _ s (Outer.refl s)

/-! ## A VALID slot in LOCKED -/

theorem frameSamples_eq (f : Vector Word16 21) : frameSamples f =
    { lang := #v[f.get 5, f.get 6, f.get 7, f.get 8, f.get 9, f.get 10, f.get 11, f.get 12, f.get 13, f.get 14,
        f.get 15, f.get 16], talk := f.get 17 } := by
  refine congrArg (Samples.mk · _) (Vector.ext fun i hi => ?_)
  rw [Vector.getElem_ofFn]
  interval_cases i <;> rfl

theorem validTif_locked (f : Vector Word16 21) {t : Tif} (h : t.trunk = .locked) :
    validTif f t = takeFrame f { t with counter := (f.get 1).extractLsb' 0 8, receiver := .expecting } := by
  simp only [validTif, h]
  rfl

theorem validTif_counting (f : Vector Word16 21) {t : Tif} (h : t.trunk ≠ .locked) (hrun : t.validRun + 1 < 16) :
    validTif f t = { t with counter := (f.get 1).extractLsb' 0 8, receiver := .expecting, validRun := t.validRun + 1,
                            delivered := Reset.samples } := by
  unfold validTif
  split
  · next hl => exact absurd hl h
  · exact if_neg (Nat.not_le.mpr hrun)

theorem validTif_locks (f : Vector Word16 21) {t : Tif} (h : t.trunk ≠ .locked) (hrun : 16 ≤ t.validRun + 1) :
    validTif f t = takeFrame f { t with counter := (f.get 1).extractLsb' 0 8, receiver := .expecting, trunk := .locked,
                                        validRun := 0 } := by
  unfold validTif
  split
  · next hl => exact absurd hl h
  · exact if_pos hrun

theorem frameDrive_eq (d : Drive) (f : Vector Word16 21) : frameDrive d f = {
    odometer := if (f.get 1).getLsbD 8 then (f.get 2).toNat else d.odometer,
    odoValid := (f.get 1).getLsbD 8, speed := ((f.get 3).extractLsb' 0 8).toNat,
    tag := ((f.get 3).extractLsb' 8 8).toNat, alarm := (f.get 1).getLsbD 9, talk := (f.get 1).getLsbD 10 } := rfl

/-- Settles O7: the slot's own events change of TIF's record the route fields alone, and end at the frame's. -/
theorem lockedValidSlot : Obligations.LockedValidSlot := by
  unfold Obligations.LockedValidSlot
  intro c ws f order s hr hl hslot ho starts due
  obtain ⟨hpoll, hawaited⟩ := slotWith_polls ho (some f) s
  obtain ⟨hbytes, hdraws⟩ := slotWith_bytes ho (some f) s
  obtain ⟨hpending, hpower⟩ := slotWith_outer (some f) order s
  refine ⟨_, exec_slot hr hslot, ?_, rfl, rfl, hpoll, hawaited, hbytes, hdraws, hpower, hpending⟩
  refine (slotWith_tif ho (some f) s).trans ?_
  rw [slotTif, validTif_locked f hl, takeFrame, frameSamples_eq]
  rfl

end Sys2Proof.Proofs
end

section
/-! PROOFS. Slots in which no request arrives: what their own events bring the blocks, and the change to LOCKED. -/

namespace Sys2Proof.Proofs

open Sys2Proof Sys2Proof.Machine Sys2Proof.Laws

variable {P : State → Prop} {c : Instr} {ws : TrunkWords} {order : List SlotEvent} {s : State} {old new : Tif} {ce : ControlEvent}
  {waits : CueOwner → Bool}

/-- What looks at none of the records that the seats, the zones, the route, the announcements, the voices and the lamps
keep is kept by all they do, where the cache's part and a notice keep it. -/
theorem RestFree.deck (r : RestFree P) (c : CacheClosed P) (l : LampFree P) : DeckClosed P where
  toAsqClosed := r.announcements c l.lamps l.notice
  rce := r.rce
  scc := r.scc
  hmx := r.hmx

/-- An event of a slot that is neither the control slot's nor of the chip beside the slot. -/
theorem keep_quietEvent (c : DeckClosed P) (hroute : ∀ s, P s → P { s with tif := routed new s.tif })
    (halarm : ∀ b s, P s → P (alarmFlag b s)) {e : SlotEvent} (halso : ∀ x, e ≠ .also x) (hcontrol : e ≠ .control) (s : State)
    (h : P s) : P (slotEvent old new ce waits s e) := by
  cases e
  case trunkNotice => exact keep_ite (c.notice _ s h) (keep_ite (c.notice _ s h) h)
  case control => exact absurd rfl hcontrol
  case route => exact keep_takeDue c _ _ (keep_ite (hroute s h) (keep_routeChange c _ (hroute s h)))
  case talk => exact keep_ite (keep_ite h (keep_talkRise c.toAsqClosed s h)) (keep_ite (keep_talkFall c.toAsqClosed s h) h)
  case alarm => exact keep_ite h (halarm _ s h)
  case voice v => exact keep_followSample c.toVoiceClosed v s h
  case delivery o => exact keep_takeNext c o s h
  case also e => exact absurd rfl (halso e)

/-- The events of a slot end that hands CTH no control slot. -/
theorem keep_quietEvents (c : DeckClosed P) (hroute : ∀ s, P s → P { s with tif := routed new s.tif })
    (halarm : ∀ b s, P s → P (alarmFlag b s)) (hcontrol : ∀ s, P s → P (slotEvent old new ce waits s .control))
    {l : List SlotEvent} (halso : ∀ x, SlotEvent.also x ∉ l) (s : State) (h : P s) :
    P (l.foldl (slotEvent old new ce waits) s) := by
  refine keep_foldl_mem l (fun e he t ht => ?_) s h
  by_cases hc : e = .control
  · exact hc ▸ hcontrol t ht
  · exact keep_quietEvent c hroute halarm (fun x hx => halso x (hx ▸ he)) hc t ht

/-- What one event of an order brings, kept by the others, is there at the end. -/
theorem foldl_reaches {f : State → SlotEvent → State} {e : SlotEvent} (hreach : ∀ s, P (f s e)) :
    ∀ (l : List SlotEvent), e ∈ l → (∀ x ∈ l, ∀ s, P s → P (f s x)) → ∀ s, P (l.foldl f s)
  | [], he, _, _ => nomatch he
  | x :: l, he, hkeep, s => by
    by_cases hx : x = e
    · exact keep_foldl_mem l (fun y hy => hkeep y (List.mem_cons_of_mem _ hy)) _ (hx ▸ hreach s)
    · exact foldl_reaches hreach l ((List.mem_cons.mp he).resolve_left (Ne.symm hx))
        (fun y hy => hkeep y (List.mem_cons_of_mem _ hy)) _

/-! ## The properties -/

/-- The assembly of a packet. -/
theorem assembly_rest {Q : Option Assembly → Prop} : RestFree fun s => Q s.cth.assembly :=
  ⟨fun _ _ h => h, fun _ _ h => h, fun _ _ h => h, fun _ _ h => h, fun _ _ h => h, fun _ _ h => h, fun _ _ h => h,
    fun _ _ h => h, fun _ _ _ h => h⟩

theorem assembly_cache {Q : Option Assembly → Prop} : CacheClosed fun s => Q s.cth.assembly :=
  cacheClosed_of (fun _ _ _ h => h) (fun _ _ h => h) fun _ _ h => h

theorem assembly_lamps {Q : Option Assembly → Prop} : LampFree fun s => Q s.cth.assembly :=
  assembly_rest.lamps assembly_cache (fun _ _ _ h => h) fun n s h => by
    rcases pushNotice_eq n s with ⟨_, e⟩ | ⟨_, e⟩ <;> rw [e] <;> exact h

theorem assembly_deck {Q : Option Assembly → Prop} : DeckClosed fun s => Q s.cth.assembly := assembly_rest.deck assembly_cache assembly_lamps

theorem noticed_pushNotice (n : Notice) (s : State) : noticed n (pushNotice n s) := by
  rcases pushNotice_eq n s with ⟨_, e⟩ | ⟨_, e⟩ <;> rw [e]
  · exact .inl (by simp)
  · exact .inr rfl

/-- A notice in the queue stays there, or the lost flag is set. -/
theorem noticed_rest (n : Notice) : RestFree (noticed n) :=
  ⟨fun _ _ h => h, fun _ _ h => h, fun _ _ h => h, fun _ _ h => h, fun _ _ h => h, fun _ _ h => h, fun _ _ h => h,
    fun _ _ h => h, fun _ _ _ h => h⟩

theorem noticed_cache (n : Notice) : CacheClosed (noticed n) :=
  cacheClosed_of (fun _ _ _ h => h) (fun _ _ h => h) fun _ _ h => h

theorem noticed_lamps (n : Notice) : LampFree (noticed n) :=
  (noticed_rest n).lamps (noticed_cache n) (fun _ _ _ h => h) fun m s h => by
    rcases pushNotice_eq m s with ⟨_, e⟩ | ⟨_, e⟩ <;> rw [e]
    · exact h.imp_left fun hm => List.mem_append_left _ hm
    · exact .inr rfl

theorem noticed_deck (n : Notice) : DeckClosed (noticed n) := (noticed_rest n).deck (noticed_cache n) (noticed_lamps n)

/-- The port has no operation that waits with it READY, and the clip memory is as given. -/
def Untouched (d : Device) (s : State) : Prop := PortSettled s ∧ s.dev = d

theorem untouched_rest (d : Device) : RestFree (Untouched d) :=
  ⟨fun _ _ h => h, fun _ _ h => h, fun _ _ h => h, fun _ _ h => h, fun _ _ h => h, fun _ _ h => h, fun _ _ h => h,
    fun _ _ h => h, fun _ _ _ h => h⟩

theorem untouched_cache (d : Device) : CacheClosed (Untouched d) where
  request := fun v k u s h => by
    unfold request
    split
    · exact h
    · split <;> exact h
  touch := fun k s h => by
    unfold touch
    split <;> exact h
  ceaseWait := fun _ _ h => h
  arbiter := fun s h => ⟨arbiter_settles s, (congrArg State.dev (arbiter_settled_frame h.1)).trans h.2⟩

theorem untouched_lamps (d : Device) : LampFree (Untouched d) :=
  (untouched_rest d).lamps (untouched_cache d) (fun _ _ _ h => h) fun n s h => by
    rcases pushNotice_eq n s with ⟨_, e⟩ | ⟨_, e⟩ <;> rw [e] <;> exact h

theorem untouched_deck (d : Device) : DeckClosed (Untouched d) := (untouched_rest d).deck (untouched_cache d) (untouched_lamps d)

/-! ## An INVALID slot in LOCKED -/

theorem invalidTif_counting {t : Tif} (h : t.trunk = .locked) (hrun : t.invalidRun + 1 < 64) : invalidTif t =
    { t with counter := t.counter + 1, invalidRun := t.invalidRun + 1,
             delivered := if t.invalidRun = 0 then t.last else Reset.samples } := by
  simp only [invalidTif, h]
  exact if_neg (Nat.not_le.mpr hrun)

theorem invalidTif_lost {t : Tif} (h : t.trunk = .locked) (hrun : 64 ≤ t.invalidRun + 1) : invalidTif t =
    { t with counter := t.counter + 1, trunk := .lost, invalidRun := 0, validRun := 0, receiver := .hunting, live := 0,
             drive := lostDrive t.drive, delivered := Reset.samples } := by
  simp only [invalidTif, h]
  exact if_pos hrun

theorem slotControl_discard (h : s.tif.trunk = .locked) : slotControl none s.tif = .discard := by
  simp only [slotControl, h, if_true]

theorem sendReturn_cmp (n : Byte) (b : Bool) (s : State) : (sendReturn n b s).cmp = s.cmp := by
  unfold sendReturn
  dsimp only
  split
  · split
    · rw [returnTurn_frame s]
    · rfl
  · rfl

/-- The discard signal leaves no packet in assembly (R14, R21). -/
theorem assembly_discarded (ho : ownEvents order) (hl : s.tif.trunk = .locked) : (slotWith none order s).cth.assembly = none := by
  have d : DeckClosed fun t => t.cth.assembly = none := assembly_deck (Q := (· = none))
  rw [slotWith_eq, slotControl_discard hl]
  refine keep_settle d _ (foldl_reaches (P := fun t => t.cth.assembly = none) (e := .control) (fun _ => rfl) _ (mem_fullOrder (by simp [allEvents])) ?_ _)
  intro x hx t ht
  by_cases hc : x = .control
  · exact hc ▸ rfl
  · exact keep_quietEvent d (fun _ h => h) (fun b u hu => (assembly_lamps (Q := (· = none))).alarmFlag b u hu)
      (fun y hy => fullOrder_own ho y (hy ▸ hx)) hc t ht

theorem noticed_lost (ho : ownEvents order) (hl : s.tif.trunk = .locked) (hlost : (invalidTif s.tif).trunk = .lost) :
    noticed .trunkLost (slotWith none order s) := by
  have d := noticed_deck .trunkLost
  rw [slotWith_eq, slotControl_discard hl]
  refine keep_settle d _ (foldl_reaches (P := noticed .trunkLost) (e := .trunkNotice) (fun t => ?_) _ (mem_fullOrder (by simp [allEvents])) ?_ _)
  · have hpush : slotEvent s.tif (slotTif none s.tif) .discard (fun b => order.contains (.delivery b)) t .trunkNotice =
        pushNotice .trunkLost t := if_pos ⟨hl, hlost⟩
    exact hpush ▸ noticed_pushNotice _ _
  · intro x hx t ht
    exact keep_quietEvents (ce := .discard) d (fun _ h => h) (fun b u hu => (noticed_lamps .trunkLost).alarmFlag b u hu) (fun _ h => h)
      (l := [x]) (fun y hy => fullOrder_own ho y (List.mem_singleton.mp hy ▸ hx)) t ht

theorem untouched_invalid (ho : ownEvents order) (hl : s.tif.trunk = .locked) (hs : PortSettled s) :
    (slotWith none order s).dev = s.dev := by
  have d := untouched_deck s.dev
  rw [slotWith_eq, slotControl_discard hl]
  refine (keep_settle d _ (keep_quietEvents (ce := .discard) d (fun _ h => h) (fun b u hu => (untouched_lamps s.dev).alarmFlag b u hu) (fun _ h => h)
    (fullOrder_own ho) _ ?_)).2
  have hsent : Untouched s.dev (sendReturn (slotTif none s.tif).counter (turnOffered s.tif (slotTif none s.tif)) s) :=
    ⟨settled_of_cmp hs (sendReturn_cmp _ _ s), sendReturn_dev _ _ s⟩
  have hplayed := keep_playVoices d.toVoiceClosed _ hsent
  unfold periodStart
  generalize playVoices _ = p at hplayed ⊢
  exact hplayed

/-- Settles O8: below the 64th INVALID slot and at it, TIF's record; the discard signal and the notice by the events. -/
theorem lockedInvalidSlot : Obligations.LockedInvalidSlot := by
  unfold Obligations.LockedInvalidSlot
  intro c ws order s hr hl hslot ho starts due
  obtain ⟨hpoll, hawaited⟩ := slotWith_polls ho none s
  obtain ⟨hbytes, hdraws⟩ := slotWith_bytes ho none s
  obtain ⟨hpending, hpower⟩ := slotWith_outer none order s
  have htif := slotWith_tif ho none s
  refine ⟨_, exec_slot hr hslot, assembly_discarded ho hl, fun hrun => htif.trans ?_, fun hrun => ⟨htif.trans ?_, ?_⟩, rfl, rfl, hpoll,
    hawaited, hbytes, hdraws, untouched_invalid ho hl, hpower, hpending⟩
  · rw [slotTif, invalidTif_counting hl hrun]
    rfl
  · rw [slotTif, invalidTif_lost hl hrun]
    rfl
  · exact noticed_lost ho hl (by rw [invalidTif_lost hl hrun])

/-! ## Slots out of LOCKED -/

/-- The slot brings no change that TIF hands on. -/
structure Still (old new : Tif) : Prop where
  drive : new.drive = old.drive
  trunk : new.trunk = old.trunk
  unlocked : old.trunk ≠ .locked

theorem invalidTif_unlocked {t : Tif} (h : t.trunk ≠ .locked) : invalidTif t =
    { t with counter := t.counter + 1, validRun := 0, receiver := .hunting, delivered := Reset.samples } := by
  unfold invalidTif
  split
  · next hl => exact absurd hl h
  · rfl

theorem still_counting {f : Vector Word16 21} {t : Tif} (h : t.trunk ≠ .locked) (hrun : t.validRun + 1 < 16) :
    Still t (validTif f t) := by
  rw [validTif_counting f h hrun]
  exact ⟨rfl, rfl, h⟩

theorem still_invalid {t : Tif} (h : t.trunk ≠ .locked) : Still t (invalidTif t) := by
  rw [invalidTif_unlocked h]
  exact ⟨rfl, rfl, h⟩

/-- No delivery waits, and the notices are as given. -/
def Quiet (ns : List Notice) (s : State) : Prop := s.rce.due = [] ∧ s.cth.notices = ns

theorem quiet_voices (ns : List Notice) : VoiceClosed (Quiet ns) where
  toCacheClosed := cacheClosed_of (fun _ _ _ h => h) (fun _ _ h => h) fun _ _ h => h
  vpl := fun _ _ h => h
  report := fun _ _ h => h

theorem takeDue_quiet {ns : List Notice} (h : Quiet ns s) : Quiet ns (takeDue waits s) := (takeDue_none waits h.1).symm ▸ h

theorem takeNext_quiet {ns : List Notice} {o : CueOwner} (h : Quiet ns s) : Quiet ns (takeNext o s) :=
  (takeNext_none o h.1).symm ▸ h

theorem still_slotEvent (hd : Still old new) {ns : List Notice} {e : SlotEvent} (halso : ∀ x, e ≠ .also x) (s : State)
    (h : Quiet ns s) : Quiet ns (slotEvent old new .nothing waits s e) := by
  cases e
  case trunkNotice =>
    have hlost : ¬(old.trunk = .locked ∧ new.trunk = .lost) := fun hc => hd.unlocked hc.1
    have hlocked : ¬(old.trunk = .lost ∧ new.trunk = .locked) := fun hc => hd.unlocked (hd.trunk ▸ hc.2)
    simpa only [slotEvent, hlost, hlocked, if_false] using h
  case control => exact h
  case route =>
    have hsame : routeFields old = routeFields new := by rw [routeFields, routeFields, hd.drive, hd.trunk]
    simp only [slotEvent, hsame, if_true]
    exact takeDue_quiet (s := { s with tif := routed new s.tif }) h
  case talk => simpa [slotEvent, hd.drive] using h
  case alarm => simpa only [slotEvent, hd.drive, if_true] using h
  case voice v => exact keep_followSample (quiet_voices ns) v s h
  case delivery o => exact takeNext_quiet h
  case also e => exact absurd rfl (halso e)

theorem still_takeEvents (hd : Still old new) (ho : ownEvents order) {ns : List Notice} (s : State) (h : Quiet ns s) :
    Quiet ns (takeEvents old new .nothing order s) :=
  takeDue_quiet (keep_foldl_mem _ (fun _ he t ht => still_slotEvent hd (fun x hx => fullOrder_own ho x (hx ▸ he)) t ht) s h)

theorem assembly_still (ho : ownEvents order) {a : Option Assembly} (s : State) (h : s.cth.assembly = a) :
    (takeEvents old new .nothing order s).cth.assembly = a :=
  keep_settle (assembly_deck (Q := (· = a))) _ (keep_quietEvents (ce := .nothing) (assembly_deck (Q := (· = a))) (fun _ h => h)
    (fun b u hu => (assembly_lamps (Q := (· = a))).alarmFlag b u hu) (fun _ h => h) (fullOrder_own ho) s h)

theorem sendReturn_unoffered (n : Byte) (s : State) : (sendReturn n false s).cth = s.cth ∧ (sendReturn n false s).rce = s.rce := by
  unfold sendReturn
  dsimp only
  split <;> exact ⟨rfl, rfl⟩

/-- With no own turn offered CTH and RCE are at the start of a period's events as before it. -/
theorem periodStart_unoffered (new : Tif) (s : State) :
    (periodStart new false s).cth = s.cth ∧ (periodStart new false s).rce = s.rce := by
  have hvoices : VoiceClosed fun t => t.cth = s.cth ∧ t.rce = s.rce :=
    { toCacheClosed := cacheClosed_of (fun _ _ _ h => h) (fun _ _ h => h) fun _ _ h => h
      vpl := fun _ _ h => h, report := fun _ _ h => h }
  have hplayed := keep_playVoices hvoices _ (sendReturn_unoffered new.counter s)
  unfold periodStart
  generalize playVoices _ = p at hplayed ⊢
  exact hplayed

theorem turnOffered_unlocked (h : old.trunk ≠ .locked) : turnOffered old new = false := by simp [turnOffered, h]

/-- A slot that brings no change leaves the assembly, and where no delivery waits the notices. -/
theorem slotWith_still (ho : ownEvents order) (frame : Option (Vector Word16 21)) (hd : Still s.tif (slotTif frame s.tif))
    (hcontrol : slotControl frame s.tif = .nothing) : (slotWith frame order s).cth.assembly = s.cth.assembly ∧
      (s.rce.due = [] → (slotWith frame order s).cth.notices = s.cth.notices) := by
  obtain ⟨hcth, hrce⟩ := periodStart_unoffered (slotTif frame s.tif) s
  rw [slotWith_eq, hcontrol, turnOffered_unlocked hd.unlocked]
  exact ⟨assembly_still ho _ (congrArg Cth.assembly hcth), fun hdue =>
    (still_takeEvents hd ho _ ⟨(congrArg Rce.due hrce).trans hdue, congrArg Cth.notices hcth⟩).2⟩

theorem slotControl_counting {f : Vector Word16 21} (h : Still s.tif (validTif f s.tif)) : slotControl (some f) s.tif = .nothing :=
  if_neg fun hc => h.unlocked (h.trunk ▸ hc)

theorem slotControl_unlocked (h : s.tif.trunk ≠ .locked) : slotControl none s.tif = .nothing := if_neg h

/-! ## The change to LOCKED -/

/-- From IDLE one control slot begins a packet or is ignored: no request arrives. -/
theorem takeSlot_begins (hassembly : ∀ x t, P t → P (setAssembly x t)) (t : Slot) (hidle : s.cth.assembly = none) (h : P s) :
    P (takeSlot t s) := by
  rw [takeSlot_idle hidle]
  exact keep_ite (hassembly _ s h) h

theorem trunkNotice_regained (hold : old.trunk = .lost) (hnew : new.trunk = .locked) (s : State) :
    slotEvent old new ce waits s .trunkNotice = pushNotice .trunkRegained s := by
  simp [slotEvent, hold, hnew]

theorem nodup_tail {e : SlotEvent} {l : List SlotEvent} (h : ((e :: l).filter SlotEvent.own).Nodup) :
    (l.filter SlotEvent.own).Nodup := h.sublist ((List.sublist_cons_self e l).filter _)

theorem own_fresh {e : SlotEvent} {l : List SlotEvent} (h : ((e :: l).filter SlotEvent.own).Nodup) (hown : e.own = true) : e ∉ l := by
  rw [List.filter_cons_of_pos hown, List.nodup_cons] at h
  exact fun he => h.1 (List.mem_filter.mpr ⟨he, hown⟩)

/-- The one notice of a trunk regained is in the queue after it, or dropped with the lost flag set, where the control slot
ends no packet. -/
theorem noticed_regained (t : Slot) (hold : old.trunk = .lost) (hnew : new.trunk = .locked) (l : List SlotEvent)
    (hnodup : (l.filter SlotEvent.own).Nodup) (halso : ∀ x, SlotEvent.also x ∉ l) (s : State)
    (hidle : SlotEvent.control ∈ l → s.cth.assembly = none) (hn : SlotEvent.trunkNotice ∈ l ∨ noticed .trunkRegained s) :
    noticed .trunkRegained (l.foldl (slotEvent old new (.slot t) waits) s) := by
  induction l generalizing s with
  | nil => exact hn.resolve_left List.not_mem_nil
  | cons e l ih =>
    have hrest := ih (nodup_tail hnodup) fun x hx => halso x (List.mem_cons_of_mem _ hx)
    by_cases hc : e = .control
    · subst hc
      refine hrest _ (fun hl => absurd hl (own_fresh hnodup rfl)) ?_
      refine hn.imp (fun hm => (List.mem_cons.mp hm).resolve_left (by decide)) fun hs => ?_
      exact keep_takeDue (noticed_deck _) _ _ (takeSlot_begins (fun _ _ h => h) t (hidle List.mem_cons_self) hs)
    · have he : ∀ x, e ≠ .also x := fun x hx => halso x (hx ▸ List.mem_cons_self)
      refine hrest _ (fun hl => ?_) ?_
      · exact keep_quietEvent (assembly_deck (Q := (· = none))) (fun _ h => h)
          (fun b u hu => (assembly_lamps (Q := (· = none))).alarmFlag b u hu) he hc s (hidle (List.mem_cons_of_mem _ hl))
      · by_cases ht : e = .trunkNotice
        · subst ht
          exact .inr (trunkNotice_regained hold hnew s ▸ noticed_pushNotice _ _)
        · refine hn.imp (fun hm => (List.mem_cons.mp hm).resolve_left (Ne.symm ht)) fun hs => ?_
          exact keep_quietEvent (noticed_deck _) (fun _ h => h) (fun b u hu => (noticed_lamps _).alarmFlag b u hu) he hc s hs

/-- The notice that the change to LOCKED brings. -/
def regainedNotice (old : Tif) : List Notice := if old.trunk = .lost then [.trunkRegained] else []

/-- An event of the change to LOCKED that is neither the trunk's notice nor the control slot, with the route IDLE, the alarm flag
as it was and the talk flag not pressed: it queues nothing. -/
theorem locking_slotEvent (t : Slot) (halarm : new.drive.alarm = old.drive.alarm) (hold : old.drive.talk = false)
    (hnew : new.drive.talk = false) {ns : List Notice} {e : SlotEvent} (halso : ∀ x, e ≠ .also x) (hn : e ≠ .trunkNotice)
    (hc : e ≠ .control) (s : State) (h : s.rce.state = .idle ∧ Quiet ns s) :
    (slotEvent old new (.slot t) waits s e).rce.state = .idle ∧ Quiet ns (slotEvent old new (.slot t) waits s e) := by
  cases e
  case trunkNotice => exact absurd rfl hn
  case control => exact absurd rfl hc
  case route =>
    have hchange : routeChange { s with tif := routed new s.tif } = { s with tif := routed new s.tif } := by
      simp only [routeChange, h.1]
    have hdue : slotEvent old new (.slot t) waits s .route = { s with tif := routed new s.tif } := by
      refine (congrArg (takeDue waits) ?_).trans (takeDue_none waits h.2.1)
      split
      · rfl
      · exact hchange
    rw [hdue]
    exact h
  case talk => simpa [slotEvent, hold, hnew] using h
  case alarm => simpa only [slotEvent, halarm, if_true] using h
  case voice v =>
    have hvoices : VoiceClosed fun t => t.rce.state = .idle ∧ Quiet ns t :=
      { toCacheClosed := cacheClosed_of (fun _ _ _ h => h) (fun _ _ h => h) fun _ _ h => h
        vpl := fun _ _ h => h, report := fun _ _ h => h }
    exact keep_followSample hvoices v s h
  case delivery o =>
    show (takeNext o s).rce.state = .idle ∧ Quiet ns (takeNext o s)
    rw [takeNext_none o h.2.1]
    exact h
  case also e => exact absurd rfl (halso e)

/-- The events of the change to LOCKED queue its notice alone. -/
theorem notices_locking (t : Slot) (hlocked : old.trunk ≠ .locked) (hlock : new.trunk = .locked)
    (halarm : new.drive.alarm = old.drive.alarm) (hold : old.drive.talk = false)
    (hnew : new.drive.talk = false) {ns : List Notice} (hroom : ns.length < 16) (l : List SlotEvent)
    (hnodup : (l.filter SlotEvent.own).Nodup) (halso : ∀ x, SlotEvent.also x ∉ l) (s : State)
    (hidle : SlotEvent.control ∈ l → s.cth.assembly = none)
    (h : s.rce.state = .idle ∧ Quiet (if .trunkNotice ∈ l then ns else ns ++ regainedNotice old) s) :
    Quiet (ns ++ regainedNotice old) (l.foldl (slotEvent old new (.slot t) waits) s) := by
  induction l generalizing s with
  | nil => exact h.2
  | cons e l ih =>
    have hrest := ih (nodup_tail hnodup) fun x hx => halso x (List.mem_cons_of_mem _ hx)
    have he : ∀ x, e ≠ .also x := fun x hx => halso x (hx ▸ List.mem_cons_self)
    by_cases hc : e = .control
    · subst hc
      refine hrest _ (fun hl => absurd hl (own_fresh hnodup rfl)) ?_
      simp only [List.mem_cons, reduceCtorEq, false_or] at h
      have htaken := takeSlot_begins
        (P := fun t => t.rce.state = .idle ∧ Quiet (if .trunkNotice ∈ l then ns else ns ++ regainedNotice old) t)
        (fun _ _ h => h) t (hidle List.mem_cons_self) h
      have hdue : slotEvent old new (.slot t) waits s .control = takeSlot t s := takeDue_none waits htaken.2.1
      rw [hdue]
      exact htaken
    · have hassembly : SlotEvent.control ∈ l → (slotEvent old new (.slot t) waits s e).cth.assembly = none := fun hl =>
        keep_quietEvent (assembly_deck (Q := (· = none))) (fun _ h => h)
          (fun b u hu => (assembly_lamps (Q := (· = none))).alarmFlag b u hu) he hc s (hidle (List.mem_cons_of_mem _ hl))
      refine hrest _ hassembly ?_
      by_cases ht : e = .trunkNotice
      · subst ht
        rw [if_neg (own_fresh hnodup rfl)]
        simp only [List.mem_cons, true_or, if_true] at h
        obtain ⟨hstate, hdue, hns⟩ := h
        by_cases hlost : old.trunk = .lost
        · rw [trunkNotice_regained hlost hlock]
          rcases pushNotice_eq .trunkRegained s with ⟨_, e⟩ | ⟨hfull, _⟩
          · rw [e, regainedNotice, if_pos hlost]
            exact ⟨hstate, hdue, congrArg (· ++ _) hns⟩
          · rw [hns] at hfull
            omega
        · have hnone : slotEvent old new (.slot t) waits s .trunkNotice = s := by
            simp [slotEvent, hlocked, hlost]
          rw [hnone, regainedNotice, if_neg hlost, List.append_nil]
          exact ⟨hstate, hdue, hns⟩
      · simp only [List.mem_cons, Ne.symm ht, false_or] at h
        exact locking_slotEvent t halarm hold hnew he ht hc s h

theorem slotControl_locks {f : Vector Word16 21} (h : (validTif f s.tif).trunk = .locked) :
    slotControl (some f) s.tif = .slot (slotWords (f.get 18) (f.get 19)) := if_pos h

theorem trunk_locks (f : Vector Word16 21) {t : Tif} (h : t.trunk ≠ .locked) (hrun : 16 ≤ t.validRun + 1) :
    (validTif f t).trunk = .locked := by
  rw [validTif_locks f h hrun]
  rfl

theorem slotWith_regained {f : Vector Word16 21} (ho : ownEvents order) (hlost : s.tif.trunk = .lost)
    (hlock : (validTif f s.tif).trunk = .locked) (hidle : s.cth.assembly = none) :
    noticed .trunkRegained (slotWith (some f) order s) := by
  obtain ⟨hcth, _⟩ := periodStart_unoffered (slotTif (some f) s.tif) s
  rw [slotWith_eq, slotControl_locks hlock, turnOffered_unlocked (by simp [hlost])]
  exact keep_settle (noticed_deck _) _ (noticed_regained _ hlost hlock _ (fullOrder_nodup order) (fullOrder_own ho) _
    (fun _ => (congrArg Cth.assembly hcth).trans hidle) (.inl (mem_fullOrder (by simp [allEvents]))))

theorem slotWith_locking {f : Vector Word16 21} (ho : ownEvents order) (hl : s.tif.trunk ≠ .locked)
    (hlock : (validTif f s.tif).trunk = .locked) (halarm : (validTif f s.tif).drive.alarm = s.tif.drive.alarm)
    (hold : s.tif.drive.talk = false) (hnew : (validTif f s.tif).drive.talk = false) (hidle : s.cth.assembly = none)
    (hdue : s.rce.due = []) (hstate : s.rce.state = .idle) (hroom : s.cth.notices.length < 16) :
    (slotWith (some f) order s).cth.notices = s.cth.notices ++ regainedNotice s.tif := by
  obtain ⟨hcth, hrce⟩ := periodStart_unoffered (slotTif (some f) s.tif) s
  rw [slotWith_eq, slotControl_locks hlock, turnOffered_unlocked hl]
  refine (takeDue_quiet (notices_locking _ hl hlock halarm hold hnew hroom _ (fullOrder_nodup order) (fullOrder_own ho) _
    (fun _ => (congrArg Cth.assembly hcth).trans hidle) ?_)).2
  rw [if_pos (mem_fullOrder (by simp [allEvents]))]
  exact ⟨(congrArg Rce.state hrce).trans hstate, (congrArg Rce.due hrce).trans hdue, congrArg Cth.notices hcth⟩

/-- Settles O9: a slot that brings no change, and the change to LOCKED with its one notice and at most the start of a packet. -/
theorem unlockedSlots : Obligations.UnlockedSlots := by
  unfold Obligations.UnlockedSlots
  intro c ws order s hr hl ho starts due
  refine ⟨fun f hslot => ⟨_, exec_slot hr hslot, rfl, fun hrun => ⟨?_, ?_⟩, fun hrun => ⟨?_, ?_, ?_⟩⟩, fun hslot =>
    ⟨_, exec_slot hr hslot, rfl, ?_, ?_⟩⟩
  · refine (slotWith_tif ho (some f) s).trans ?_
    rw [slotTif, validTif_counting f hl hrun]
    rfl
  · exact slotWith_still ho (some f) (still_counting hl hrun) (slotControl_counting (still_counting hl hrun))
  · refine (slotWith_tif ho (some f) s).trans ?_
    rw [slotTif, validTif_locks f hl hrun]
    rfl
  · exact fun hidle hlost => slotWith_regained ho hlost (trunk_locks f hl hrun) hidle
  · intro hidle hdue hstate halarm htalk hold hroom
    refine slotWith_locking ho hl (trunk_locks f hl hrun) ?_ hold ?_ hidle hdue hstate hroom
    · rw [validTif_locks f hl hrun]
      exact halarm
    · rw [validTif_locks f hl hrun]
      exact htalk
  · refine (slotWith_tif ho none s).trans ?_
    rw [slotTif, invalidTif_unlocked hl]
    rfl
  · exact slotWith_still ho none (still_invalid hl) (slotControl_unlocked hl)

end Sys2Proof.Proofs
end

section
/-! PROOFS. What a slot sends: the return frame with the return slot arbiter, and the seat chain frame. -/

namespace Sys2Proof.Proofs

open Sys2Proof Sys2Proof.Machine Sys2Proof.Laws

variable {P : State → Prop} {c : Instr} {ws : TrunkWords} {frame : Option (Vector Word16 21)} {order : List SlotEvent} {s : State}
  {old new : Tif}

/-! ## All the events of a slot end -/

/-- What every event keeps stands the events of a slot end, those of the chip beside the slot as well. -/
theorem keep_takeEvents (c : OpsClosed P) (o : OwnEventClosed P) (ce : ControlEvent)
    (hroute : ∀ s, P s → P { s with tif := routed new s.tif }) (halarm : ∀ b s, P s → P (alarmFlag b s)) (order : List SlotEvent)
    (s : State) (h : P s) : P (takeEvents old new ce order s) := by
  refine c.settle _ (keep_foldl (fun e t ht => ?_) _ s h)
  by_cases he : ∃ x, e = .also x
  · obtain ⟨x, rfl⟩ := he
    exact c.takeEvent x t ht
  · exact o.slotEvent ce _ e (fun x hx => he ⟨x, hx⟩) (fun _ => hroute) (fun _ => halarm _) t ht

theorem ports_own {Q : List Word16 → Vector Sample 4 → Prop} : OwnEventClosed fun s => Q s.out.returnFrame s.out.channels :=
  have hsteps : RouteSteps fun s => Q s.out.returnFrame s.out.channels :=
    (routeLeaves_of (fun _ _ h => h) ports_deck.cthOps.notice).steps
  { toOwnClosed := ports_ops.own, toRouteSteps := hsteps, answered := answered_of ports_ops.own hsteps fun _ _ h => h }

/-- The return frame and the channels' samples stand every event of a slot end. -/
theorem takeEvents_ports (ce : ControlEvent) (order : List SlotEvent) (s : State) :
    (takeEvents old new ce order s).out.returnFrame = s.out.returnFrame ∧
      (takeEvents old new ce order s).out.channels = s.out.channels :=
  keep_takeEvents (ports_ops (Q := fun r c => r = s.out.returnFrame ∧ c = s.out.channels)) (ports_own (Q := fun r c => r = s.out.returnFrame ∧ c = s.out.channels)) ce
    (fun _ h => h)
    (ports_deck (Q := fun r c => r = s.out.returnFrame ∧ c = s.out.channels)).alarmFlag order s ⟨rfl, rfl⟩

theorem poll_deck {Q : BoxNo → Prop} : DeckSide fun s => Q s.scc.poll where
  cth := fun _ _ h => h
  asq := fun _ _ h => h
  vpl := fun _ _ h => h
  ccc := fun _ _ h => h
  cmp := fun _ _ h => h
  lmc := fun _ _ h => h
  dev := fun _ _ h => h
  row := fun _ _ _ h => h
  duck := fun _ _ h => h

theorem poll_ops {Q : BoxNo → Prop} : OpsClosed fun s => Q s.scc.poll :=
  poll_deck.ops (zouOps_of fun _ _ h => h)
    { toSeatRequests := polls_seats (Q := fun p _ _ => Q p), box := fun _ _ _ h => h, awaited := fun _ _ h => h
      plugIn := fun _ _ h => h, unplug := fun _ _ h => h, tick := fun _ h => h
      press := fun i l u d s h => by
        unfold pressSeat
        dsimp only
        split <;> exact h }
    (routeLeaves_of (fun _ _ h => h) poll_deck.cthOps.notice).ops (fun _ _ h => h) (fun _ _ h => h)

/-- The box polled stands every event of a slot end. -/
theorem takeEvents_poll (ce : ControlEvent) (order : List SlotEvent) (s : State) :
    (takeEvents old new ce order s).scc.poll = s.scc.poll :=
  keep_takeEvents (poll_ops (Q := (· = s.scc.poll))) (polls_own (Q := fun p _ _ => p = s.scc.poll)) ce (fun _ h => h)
    (poll_deck (Q := (· = s.scc.poll))).alarmFlag order s rfl

/-! ## The return frame -/

theorem returnWords_eq (n : Byte) (b : Slot) : returnWords n b = [0xB1E7, n.setWidth 16, b.b0 ++ b.b1, b.b2 ++ b.b3,
    0xB1E7 + n.setWidth 16 + (b.b0 ++ b.b1) + (b.b2 ++ b.b3)] := by
  have hn : (0 : Byte) ++ n = n.setWidth 16 := by
    apply BitVec.eq_of_toNat_eq
    rw [BitVec.toNat_append, BitVec.toNat_setWidth, Nat.mod_eq_of_lt (by omega)]
    simp
  simp [returnWords, sumWords, word, ← hn]

/-- The four bytes of the return frame (R17). -/
def returnSlot (n : Byte) (offered : Bool) (s : State) : Slot :=
  if ownTurn s.tif.node n then (if offered then (returnTurn s).2 else Slot.zero) else s.tif.downstream.getD Slot.zero

theorem sendReturn_sends (n : Byte) (offered : Bool) (s : State) :
    (sendReturn n offered s).out.returnFrame = returnWords n (returnSlot n offered s) := by
  unfold sendReturn returnSlot
  dsimp only
  split
  · split <;> rfl
  · rfl

theorem periodStart_returnFrame (new : Tif) (offered : Bool) (s : State) :
    (periodStart new offered s).out.returnFrame = returnWords new.counter (returnSlot new.counter offered s) := by
  have hplayed := keep_playVoices (ports_ops (Q := fun r _ => r = returnWords new.counter (returnSlot new.counter offered s))).toVoiceClosed
    _ (sendReturn_sends new.counter offered s)
  unfold periodStart
  generalize playVoices _ = p at hplayed ⊢
  exact hplayed

theorem slotWith_returnFrame (frame : Option (Vector Word16 21)) (order : List SlotEvent) (s : State) :
    (slotWith frame order s).out.returnFrame = returnWords (slotTif frame s.tif).counter
      (returnSlot (slotTif frame s.tif).counter (turnOffered s.tif (slotTif frame s.tif)) s) := by
  rw [slotWith_eq, (takeEvents_ports _ order _).1, periodStart_returnFrame]

theorem validTif_counter (f : Vector Word16 21) (t : Tif) : (validTif f t).counter = (f.get 1).extractLsb' 0 8 := by
  unfold validTif
  split
  · rfl
  · dsimp only
    split <;> rfl

theorem invalidTif_counter (t : Tif) : (invalidTif t).counter = t.counter + 1 := by
  unfold invalidTif
  split
  · dsimp only
    split <;> rfl
  · rfl

/-- An own turn is offered in a slot before and after which the trunk is LOCKED: a VALID slot in LOCKED, and an INVALID one below
the 64th. -/
theorem turnOffered_slot (frame : Option (Vector Word16 21)) (t : Tif) : turnOffered t (slotTif frame t) =
    (decide (t.trunk = .locked) && (frame.isSome || decide (t.invalidRun + 1 < 64))) := by
  by_cases hl : t.trunk = .locked
  · cases frame with
    | some f => simp [turnOffered, slotTif, validTif_locked f hl, takeFrame, hl]
    | none =>
      by_cases hrun : t.invalidRun + 1 < 64
      · simp [turnOffered, slotTif, invalidTif_counting hl hrun, hl, hrun]
      · simp [turnOffered, slotTif, invalidTif_lost hl (Nat.not_lt.mp hrun), hl, hrun]
  · simp [turnOffered, hl]

theorem slotWith_sends (frame : Option (Vector Word16 21)) (order : List SlotEvent) (s : State)
    {n : Byte} (hn : (slotTif frame s.tif).counter = n) {offered : Bool}
    (hoffered : (decide (s.tif.trunk = .locked) && (frame.isSome || decide (s.tif.invalidRun + 1 < 64))) = offered) :
    ∃ b : Slot,
      (slotWith frame order s).out.returnFrame = [0xB1E7, n.setWidth 16, b.b0 ++ b.b1, b.b2 ++ b.b3,
        0xB1E7 + n.setWidth 16 + (b.b0 ++ b.b1) + (b.b2 ++ b.b3)] ∧
      (n.toNat % 4 ≠ s.tif.node.toNat → b = s.tif.downstream.getD { b0 := 0, b1 := 0, b2 := 0, b3 := 0 }) ∧
      (n.toNat % 4 = s.tif.node.toNat →
        b = if offered then (returnTurn s).2 else { b0 := 0, b1 := 0, b2 := 0, b3 := 0 }) := by
  subst hn
  refine ⟨_, (slotWith_returnFrame frame order s).trans (returnWords_eq _ _), fun hother => ?_, fun hown => ?_⟩
  · exact if_neg (by simpa [ownTurn] using hother)
  · rw [turnOffered_slot, hoffered]
    exact if_pos (by simpa [ownTurn] using hown)

/-! ## The return slot arbiter -/

theorem beginReply_ready {p : Place} (hp : p.state = .ready) (after : List Place) : ∀ (before : List Place),
    (∀ q ∈ before, q.state ≠ .ready) →
      beginReply (before ++ p :: after) = some (p, before ++ { p with state := .sending } :: after)
  | [], _ => by simp [beginReply, hp]
  | q :: before, h => by
    obtain ⟨hq, hrest⟩ := List.forall_mem_cons.mp h
    simp [beginReply, hq, beginReply_ready hp after before hrest]

theorem beginReply_none : ∀ (l : List Place), (∀ q ∈ l, q.state ≠ .ready) → beginReply l = none
  | [], _ => rfl
  | q :: l, h => by
    obtain ⟨hq, hrest⟩ := List.forall_mem_cons.mp h
    simp [beginReply, hq, beginReply_none l hrest]

theorem slotOf_getD (bytes : List Byte) (k : Nat) : Machine.slotOf bytes k =
    { b0 := bytes.getD (4 * k) 0, b1 := bytes.getD (4 * k + 1) 0, b2 := bytes.getD (4 * k + 2) 0, b3 := bytes.getD (4 * k + 3) 0 } := by
  simp [Machine.slotOf, Slot.ofBytes]

theorem afterSlot_more {tx : Transmission} (h : 4 * (tx.sent + 1) < tx.packet.length) (s : State) :
    afterSlot tx s = { s with cth := { s.cth with tx := some { tx with sent := tx.sent + 1 } } } := if_neg (Nat.not_le.mpr h)

theorem afterSlot_last {tx : Transmission} (h : tx.packet.length ≤ 4 * (tx.sent + 1)) (s : State) :
    afterSlot tx s = { s with cth := { s.cth with
      tx := none, replies := if tx.reply then s.cth.replies.filter (fun p => decide (p.state ≠ .sending)) else s.cth.replies,
      deckDue := s.cth.deckDue || tx.resetsDeck } } := by
  have hf : ∀ l : List Place, (l.filter (·.state != .sending)) = l.filter fun p => decide (p.state ≠ .sending) := fun l =>
    List.filter_congr fun p _ => by cases p.state <;> rfl
  rw [← hf]
  exact if_pos h

theorem packet_eq (node : BitVec 2) (kind : Byte) (payload : List Byte) : packet node kind payload =
    (0xC5 : Byte) :: ((node.setWidth 8 :: kind :: BitVec.ofNat 8 payload.length :: payload) ++
      [0 - (node.setWidth 8 :: kind :: BitVec.ofNat 8 payload.length :: payload).foldl (· + ·) 0]) := by
  have hnode : byte node.toNat = node.setWidth 8 := BitVec.eq_of_toNat_eq (by simp [byte])
  simp only [packet, hnode]
  rfl

/-- A packet is longer than one slot, so the first slot of a transmission leaves more to send. -/
theorem afterSlot_first (node : BitVec 2) (kind : Byte) (payload : List Byte) (reply resets : Bool) (s : State) :
    afterSlot (newTransmission (packet node kind payload) reply resets) s = { s with cth := { s.cth with
      tx := some { packet := packet node kind payload, sent := 1, reply := reply, resetsDeck := resets } } } :=
  afterSlot_more (by simp [newTransmission, packet]) s

theorem returnTurn_sending {tx : Transmission} (h : s.cth.tx = some tx) :
    returnTurn s = (afterSlot tx s, Machine.slotOf tx.packet tx.sent) := by
  simp only [returnTurn, h]

theorem returnTurn_reply {before after : List Place} {p : Place} (htx : s.cth.tx = none)
    (hreplies : s.cth.replies = before ++ p :: after) (hp : p.state = .ready) (hbefore : ∀ q ∈ before, q.state ≠ .ready) :
    returnTurn s =
      ({ s with cth := { s.cth with
          replies := before ++ { p with state := .sending } :: after,
          tx := some { packet := packet s.tif.node p.kind p.payload, sent := 1, reply := true, resetsDeck := p.resetsDeck } } },
        Machine.slotOf (packet s.tif.node p.kind p.payload) 0) := by
  simp only [returnTurn, htx, hreplies, beginReply_ready hp after before hbefore, afterSlot_first]
  rfl

theorem returnTurn_notice {n : Notice} {rest : List Notice} (htx : s.cth.tx = none)
    (hreplies : ∀ q ∈ s.cth.replies, q.state ≠ .ready) (hnotices : s.cth.notices = n :: rest) :
    returnTurn s =
      ({ s with cth := { s.cth with
          notices := rest, lost := false,
          tx := some { packet := packet s.tif.node 0x90 (noticePayload s.cth.lost n), sent := 1, reply := false,
                       resetsDeck := false } } },
        Machine.slotOf (packet s.tif.node 0x90 (noticePayload s.cth.lost n)) 0) := by
  simp only [returnTurn, htx, beginReply_none _ hreplies, hnotices, afterSlot_first]
  rfl

theorem returnTurn_idle (htx : s.cth.tx = none) (hreplies : ∀ q ∈ s.cth.replies, q.state ≠ .ready) (hnotices : s.cth.notices = []) :
    returnTurn s = (s, { b0 := 0, b1 := 0, b2 := 0, b3 := 0 }) := by
  simp only [returnTurn, htx, beginReply_none _ hreplies, hnotices]
  rfl

theorem pushNotice_ite (n : Notice) (s : State) : pushNotice n s = { s with cth :=
    if s.cth.notices.length < 16 then { s.cth with notices := s.cth.notices ++ [n] } else { s.cth with lost := true } } := by
  rcases pushNotice_eq n s with ⟨h, e⟩ | ⟨h, e⟩
  · rw [e, if_pos h]
  · rw [e, if_neg (Nat.not_lt.mpr h)]

/-- Settles O12: the return frame's bytes by the counter's turn, and the arbiter by what it finds to send. -/
theorem returnFrameOfSlot : Obligations.ReturnFrameOfSlot := by
  unfold Obligations.ReturnFrameOfSlot
  constructor
  · intro c ws frame order s hr hslot n offered
    refine ⟨_, exec_slot hr hslot, slotWith_sends frame order s ?_ rfl⟩
    cases frame with
    | some f => exact validTif_counter f s.tif
    | none => exact invalidTif_counter s.tif
  intro s b w yn slot framed told
  refine ⟨fun n => pushNotice_ite n s, fun tx htx => ⟨?_, fun hmore => ?_, fun hlast => ?_⟩,
    fun before p after htx hreplies hp hbefore => ?_, ?_, returnTurn_idle⟩
  · rw [returnTurn_sending htx]
    exact slotOf_getD _ _
  · rw [returnTurn_sending htx]
    exact afterSlot_more hmore s
  · rw [returnTurn_sending htx]
    exact afterSlot_last hlast s
  · rw [returnTurn_reply htx hreplies hp hbefore, packet_eq]
    exact ⟨slotOf_getD _ _, rfl⟩
  · intro n rest htx hreplies hnotices sent
    have htold : noticePayload s.cth.lost n = yn s.cth.lost :: told n := by
      refine congrArg _ ?_
      cases n with
      | announceEnd id o => cases o <;> rfl
      | routeState x k r => cases x <;> rfl
      | supplyState x => cases x <;> rfl
      | _ => rfl
    rw [returnTurn_notice htx hreplies hnotices, htold, packet_eq]
    exact ⟨slotOf_getD _ _, rfl⟩

/-! ## The seat chain frame -/

theorem slotWith_poll (frame : Option (Vector Word16 21)) (order : List SlotEvent) (s : State) :
    (slotWith frame order s).scc.poll = s.scc.poll + 1 := by
  rw [slotWith_eq, takeEvents_poll]
  rfl

theorem pollWord_eq : ∀ b : BoxNo, word 0x5E (byte b.val) = BitVec.ofNat 16 (0x5E00 + b.val) := by decide

/-- The audio words of a seat chain frame: 0 for a seat that is not present or not enabled. -/
def audioWords (s : State) : List Word16 :=
  (List.finRange 64).map fun i => if (s.scc.seats.get i).present && (s.scc.seats.get i).enabled then seatSample s i else 0

theorem seatFrame_running (h : s.power.running = true) : seatFrame s =
    (BitVec.ofNat 16 (0x5E00 + s.scc.poll.val) :: audioWords s) ++
      [(BitVec.ofNat 16 (0x5E00 + s.scc.poll.val) :: audioWords s).foldl (· + ·) 0] := by
  rw [← pollWord_eq]
  exact if_pos h

theorem audioWords_length (s : State) : (audioWords s).length = 64 := by simp [audioWords]

/-- Settles O13: the poll, the 64 audio words and their check word, place by place. -/
theorem seatChainFrame : Obligations.SeatChainFrame := by
  unfold Obligations.SeatChainFrame
  refine ⟨fun c ws frame order s hr hslot => ⟨_, exec_slot hr hslot, ?_⟩, fun t hr => ?_, fun t hr => ?_⟩
  · have hrunning := (congrArg Power.running (slotWith_outer frame order s).power).trans hr
    have hpoll := slotWith_poll frame order s
    exact hpoll ▸ seatFrame_running (s := forward ws none (slotWith frame order s)) hrunning
  · have hlen := audioWords_length t
    rw [seatFrame_running hr]
    refine ⟨by simp [hlen], ?_, fun i hi => ?_⟩
    · rw [List.getElem?_append_right (by simp [hlen]), List.take_append_of_le_length (by simp [hlen]),
        List.take_of_length_le (by simp [hlen])]
      simp [hlen]
    · simp only [audioWords, List.cons_append, List.getElem?_cons_succ]
      rw [List.getElem?_append_left (by simp)]
      rcases hi with hi | hi <;> simp [hi]
  · exact if_neg (by simp [hr])

end Sys2Proof.Proofs
end

section
/-! PROOFS. The samples of a period: what the zones' loudspeakers and the seats hear. -/

namespace Sys2Proof.Proofs

open Sys2Proof Sys2Proof.Machine Sys2Proof.Laws

variable {c : Instr} {ws : TrunkWords} {frame : Option (Vector Word16 21)} {order : List SlotEvent} {s : State}

/-! ## Arithmetic -/

theorem toSample_toInt {x : Int} (hlo : -32768 ≤ x) (hhi : x ≤ 32767) : (toSample x).toInt = x := by
  rw [toSample, BitVec.toInt_ofInt]
  exact Int.bmod_eq_of_le (by omega) (by omega)

theorem toSample_saturate (x : Int) : (toSample (saturate x)).toInt = max (-32768) (min 32767 x) :=
  toSample_toInt (by unfold saturate; omega) (by unfold saturate; omega)

theorem foldl_add_eq {α : Type} (f : α → Int) (l : List α) (n : Int) : l.foldl (fun n x => n + f x) n = n + (l.map f).sum := by
  induction l generalizing n with
  | nil => simp
  | cons x l ih =>
    rw [List.foldl_cons, ih]
    simp only [List.map_cons, List.sum_cons]
    omega

theorem sum_filter_eq {α : Type} (p : α → Bool) (f : α → Int) (l : List α) :
    ((l.filter p).map f).sum = (l.map fun x => if p x then f x else 0).sum := by
  induction l with
  | nil => rfl
  | cons x l ih => by_cases hx : p x = true <;> simp [hx, ih]

/-! ## What the voices give -/

theorem returnTurn_settings (s : State) : (returnTurn s).1.cth.settings = s.cth.settings := by
  have hafter : ∀ x (t : State), (afterSlot x t).cth.settings = t.cth.settings := fun x t => by
    unfold afterSlot
    split <;> rfl
  unfold returnTurn
  split
  · exact hafter _ _
  · split
    · exact hafter _ _
    · split
      · exact hafter _ _
      · rfl

theorem sendReturn_rest (n : Byte) (b : Bool) (s : State) :
    { sendReturn n b s with cth := s.cth, tif := s.tif, out := s.out } = s ∧ (sendReturn n b s).cth.settings = s.cth.settings := by
  unfold sendReturn
  dsimp only
  split
  · split
    · refine ⟨?_, returnTurn_settings s⟩
      rw [returnTurn_frame s]
    · exact ⟨rfl, rfl⟩
  · exact ⟨rfl, rfl⟩

/-- What the voices give in the period that a slot ends. -/
def slotStep (frame : Option (Vector Word16 21)) (s : State) : State × List VoiceOut :=
  playVoices (sendReturn (slotTif frame s.tif).counter (turnOffered s.tif (slotTif frame s.tif)) s)

theorem slotStep_step (frame : Option (Vector Word16 21)) (s : State) : voicesStep s (slotStep frame s) :=
  have h := sendReturn_rest (slotTif frame s.tif).counter (turnOffered s.tif (slotTif frame s.tif)) s
  ⟨_, h.1, h.2, rfl⟩

/-! ## The loudspeakers -/

theorem slotWith_channels (frame : Option (Vector Word16 21)) (order : List SlotEvent) (s : State) :
    (slotWith frame order s).out.channels =
      channelSamples s (slotTif frame s.tif).live (slotTif frame s.tif).delivered (slotStep frame s).2 := by
  rw [slotWith_eq, (takeEvents_ports _ order _).2]
  rfl

theorem slotWith_live (ho : ownEvents order) (frame : Option (Vector Word16 21)) (s : State) :
    (slotWith frame order s).tif.live = (slotTif frame s.tif).live ∧
      (slotWith frame order s).tif.delivered = (slotTif frame s.tif).delivered := by
  rw [slotWith_tif ho]
  exact ⟨rfl, rfl⟩

theorem streamSample_eq (s : State) (live : BitVec 12) (d : Samples) (l : Lang) :
    streamSample d (streamFor s.scc.languages live l) =
      if live.getLsbD l.val then (d.lang.get l).toInt
      else match (s.scc.languages.get l).fallback with
        | some b => if live.getLsbD b.val then (d.lang.get b).toInt else 0
        | none => 0 := by
  unfold streamFor
  split
  · rfl
  · cases (s.scc.languages.get l).fallback with
    | none => rfl
    | some b =>
      dsimp only
      split <;> rfl

/-- What a speaker voice adds to a zone's announcement input (R84, R85). -/
def voiceAdds (s : State) (outs : List VoiceOut) (enters : ZoneMask → Fin 4 → Bool) (v : VoiceNo) : Int :=
  if (s.vpl.voices.get v).role = .speaker then
    match outs.getD v.val .silent, s.vpl.rendering, (s.vpl.voices.get v).fadeZones with
    | .playing y, some r, _ => if enters r.mask r.priority then y else 0
    | .fading y, _, some m => if enters m.1 m.2 then y else 0
    | _, _, _ => 0
  else 0

/-- What the talk sample adds to a zone's announcement input (R84, R85). -/
def talkAdds (s : State) (talk : Sample) (enters : ZoneMask → Fin 4 → Bool) : Int :=
  match s.zou.summary with
  | some m => if m.talk && enters m.mask 2 then talk.toInt else 0
  | none => 0

/-- A zone's mask and priority let a contribution in (R85). -/
def entersZone (z : Zone) (quiet : Bool) (mask : ZoneMask) (priority : Fin 4) : Bool :=
  mask.getLsbD z.val && (!quiet || decide (priority = 3))

theorem voiceContribution_sum (s : State) (outs : List VoiceOut) (z : Zone) (quiet : Bool) (v : VoiceNo) :
    ((voiceContribution s outs v).map fun x => if reaches z quiet x then x.sample else 0).sum =
      voiceAdds s outs (entersZone z quiet) v := by
  unfold voiceContribution voiceAdds
  by_cases hrole : (s.vpl.voices.get v).role = .speaker
  · rw [if_pos hrole, if_neg (by simpa using hrole)]
    unfold outOf
    cases outs.getD v.val .silent with
    | silent => rfl
    | waiting => rfl
    | playing y =>
      cases s.vpl.rendering with
      | none => rfl
      | some r => exact Int.add_zero _
    | fading y =>
      cases (s.vpl.voices.get v).fadeZones with
      | none => rfl
      | some m => exact Int.add_zero _
  · rw [if_neg hrole, if_pos hrole]
    rfl

theorem talkContribution_sum (s : State) (talk : Sample) (z : Zone) (quiet : Bool) :
    ((talkContribution s talk).map fun x => if reaches z quiet x then x.sample else 0).sum =
      talkAdds s talk (entersZone z quiet) := by
  unfold talkContribution talkAdds
  cases s.zou.summary with
  | none => rfl
  | some m =>
    dsimp only
    cases m.talk with
    | false => rfl
    | true => exact Int.add_zero _

theorem speakerInput_eq (s : State) (outs : List VoiceOut) (talk : Sample) (z : Zone) (quiet : Bool) :
    speakerInput (contributions s outs talk) z quiet = saturate (((List.finRange 8).map
      (voiceAdds s outs (entersZone z quiet))).sum + talkAdds s talk (entersZone z quiet)) := by
  have hvoices : ∀ l : List VoiceNo, ((l.flatMap (voiceContribution s outs)).map fun x =>
      if reaches z quiet x then x.sample else 0).sum = (l.map (voiceAdds s outs (entersZone z quiet))).sum := by
    intro l
    induction l with
    | nil => rfl
    | cons v l ih =>
      rw [List.flatMap_cons, List.map_append, List.sum_append, ih, voiceContribution_sum]
      rfl
  rw [speakerInput, foldl_add_eq, sum_filter_eq, contributions, List.map_append, List.sum_append, hvoices, talkContribution_sum]
  exact congrArg saturate (Int.zero_add _)

theorem channelSample_eq (s : State) (zs : Zone → Int) (ch : Fin 4) : (channelSample s zs ch).toInt =
    max (-32768) (min 32767 (((List.finRange 4).map fun z => if (s.zou.zones.get z).channel = ch then zs z else 0).sum)) := by
  rw [channelSample, toSample_saturate, foldl_add_eq, sum_filter_eq, Int.zero_add]
  simp only [beq_iff_eq]

theorem zoneSample_eq (s : State) (live : BitVec 12) (d : Samples) (outs : List VoiceOut) (z : Zone) :
    zoneSample s live d (contributions s outs d.talk) z = saturate
      ((programInput s live d (s.zou.zones.get z) * (multiplier (s.zou.zones.get z).gp : Int) + 16384).fdiv 32768 +
        (saturate (((List.finRange 8).map (voiceAdds s outs (entersZone z (s.zou.zones.get z).quiet))).sum +
          talkAdds s d.talk (entersZone z (s.zou.zones.get z).quiet)) *
            (multiplier (s.zou.zones.get z).gs : Int) + 16384).fdiv 32768) := by
  simp only [zoneSample, mixPaths, scale_eq_fdiv, speakerInput_eq]

theorem programInput_eq (s : State) (live : BitVec 12) (d : Samples) (x : ZoneRec) : programInput s live d x =
    if x.quiet then 0
    else match x.program with
      | none => 0
      | some l =>
        if live.getLsbD l.val then (d.lang.get l).toInt
        else match (s.scc.languages.get l).fallback with
          | some b => if live.getLsbD b.val then (d.lang.get b).toInt else 0
          | none => 0 := by
  unfold programInput
  cases x.program with
  | none => rfl
  | some l => simp only [streamSample_eq]

/-- Settles O15: a channel adds its zones' samples, a zone its program and what enters its announcement input. -/
theorem channelsCarryProgram : Obligations.ChannelsCarryProgram := by
  unfold Obligations.ChannelsCarryProgram
  intro c ws frame order s ch hr hslot ho
  refine ⟨_, slotStep frame s, exec_slot hr hslot, slotStep_step frame s, ?_⟩
  intro live heard program enters voice talk hold zone
  obtain ⟨hlive, hheard⟩ := slotWith_live ho frame s
  have hget : (slotWith frame order s).out.channels.get ch = channelSample s (zoneSample s (slotTif frame s.tif).live
      (slotTif frame s.tif).delivered (contributions s (slotStep frame s).2 (slotTif frame s.tif).delivered.talk)) ch := by
    rw [slotWith_channels]
    exact Vector.get_ofFn _ _
  have hzone : ∀ z, zoneSample s (slotTif frame s.tif).live (slotTif frame s.tif).delivered
      (contributions s (slotStep frame s).2 (slotTif frame s.tif).delivered.talk) z = zone z := by
    intro z
    rw [zoneSample_eq, programInput_eq, ← hlive, ← hheard]
    rfl
  refine (congrArg BitVec.toInt hget).trans ((channelSample_eq s _ ch).trans ?_)
  simp only [hzone]
  rfl

/-! ## A seat's paths under a box reply -/

/-- A seat stands: its presence, its gains and its paths of the period. -/
def SameSeat (i : SeatNo) (s t : State) : Prop :=
  (t.scc.seats.get i).present = (s.scc.seats.get i).present ∧
    t.hmx.formed.get i = s.hmx.formed.get i ∧ t.hmx.gains.get i = s.hmx.gains.get i

theorem SameSeat.present {i : SeatNo} {s t : State} (h : SameSeat i s t) :
    (t.scc.seats.get i).present = (s.scc.seats.get i).present := h.1

theorem SameSeat.formed {i : SeatNo} {s t : State} (h : SameSeat i s t) : t.hmx.formed.get i = s.hmx.formed.get i := h.2.1

theorem SameSeat.gains {i : SeatNo} {s t : State} (h : SameSeat i s t) : t.hmx.gains.get i = s.hmx.gains.get i := h.2.2

/-- A seat that is present afterwards has its paths as before, or with its applied indexes where it has just been plugged in
(R66, R72). -/
def SeatTaken (i : SeatNo) (s t : State) : Prop := (t.scc.seats.get i).present = true →
  t.hmx.formed.get i = if (s.scc.seats.get i).present then s.hmx.formed.get i
    else { s.hmx.formed.get i with gc := (t.hmx.gains.get i).gc, ga := (t.hmx.gains.get i).ga }

theorem SameSeat.refl (i : SeatNo) (s : State) : SameSeat i s s := ⟨rfl, rfl, rfl⟩

theorem SameSeat.trans {i : SeatNo} {s t u : State} (h : SameSeat i s t) (k : SameSeat i t u) : SameSeat i s u :=
  ⟨k.present.trans h.present, k.formed.trans h.formed, k.gains.trans h.gains⟩

theorem SameSeat.taken {i : SeatNo} {s t : State} (h : SameSeat i s t) : SeatTaken i s t := fun hp => by
  rw [if_pos (h.present ▸ hp), h.formed]

theorem SameSeat.then_taken {i : SeatNo} {s t u : State} (h : SameSeat i s t) (k : SeatTaken i t u) : SeatTaken i s u := fun hp => by
  rw [k hp, h.present, h.formed]

theorem SeatTaken.then_same {i : SeatNo} {s t u : State} (h : SeatTaken i s t) (k : SameSeat i t u) : SeatTaken i s u := fun hp => by
  rw [k.formed, k.gains, h (k.present ▸ hp)]

theorem sameSeat_setSeat {i j : SeatNo} {x : Seat} (h : x.present = (s.scc.seats.get j).present) : SameSeat i s (setSeat j x s) := by
  refine ⟨?_, rfl, rfl⟩
  simp only [setSeat_scc, get_put]
  split
  · next hij => exact hij ▸ h
  · rfl

theorem sameSeat_setSeat_ne {i j : SeatNo} (x : Seat) (h : i ≠ j) : SameSeat i s (setSeat j x s) := by
  refine ⟨?_, rfl, rfl⟩
  simp only [setSeat_scc, get_put_ne _ _ h]

theorem sameSeat_pushNotice (i : SeatNo) (n : Notice) (s : State) : SameSeat i s (pushNotice n s) := by
  rcases pushNotice_eq n s with ⟨_, e⟩ | ⟨_, e⟩ <;> rw [e] <;> exact SameSeat.refl i s

/-- The chime and the lamps of a stop press leave every seat. -/
theorem sameSeat_asq (i : SeatNo) (s : State) : AsqClosed (SameSeat i s) where
  toCacheClosed := cacheClosed_of (fun _ _ _ h => h) (fun _ _ h => h) fun _ _ h => h
  vpl := fun _ _ h => h
  report := fun _ _ h => h
  toLampClosed := lampClosed_of fun _ _ _ h => h
  notice := fun n t h => h.trans (sameSeat_pushNotice i n t)
  zou := fun _ _ h => h
  asq := fun _ _ h => h

theorem sameSeat_requestChime (i : SeatNo) (s : State) : SameSeat i s (requestChime s) :=
  keep_requestChime (sameSeat_asq i s) s (SameSeat.refl i s)

theorem sameSeat_stopPress (i j : SeatNo) (s : State) : SameSeat i s (stopPress j s) := by
  have hmark : SameSeat i s (setSeat j { seatOf s j with stopPressed := true } s) := sameSeat_setSeat rfl
  unfold stopPress
  refine keep_ite (.refl i s) ?_
  split
  · exact hmark
  · have hlatch : SameSeat i s { setSeat j { seatOf s j with stopPressed := true } s with
        scc := { (setSeat j { seatOf s j with stopPressed := true } s).scc with latch := some j } } := hmark
    exact keep_lampStopRequest (sameSeat_asq i s).toLampClosed _
      ((hlatch.trans (sameSeat_pushNotice i _ _)).trans (sameSeat_requestChime i _))

theorem sameSeat_pressJack (i j : SeatNo) (w : Word16) (lo : Nat) (s : State) : SameSeat i s (pressJack j w lo s) := by
  have hpress : SameSeat i s (pressSeat j (field2 w lo) (field2 w (lo + 2)) (field2 w (lo + 4)) s) :=
    keep_ite (P := SameSeat i s) (sameSeat_setSeat rfl) (.refl i s)
  exact keep_ite (P := SameSeat i s) (hpress.trans (sameSeat_stopPress i j _)) hpress

theorem sameSeat_plugIn {i j : SeatNo} (h : i ≠ j) (s : State) : SameSeat i s (plugIn j s) := by
  refine ⟨(sameSeat_setSeat_ne _ h).present, ?_, ?_⟩
  · exact get_put_ne _ _ h
  · exact get_put_ne _ _ h

theorem sameSeat_senseJack {i j : SeatNo} (h : i ≠ j) (a b : Bool) (s : State) : SameSeat i s (senseJack j a b s) :=
  keep_ite (P := SameSeat i s) (keep_ite (sameSeat_plugIn h s) (keep_ite (sameSeat_setSeat_ne _ h) (.refl i s))) (.refl i s)

theorem seatTaken_unplug (i j : SeatNo) (s : State) : SeatTaken i s (unplug j s) := by
  by_cases h : i = j
  · subst h
    intro hp
    simp [unplug] at hp
  · exact (sameSeat_setSeat_ne _ h).taken

theorem seatTaken_senseJack (i : SeatNo) (a b : Bool) (s : State) : SeatTaken i s (senseJack i a b s) := by
  unfold senseJack
  refine keep_ite ?_ (SameSeat.refl i s).taken
  split
  · next hplug =>
    intro _
    rw [Bool.and_eq_true, Bool.not_eq_true'] at hplug
    rw [if_neg (by simpa [seatOf] using hplug.2)]
    simp only [plugIn, snapSeat, adjust_eq, get_put_same, setSeat_hmx]
  · exact keep_ite (seatTaken_unplug i i s) (SameSeat.refl i s).taken

theorem seatA_ne_seatB (b : BoxNo) : seatA b ≠ seatB b := fun h => absurd (congrArg Fin.val h) (by simp [seatA, seatB])

theorem seatTaken_takeGood (i : SeatNo) (b : BoxNo) (r : Vector Word16 3) (s : State) : SeatTaken i s (takeGood b r s) := by
  have hbox : ∀ x n, SameSeat i s (if (boxOf s b).online then setBox b x s else pushNotice n (setBox b x s)) := fun x n => by
    have hset : SameSeat i s (setBox b x s) := SameSeat.refl i s
    exact keep_ite (P := SameSeat i s) hset (hset.trans (sameSeat_pushNotice i n _))
  have hsense : ∀ (x y z w : Bool) (t : State), SeatTaken i t (senseJack (seatB b) x y (senseJack (seatA b) z w t)) := by
    intro x y z w t
    by_cases hb : i = seatB b
    · subst hb
      exact (sameSeat_senseJack (seatA_ne_seatB b).symm z w t).then_taken (seatTaken_senseJack _ x y _)
    · have hsame := sameSeat_senseJack hb x y (senseJack (seatA b) z w t)
      by_cases ha : i = seatA b
      · subst ha
        exact (seatTaken_senseJack _ z w t).then_same hsame
      · exact ((sameSeat_senseJack ha z w t).trans hsame).taken
  exact (((hbox _ _).then_taken (hsense _ _ _ _ _)).then_same (sameSeat_pressJack i _ _ _ _)).then_same (sameSeat_pressJack i _ _ _ _)

theorem seatTaken_takeMiss (i : SeatNo) (b : BoxNo) (s : State) : SeatTaken i s (takeMiss b s) := by
  have hset : ∀ x, SameSeat i s (setBox b x s) := fun x => SameSeat.refl i s
  have hnotice := (hset Reset.box).trans (sameSeat_pushNotice i (.boxState b false) _)
  refine keep_ite (P := SeatTaken i s) (SameSeat.refl i s).taken (keep_ite (hset _).taken ?_)
  by_cases hb : i = seatB b
  · exact fun hp => absurd hp (by simp [unplug, hb])
  · exact (hnotice.then_taken (seatTaken_unplug i _ _)).then_same (sameSeat_setSeat_ne _ hb)

/-- A box reply leaves a seat's paths, but that a seat it plugs in has its targets. -/
theorem seatTaken_takeReply (i : SeatNo) (reply : Option (Vector Word16 3)) (s : State) : SeatTaken i s (takeReply reply s) := by
  unfold takeReply
  split
  · exact (SameSeat.refl i s).taken
  · next b _ =>
    have hawaited : SameSeat i s { s with scc := { s.scc with awaited := none } } := SameSeat.refl i s
    cases reply with
    | none => exact hawaited.then_taken (seatTaken_takeMiss i b _)
    | some r =>
      exact keep_ite (P := SeatTaken i s) (hawaited.then_taken (seatTaken_takeGood i b r _)) (hawaited.then_taken (seatTaken_takeMiss i b _))

/-! ## The seats' samples -/

theorem slotWith_formed (ho : ownEvents order) (frame : Option (Vector Word16 21)) (s : State) :
    (slotWith frame order s).hmx.formed =
      Vector.ofFn (seatPaths s (slotTif frame s.tif).live (slotTif frame s.tif).delivered (slotStep frame s).2) := by
  rw [slotWith_eq]
  exact own_takeEvents (polls_own (Q := fun _ _ x => x = Vector.ofFn (seatPaths s (slotTif frame s.tif).live (slotTif frame s.tif).delivered
    (slotStep frame s).2))) _ ho (fun _ h => h) (polls_deck (Q := fun _ _ x => x = Vector.ofFn (seatPaths s (slotTif frame s.tif).live
    (slotTif frame s.tif).delivered (slotStep frame s).2))).alarmFlag rfl

theorem seatSample_eq (i : SeatNo) {p : SeatPaths} (h : s.hmx.formed.get i = p) : (seatSample s i).toInt =
    if (s.scc.seats.get i).present && p.enabled then max (-32768) (min 32767
      ((p.commentary * (multiplier p.gc : Int) + 16384).fdiv 32768 + (p.announcement * (multiplier p.ga : Int) + 16384).fdiv 32768))
    else 0 := by
  subst h
  unfold seatSample
  dsimp only
  split
  · rw [mixPaths, toSample_toInt (by unfold saturate; omega) (by unfold saturate; omega), scale_eq_fdiv, scale_eq_fdiv]
    rfl
  · rfl

/-- The fading output that a seat hears by the previous map (R132). -/
def fadedInput (s : State) (outs : List VoiceOut) (i : SeatNo) : Int :=
  match s.vpl.prev.bind fun p => (p.map.get i).map fun e => (p.owner, e) with
  | some (owner, .voice v) =>
    if (s.vpl.voices.get v).owner = some owner then (match outs.getD v.val .silent with | .fading y => y | _ => 0) else 0
  | _ => 0

theorem announcementInput_eq (s : State) (outs : List VoiceOut) (talk : Sample) (i : SeatNo) :
    announcementInput s outs talk i =
      match s.vpl.rendering.bind fun r => r.map.get i with
      | some .talk => talk.toInt
      | some (.voice v) => (match outs.getD v.val .silent with | .playing y => y | _ => fadedInput s outs i)
      | _ => fadedInput s outs i := by
  have hfaded : ∀ n : Int, fadedInput s outs i = n → announcementInput s outs talk i =
      match s.vpl.rendering.bind fun r => r.map.get i with
      | some .talk => talk.toInt
      | some (.voice v) => (match outs.getD v.val .silent with | .playing y => y | _ => n)
      | _ => n := by
    rintro n rfl
    unfold announcementInput fadedInput outOf voiceOf
    cases s.vpl.prev with
    | none => rfl
    | some p =>
      simp only [Option.bind_some]
      cases p.map.get i with
      | none => rfl
      | some e => cases e <;> rfl
  exact hfaded _ rfl

/-- Settles O14: the paths formed at the slot's end, and what a box reply makes of them. -/
theorem seatHearsCommentary : Obligations.SeatHearsCommentary := by
  unfold Obligations.SeatHearsCommentary
  intro c ws frame order s i hr hslot ho
  refine ⟨_, slotStep frame s, exec_slot hr hslot, slotStep_step frame s, ?_⟩
  intro own live heard x gave faded a mixed
  obtain ⟨hlive, hheard⟩ := slotWith_live ho frame s
  have hx : x = streamSample (slotTif frame s.tif).delivered (streamFor s.scc.languages (slotTif frame s.tif).live own) := by
    rw [streamSample_eq, ← hlive, ← hheard]
    rfl
  have ha : a = announcementInput s (slotStep frame s).2 (slotTif frame s.tif).delivered.talk i := by
    rw [announcementInput_eq, ← hheard]
    rfl
  have hformed : (forward ws none (slotWith frame order s)).hmx.formed.get i =
      { commentary := x, announcement := a,
        gc := (s.hmx.gains.get i).gc, ga := (s.hmx.gains.get i).ga, enabled := (s.scc.seats.get i).enabled } := by
    have hpaths := congrArg (Vector.get · i) (slotWith_formed ho frame s)
    rw [hx, ha]
    exact hpaths.trans (Vector.get_ofFn _ _)
  generalize hg : (⟨x, a, (s.hmx.gains.get i).gc, (s.hmx.gains.get i).ga, (s.scc.seats.get i).enabled⟩ : SeatPaths) = p at hformed
  have hrunning : (forward ws none (slotWith frame order s)).power.running = true :=
    (congrArg Power.running (slotWith_outer frame order s).power).trans hr
  refine ⟨?_, fun reply u hu => ?_⟩
  · subst hg
    exact seatSample_eq i hformed
  intro plugged g
  have hreply : takeReply reply (forward ws none (slotWith frame order s)) = u :=
    Host.Outcome.next.inj ((whenRunning_running hrunning).symm.trans hu)
  have htaken := seatTaken_takeReply i reply (forward ws none (slotWith frame order s))
  rw [hreply] at htaken
  cases hp : (u.scc.seats.get i).present with
  | false =>
    rw [seatSample_eq i rfl, hp]
    rfl
  | true =>
    have hpaths := htaken hp
    cases hq : ((forward ws none (slotWith frame order s)).scc.seats.get i).present with
    | true =>
      have hunplugged : g = s.hmx.gains.get i := if_neg (by simp [plugged, hq])
      rw [if_pos hq, hformed, ← hg] at hpaths
      rw [seatSample_eq i hpaths, hp, hunplugged]
    | false =>
      have hplugged : g = u.hmx.gains.get i := if_pos (by simp [plugged, hq, hp])
      rw [if_neg (by simp [hq]), hformed, ← hg] at hpaths
      rw [seatSample_eq i hpaths, hp, hplugged]

end Sys2Proof.Proofs
end

section
/-! PROOFS. A tick, block by block, and all that a slot hands on. -/

namespace Sys2Proof.Proofs

open Sys2Proof Sys2Proof.Machine Sys2Proof.Laws

variable {c : Instr} {ws : TrunkWords} {frame : Option (Vector Word16 21)} {order : List SlotEvent} {s : State}

/-! ## The tick of one block -/

/-- A block that has taken its tick is no longer due it; the others stay. -/
def taken (b : TickBlock) (s : State) : Tif := { s.tif with tickFor := s.tif.tickFor.filter (· != b) }

theorem taken_none {b : TickBlock} (h : b ∉ s.tif.tickFor) : taken b s = s.tif := by
  have hf : s.tif.tickFor.filter (· != b) = s.tif.tickFor :=
    List.filter_eq_self.mpr fun x hx => bne_iff_ne.mpr fun hb => h (hb ▸ hx)
  rw [taken, hf]

theorem tickAt_hmx (s : State) : tickAt .hmx s =
    { s with tif := taken .hmx s, hmx := if .hmx ∈ s.tif.tickFor then (tickHmx s).hmx else s.hmx } := by
  by_cases h : TickBlock.hmx ∈ s.tif.tickFor
  · rw [tickAt_due h, if_pos h]
    rfl
  · rw [tickAt_none h, if_neg h, taken_none h]

/-- ZOU's zones at a tick of the given speed boost (R83). -/
def countZou (boost : Nat) (z : Zou) : Zou := { z with zones := mapTable (tickZone boost) z.zones }

theorem tickAt_zou (s : State) : tickAt .zou s =
    { s with
      tif := taken .zou s
      zou := if .zou ∈ s.tif.tickFor then countZou (speedBoost s.hmx.curve s.tif.drive.speed) s.zou else s.zou } := by
  by_cases h : TickBlock.zou ∈ s.tif.tickFor
  · rw [tickAt_due h, if_pos h]
    rfl
  · rw [tickAt_none h, if_neg h, taken_none h]

/-- The hang of a RELEASED TALK at a tick (R123). -/
def countHang (a : Announcement) : Announcement :=
  match a.source, a.hang with
  | .talk, .released n k => { a with hang := .released (min (n + 1) k) k }
  | _, _ => a

theorem tickHang_eq (s : State) : tickHang s = { s with asq := { s.asq with
    current := s.asq.current.map countHang, queue := s.asq.queue.map countHang } } := by
  have hcount : (fun a : Announcement => if isTalk a then { a with hang := match a.hang with
      | .pressed => .pressed | .released n k => .released (min (n + 1) k) k } else a) = countHang := by
    funext a
    obtain ⟨id, source, priority, mask, rendering, langs, stale, origin, arrival, resume, played, hang⟩ := a
    cases source <;> cases hang <;> rfl
  rw [← hcount]
  rfl

theorem tickAt_asq (s : State) : tickAt .asq s =
    { s with
      tif := taken .asq s
      asq := if .asq ∈ s.tif.tickFor then
          { s.asq with current := s.asq.current.map countHang, queue := s.asq.queue.map countHang }
        else s.asq } := by
  by_cases h : TickBlock.asq ∈ s.tif.tickFor
  · rw [tickAt_due h, if_pos h]
    exact tickHang_eq _
  · rw [tickAt_none h, if_neg h, taken_none h]

theorem tickAt_vpl (s : State) : tickAt .vpl s =
    { s with
      tif := taken .vpl s
      vpl := if .vpl ∈ s.tif.tickFor then { s.vpl with voices := mapTable tickVoice s.vpl.voices } else s.vpl } := by
  by_cases h : TickBlock.vpl ∈ s.tif.tickFor
  · rw [tickAt_due h, if_pos h]
    rfl
  · rw [tickAt_none h, if_neg h, taken_none h]

/-- The maintenance operation's count at a tick (R160). -/
def countMaint (m : Maint) : Maint := if m.stage = .pending then m else { m with ticks := min (m.ticks + 1) 3000 }

theorem tickCmp_eq (s : State) : tickCmp s = { s with cmp := { s.cmp with maint := s.cmp.maint.map countMaint } } := by
  obtain ⟨pending, power, tif, cth, scc, hmx, zou, rce, asq, vpl, ccc, ⟨fetch, maint⟩, lmc, dev, out⟩ := s
  cases maint with
  | none => rfl
  | some m =>
    simp only [tickCmp, Option.map_some, countMaint]
    split <;> rfl

theorem tickAt_cmp (s : State) : tickAt .cmp s =
    { s with tif := taken .cmp s, cmp := if .cmp ∈ s.tif.tickFor then { s.cmp with maint := s.cmp.maint.map countMaint } else s.cmp } := by
  by_cases h : TickBlock.cmp ∈ s.tif.tickFor
  · rw [tickAt_due h, if_pos h]
    exact tickCmp_eq _
  · rw [tickAt_none h, if_neg h, taken_none h]

/-- LMC's counts and scan position at a tick (R164, R180, R182, R184). -/
def countLmc (l : Lmc) : Lmc :=
  { l with
    ticks := l.ticks + 1,
    rampCount := if l.supply = .ramp then min (l.rampCount + 1) (l.rampKept + 500) else l.rampCount,
    releaseCount := if l.override = .releasing ∧ l.lineSource = false ∧ l.flagSource = false then
      min (l.releaseCount + 1) 100 else l.releaseCount,
    scanPos := if l.scanPos + 1 < l.scanRows then l.scanPos + 1 else 0,
    boundaryDue := l.boundaryDue || decide (l.scanRows ≤ l.scanPos + 1) }

theorem tickLmc_eq (s : State) : tickLmc s = driveRow { s with lmc := countLmc s.lmc } := by
  have hrelease : (s.lmc.override = .releasing && !s.lmc.lineSource && !s.lmc.flagSource) =
      decide (s.lmc.override = .releasing ∧ s.lmc.lineSource = false ∧ s.lmc.flagSource = false) := by
    cases s.lmc.lineSource <;> cases s.lmc.flagSource <;> simp
  unfold tickLmc advanceScan
  refine congrArg driveRow ?_
  by_cases h : s.lmc.scanRows ≤ s.lmc.scanPos + 1
  · rw [if_pos h, hrelease]
    simp only [countLmc, h, Nat.not_lt.mpr h, if_false, decide_true, Bool.or_true, decide_eq_true_eq]
    rfl
  · rw [if_neg h, hrelease]
    simp only [countLmc, h, Nat.not_le.mp h, if_true, decide_false, Bool.or_false, decide_eq_true_eq]
    rfl

/-- What LMC drives in a row: each cell with the shown level of its group (R165, R181). -/
def drivenCell (l : Lmc) (col : Fin 24) : Nat :=
  match (l.cells[l.scanPos * 24 + col.val]?).join with
  | none => 0
  | some g =>
    let x := l.groups.get g
    if l.supply ≠ .ready then 0
    else if l.override ≠ .clear then (if x.safety then 63 else 0)
    else if x.running = false ∨ x.ign = .waiting then 0 else x.level

theorem rowLevels_eq (s : State) : rowLevels s s.lmc.scanPos = Vector.ofFn (drivenCell s.lmc) := by
  refine congrArg Vector.ofFn (funext fun col => ?_)
  unfold drivenCell
  cases (s.lmc.cells[s.lmc.scanPos * 24 + col.val]?).join with
  | none => rfl
  | some g =>
    dsimp only
    unfold shownLevel groupOf
    dsimp only
    cases (s.lmc.groups.get g).running with
    | false => simp
    | true => simp

/-- The ports with the row that LMC drives (R165). -/
def drivenRow (l : Lmc) (x : Ports) : Ports := { x with row := some l.scanPos, columns := Vector.ofFn (drivenCell l) }

theorem driveRow_eq (s : State) : driveRow s = { s with out := drivenRow s.lmc s.out } := by
  rw [driveRow, rowLevels_eq]
  rfl

theorem tickAt_lmc (s : State) : tickAt .lmc s =
    { s with
      tif := taken .lmc s
      lmc := if .lmc ∈ s.tif.tickFor then countLmc s.lmc else s.lmc
      out := if .lmc ∈ s.tif.tickFor then drivenRow (countLmc s.lmc) s.out else s.out } := by
  by_cases h : TickBlock.lmc ∈ s.tif.tickFor
  · rw [tickAt_due h, if_pos h, if_pos h]
    exact (tickLmc_eq _).trans (driveRow_eq _)
  · rw [tickAt_none h, if_neg h, if_neg h, taken_none h]

/-- A tick of the blocks that are due it. -/
theorem tickEnds_eq (s : State) : tickEnds s =
    { s with
      tif := { s.tif with tickFor := [] }
      hmx := if .hmx ∈ s.tif.tickFor then (tickHmx s).hmx else s.hmx
      zou := if .zou ∈ s.tif.tickFor then countZou (speedBoost s.hmx.curve s.tif.drive.speed) s.zou else s.zou
      asq := if .asq ∈ s.tif.tickFor then
          { s.asq with current := s.asq.current.map countHang, queue := s.asq.queue.map countHang }
        else s.asq
      vpl := if .vpl ∈ s.tif.tickFor then { s.vpl with voices := mapTable tickVoice s.vpl.voices } else s.vpl
      cmp := if .cmp ∈ s.tif.tickFor then { s.cmp with maint := s.cmp.maint.map countMaint } else s.cmp
      lmc := if .lmc ∈ s.tif.tickFor then countLmc s.lmc else s.lmc
      out := if .lmc ∈ s.tif.tickFor then drivenRow (countLmc s.lmc) s.out else s.out } := by
  have hnone : (((((s.tif.tickFor.filter (· != .hmx)).filter (· != .zou)).filter (· != .asq)).filter (· != .vpl)).filter
      (· != .cmp)).filter (· != .lmc) = [] := List.filter_eq_nil_iff.mpr fun b hb => by
    cases b <;> simp at hb ⊢
  have hcurve : (if TickBlock.hmx ∈ s.tif.tickFor then (tickHmx s).hmx else s.hmx).curve = s.hmx.curve := by
    split <;> rfl
  simp only [tickEnds, tickBlocks, List.foldl_cons, List.foldl_nil, tickAt_hmx, tickAt_zou, tickAt_asq, tickAt_vpl, tickAt_cmp,
    tickAt_lmc, taken, List.mem_filter, bne_iff_ne, ne_eq, reduceCtorEq, not_false_eq_true, and_true, hnone, hcurve]

/-! ## Ticks -/

theorem holdIndex_toInt (lo : Nat) (x : Int) : (holdIndex lo x : Int) = min 121 (max (lo : Int) x) := by
  have hmute : Config.mute = 121 := rfl
  unfold holdIndex
  rw [hmute]
  omega

theorem ramp_steps (g h : Nat) : ramp g h = if g < h then min h (g + 4) else if h < g then max h (g - 1) else g := by
  unfold ramp
  split
  · rfl
  · split <;> omega

theorem tickVoice_eq (x : Voice) : tickVoice x =
    if x.state = .priming ∨ x.state = .starved then { x with stall := min (x.stall + 1) 2000 }
    else if x.state = .gap then { x with gap := min (x.gap + 1) x.gapKept }
    else x := by
  unfold tickVoice
  cases hx : x.state <;> rfl

theorem exec_tick_running (h : s.power.running = true) : exec .tick s = .next (tickEnds s) := by
  show Host.Outcome.next (tickAll s) = _
  rw [tickAll, if_pos h]

/-- Settles O17: a tick is the count of each block that is due it. -/
theorem tickActs : Obligations.TickActs := by
  unfold Obligations.TickActs
  intro s hr due
  refine ⟨fun hnone => by rw [exec_tick_running hr, tickEnds_none hnone], tickEnds s, exec_tick_running hr, ?_⟩
  rw [tickEnds_eq]
  refine ⟨rfl, ?_⟩
  intro S steps
  refine ⟨fun h => if_neg h, fun h => ?_, fun h => if_neg h, fun h => ?_, fun h => if_neg h, fun h => ?_, fun h => if_neg h, ?_,
    fun h => if_neg h, fun h => ?_, fun h => ⟨if_neg h, if_neg h⟩, fun h => ?_, rfl⟩
  · rw [if_pos h]
    refine ⟨rfl, rfl, fun i => ?_⟩
    have hget : (tickHmx s).hmx.gains.get i = _ := Vector.get_ofFn _ i
    intro r z g
    have hg : g = _ := hget
    rw [hg]
    exact ⟨holdIndex_toInt _ _, holdIndex_toInt _ _, ramp_steps _ _, ramp_steps _ _⟩
  · rw [if_pos h]
    refine ⟨rfl, fun z => ?_⟩
    have hget : (countZou (speedBoost s.hmx.curve s.tif.drive.speed) s.zou).zones.get z = _ := get_mapTable _ _ _
    intro x y
    have hy : y = _ := hget
    rw [hy]
    exact ⟨holdIndex_toInt _ _, holdIndex_toInt _ _, ramp_steps _ _, ramp_steps _ _, rfl⟩
  · rw [if_pos h]
    refine ⟨rfl, fun v => ?_⟩
    exact (get_mapTable _ _ _).trans (tickVoice_eq _)
  · intro h hung
    exact if_pos h
  · exact if_pos h
  · rw [if_pos h, if_pos h]
    exact ⟨rfl, rfl, fun col => Vector.get_ofFn _ col⟩

end Sys2Proof.Proofs
end

section
/-! PROOFS. All that a slot hands on, event by event in its order. -/

namespace Sys2Proof.Proofs

open Sys2Proof Sys2Proof.Machine Sys2Proof.Laws

variable {c : Instr} {ws : TrunkWords} {frame : Option (Vector Word16 21)} {order : List SlotEvent} {s : State} {new : Tif}

/-! ## An event of the chip beside the slot is the command it is by itself -/

theorem rowEffect_tick (h : s.power.running = true) : rowEffect .tick s = tickEnds s := by
  rw [rowEffect, exec_tick_running h]

theorem taken_due {b : TickBlock} {s : State} (b' : TickBlock) : b' ∈ (s.tif.tickFor.filter (· == b)) ↔ b' = b ∧ b ∈ s.tif.tickFor := by
  rw [List.mem_filter, beq_iff_eq]
  exact ⟨fun ⟨h, e⟩ => ⟨e, e ▸ h⟩, fun ⟨e, h⟩ => ⟨e ▸ h, e⟩⟩

/-- A block's tick is that of TICK with the tick due to that block alone (R5). -/
theorem eventEffect_tickAt (b : TickBlock) (h : s.power.running = true) : eventEffect (.tickAt b) s = tickAt b s := by
  have htick := rowEffect_tick (s := { s with tif := { s.tif with tickFor := s.tif.tickFor.filter (· == b) } }) h
  unfold eventEffect
  dsimp only
  rw [htick, tickEnds_eq]
  cases b
  · rw [tickAt_hmx]
    simp only [taken_due, reduceCtorEq, false_and, if_false, true_and]
    rfl
  · rw [tickAt_zou]
    simp only [taken_due, reduceCtorEq, false_and, if_false, true_and]
    rfl
  · rw [tickAt_asq]
    simp only [taken_due, reduceCtorEq, false_and, if_false, true_and]
    rfl
  · rw [tickAt_vpl]
    simp only [taken_due, reduceCtorEq, false_and, if_false, true_and]
    rfl
  · rw [tickAt_cmp]
    simp only [taken_due, reduceCtorEq, false_and, if_false, true_and]
    rfl
  · rw [tickAt_lmc]
    simp only [taken_due, reduceCtorEq, false_and, if_false, true_and]
    rfl

/-- Past warm-up an event of the chip acts as its command. -/
theorem eventEffect_eq (e : EndEvent) (h : s.power.running = true) : eventEffect e s = takeEvent e s := by
  have hrow : ∀ x, eventOfCommand (rowOf x) = some x → eventEffect x s = rowEffect (rowOf x) s →
      eventEffect x s = takeEvent x s := fun x hx hrow => by
    rw [hrow, rowEffect, exec_event hx, whenRunning_running h]
  cases e
  case tickAt b => exact eventEffect_tickAt b h
  case tick => exact rowEffect_tick h
  case memoryReady =>
    show rowEffect .memoryReady s = memoryReady s
    have hready : exec .memoryReady s = .next (memoryReady s) := by
      show Host.Outcome.next (if s.power.running then memoryReady s else finishDevice s) = _
      rw [if_pos h]
    rw [rowEffect, hready]
  all_goals exact hrow _ rfl rfl

/-! ## The state from which the events go on -/

theorem calm_slotStep (frame : Option (Vector Word16 21)) (hs : PortSettled s) :
    Calm (sendReturn (slotTif frame s.tif).counter (turnOffered s.tif (slotTif frame s.tif)) s) (slotStep frame s).1 :=
  keep_playVoices (calm_closed _) _ (Calm.refl (settled_of_cmp hs (sendReturn_cmp _ _ s)))

theorem sendReturn_cth (n : Byte) (s : State) : (sendReturn n (turnOffered s.tif new) s).cth =
    if s.tif.trunk = .locked ∧ new.trunk = .locked ∧ n.toNat % 4 = s.tif.node.toNat then (returnTurn s).1.cth else s.cth := by
  unfold sendReturn
  dsimp only
  by_cases hown : n.toNat % 4 = s.tif.node.toNat
  · by_cases hoff : s.tif.trunk = .locked ∧ new.trunk = .locked
    · simp [ownTurn, turnOffered, hown, hoff]
    · have hoffered : turnOffered s.tif new = false := by simpa [turnOffered] using hoff
      simp [ownTurn, hown, hoffered, hoff]
  · simp [ownTurn, hown]

theorem periodStart_eq (frame : Option (Vector Word16 21)) (s : State) :
    periodStart (slotTif frame s.tif) (turnOffered s.tif (slotTif frame s.tif)) s =
      { (slotStep frame s).1 with
        tif := countStart { slotTif frame s.tif with downstream := none, drive := withRouteFields (slotTif frame s.tif).drive s.tif.drive }
        scc := { (slotStep frame s).1.scc with poll := s.scc.poll + 1, awaited := some s.scc.poll }
        hmx := { (slotStep frame s).1.hmx with
          formed := Vector.ofFn (seatPaths s (slotTif frame s.tif).live (slotTif frame s.tif).delivered (slotStep frame s).2) }
        out := { (slotStep frame s).1.out with
          channels := channelSamples s (slotTif frame s.tif).live (slotTif frame s.tif).delivered (slotStep frame s).2 } } := by
  simp only [periodStart, slotStep]

theorem foldl_congr_running {f g : State → SlotEvent → State} (hfg : ∀ s e, s.power.running = true → f s e = g s e)
    (hkeep : ∀ s e, s.power.running = true → (g s e).power.running = true) :
    ∀ (l : List SlotEvent) (s : State), s.power.running = true → l.foldl f s = l.foldl g s
  | [], _, _ => rfl
  | e :: l, s, h => by
    rw [List.foldl_cons, List.foldl_cons, hfg s e h]
    exact foldl_congr_running hfg hkeep l _ (hkeep s e h)

/-- What an event of the slot end does, by TIF's records before and after the slot. -/
def handed (frame : Option (Vector Word16 21)) (old new : Tif) (waits : CueOwner → Bool) (x : State) : SlotEvent → State
  | .voice v => followSample v x
  | .trunkNotice =>
    if old.trunk = .locked ∧ new.trunk = .lost then pushNotice .trunkLost x
    else if old.trunk = .lost ∧ new.trunk = .locked then pushNotice .trunkRegained x
    else x
  | .control => match frame with
    | some f => if new.trunk = .locked then
        takeDue waits (takeSlot
          { b0 := (f.get 18).extractLsb' 8 8, b1 := (f.get 18).extractLsb' 0 8,
            b2 := (f.get 19).extractLsb' 8 8, b3 := (f.get 19).extractLsb' 0 8 } x) else x
    | none => if old.trunk = .locked then { x with cth := { x.cth with assembly := none } } else x
  | .route =>
    let y : State := { x with tif := { x.tif with drive := { x.tif.drive with
      odometer := new.drive.odometer, odoValid := new.drive.odoValid, tag := new.drive.tag } } }
    takeDue waits (if old.drive.odometer = new.drive.odometer ∧ old.drive.odoValid = new.drive.odoValid ∧
        old.drive.tag = new.drive.tag ∧ old.trunk = new.trunk then y else routeChange y)
  | .talk =>
    if old.drive.talk = false ∧ new.drive.talk = true ∧ old.trunk ≠ .seeking then talkRise x
    else if old.drive.talk = true ∧ new.drive.talk = false then talkFall x
    else x
  | .alarm =>
    if old.drive.alarm = new.drive.alarm then x
    else overrideEvent { x with lmc := { x.lmc with flagSource := new.drive.alarm } }
  | .delivery b => takeNext b x
  | .also e => eventEffect e x

/-- Past warm-up an event of a slot end does what its block and its command say. -/
theorem handed_eq (frame : Option (Vector Word16 21)) (old : Tif) {waits held : CueOwner → Bool} (hw : waits = held) (x : State)
    (e : SlotEvent) (hr : x.power.running = true) : handed frame old (slotTif frame old) waits x e =
      slotEvent old (slotTif frame old) (slotControl frame old) held x e := by
  subst hw
  cases e with
  | voice v => rfl
  | trunkNotice => rfl
  | control =>
    cases frame with
    | some f =>
      by_cases h : (slotTif (some f) old).trunk = .locked
      · have hc : slotControl (some f) old = .slot (slotWords (f.get 18) (f.get 19)) := if_pos h
        rw [hc]
        exact if_pos h
      · have hc : slotControl (some f) old = .nothing := if_neg h
        rw [hc]
        exact if_neg h
    | none =>
      by_cases h : old.trunk = .locked
      · have hc : slotControl none old = .discard := if_pos h
        rw [hc]
        exact if_pos h
      · have hc : slotControl none old = .nothing := if_neg h
        rw [hc]
        exact if_neg h
  | route =>
    show takeDue waits (if _ then _ else _) = takeDue waits (if _ then _ else _)
    simp only [routeFields, Prod.mk.injEq]
    rfl
  | talk =>
    show (if _ then _ else _) = (if _ then _ else _)
    cases old.drive.talk <;> cases (slotTif frame old).drive.talk <;> simp
  | alarm => rfl
  | delivery b => rfl
  | also e => exact eventEffect_eq e hr

theorem slotEvent_running {old new : Tif} {ce : ControlEvent} {waits : CueOwner → Bool} (x : State) (e : SlotEvent)
    (h : x.power.running = true) : (slotEvent old new ce waits x e).power.running = true :=
  (congrArg Power.running ((outer_closed x).slotEvent old new ce waits e x (Outer.refl x)).power).trans h

theorem slotStep_outer (frame : Option (Vector Word16 21)) (s : State) : Outer s (slotStep frame s).1 :=
  keep_playVoices (outer_closed s).deck.toVoiceClosed _ ((outer_closed s).sendReturn _ _ s (Outer.refl s))

theorem periodStart_running (frame : Option (Vector Word16 21)) (hr : s.power.running = true) :
    (periodStart (slotTif frame s.tif) (turnOffered s.tif (slotTif frame s.tif)) s).power.running = true := by
  have houter := slotStep_outer frame s
  rw [periodStart_eq]
  generalize slotStep frame s = step at houter ⊢
  exact (congrArg Power.running houter.power).trans hr

/-- The blocks at the start of a slot's events, where no maintenance operation waits with the port READY. -/
theorem periodStart_blocks (frame : Option (Vector Word16 21)) (hs : PortSettled s) {u : State}
    (hu : u = periodStart (slotTif frame s.tif) (turnOffered s.tif (slotTif frame s.tif)) s) :
    u.tif = countStart { slotTif frame s.tif with downstream := none, drive := withRouteFields (slotTif frame s.tif).drive s.tif.drive } ∧
      u.cth = (if s.tif.trunk = .locked ∧ (slotTif frame s.tif).trunk = .locked ∧
          (slotTif frame s.tif).counter.toNat % 4 = s.tif.node.toNat then (returnTurn s).1.cth else s.cth) ∧
      u.asq = (slotStep frame s).1.asq ∧ u.vpl = (slotStep frame s).1.vpl ∧ u.ccc = (slotStep frame s).1.ccc ∧
      u.cmp = (slotStep frame s).1.cmp ∧ u.scc = { s.scc with poll := s.scc.poll + 1, awaited := some s.scc.poll } ∧
      u.hmx = { s.hmx with formed := u.hmx.formed } ∧
      { u with tif := s.tif, cth := s.cth, scc := s.scc, hmx := s.hmx, asq := s.asq, vpl := s.vpl, ccc := s.ccc,
               cmp := s.cmp, out := s.out } = s := by
  obtain ⟨hsettled, hframe⟩ := calm_slotStep frame hs
  obtain ⟨hrest, _⟩ := sendReturn_rest (slotTif frame s.tif).counter (turnOffered s.tif (slotTif frame s.tif)) s
  have hcth := sendReturn_cth (new := slotTif frame s.tif) (slotTif frame s.tif).counter s
  rw [periodStart_eq] at hu
  generalize slotStep frame s = step at hframe hu ⊢
  generalize sendReturn (slotTif frame s.tif).counter (turnOffered s.tif (slotTif frame s.tif)) s = sent at hframe hrest hcth
  subst hu
  have hsentScc : sent.scc = s.scc := (congrArg State.scc hrest :)
  have hsentHmx : sent.hmx = s.hmx := (congrArg State.hmx hrest :)
  have hsent : { sent with
      tif := s.tif, cth := s.cth, scc := s.scc, hmx := s.hmx, asq := s.asq, vpl := s.vpl, ccc := s.ccc, cmp := s.cmp,
      out := s.out } = s :=
    congrArg (fun x : State => { x with
      tif := s.tif, cth := s.cth, scc := s.scc, hmx := s.hmx, asq := s.asq, vpl := s.vpl, ccc := s.ccc, cmp := s.cmp,
      out := s.out }) hrest
  have hscc : step.1.scc = s.scc := (congrArg State.scc hframe).trans hsentScc
  have hhmx : step.1.hmx = s.hmx := (congrArg State.hmx hframe).trans hsentHmx
  refine ⟨rfl, (congrArg State.cth hframe).trans hcth, rfl, rfl, rfl, rfl, ?_, ?_,
    (congrArg (fun x : State => { x with
      tif := s.tif, cth := s.cth, scc := s.scc, hmx := s.hmx, asq := s.asq, vpl := s.vpl, ccc := s.ccc, cmp := s.cmp,
      out := s.out }) hframe).trans hsent⟩
  · exact congrArg (fun x : Scc => { x with poll := s.scc.poll + 1, awaited := some s.scc.poll }) hscc
  · exact congrArg (fun x : Hmx => { x with
      formed := Vector.ofFn (seatPaths s (slotTif frame s.tif).live (slotTif frame s.tif).delivered step.2) }) hhmx

theorem slotTif_counts (frame : Option (Vector Word16 21)) (t : Tif) :
    (slotTif frame t).periodStarts = t.periodStarts ∧ (slotTif frame t).tickFor = t.tickFor := by
  cases frame with
  | some f =>
    unfold slotTif validTif
    dsimp only
    split
    · exact ⟨rfl, rfl⟩
    · split <;> exact ⟨rfl, rfl⟩
  | none =>
    unfold slotTif invalidTif
    dsimp only
    split
    · split <;> exact ⟨rfl, rfl⟩
    · exact ⟨rfl, rfl⟩

/-- Settles O10: the events of the slot's end are those of the order, then the own ones that it leaves out, each by its block. -/
theorem slotHandsEventsOn : Obligations.SlotHandsEventsOn := by
  unfold Obligations.SlotHandsEventsOn
  intro c ws frame order s hr hslot hs hnodup own events waits old new starts act
  have hfold := foldl_congr_running (handed_eq frame s.tif (waits := waits)
    (held := fun b => order.contains (.delivery b)) (funext fun b => (List.contains_eq_mem _ _).symm))
    (fun x e h => slotEvent_running x e h) (fullOrder order) _ (periodStart_running frame hr)
  have hexec := exec_slot hr hslot
  rw [slotWith_eq, takeEvents, ← hfold, fullOrder_append hnodup] at hexec
  obtain ⟨htif, hblocks⟩ := periodStart_blocks frame hs rfl
  obtain ⟨hstarts, htickFor⟩ := slotTif_counts frame s.tif
  rw [countStart, hstarts, htickFor] at htif
  generalize periodStart (slotTif frame s.tif) (turnOffered s.tif (slotTif frame s.tif)) s = u at hexec htif hblocks
  exact ⟨u, slotStep frame s, slotStep_step frame s, hexec, htif, hblocks⟩

end Sys2Proof.Proofs
end

section
/-! PROOFS. Box replies and the stop-request latch: the seats of a box, jack by jack. -/

namespace Sys2Proof.Proofs

open Sys2Proof Sys2Proof.Machine Sys2Proof.Laws

variable {P : State → Prop} {s : State}

/-! ## The jacks of a good reply -/

/-- A seat after its jack's sense: plugged in or unplugged where it equals the last one (R47 to R49). -/
def pluggedSeat (s : State) (y : Seat) (last now : Bool) : Seat :=
  if last = true ∧ now = true ∧ y.present = false then
    { y with present := true, volume := y.defVolume, lang := plugLang s y.zone }
  else if last = false ∧ now = false ∧ y.present = true then { y with present := false }
  else y

/-- The targets of a seat that is plugged in: those of its default volume (R62, R66). -/
def plugTargets (s : State) (y : Seat) : Nat × Nat :=
  let z := s.zou.zones.get y.zone
  (commentaryTarget y.defVolume y.cap s.hmx.boost z.boost z.duck, announcementTarget y.defVolume y.cap s.hmx.boost z.boost s.cth.settings.trim)

/-- The applied indexes of a seat that its jack's sense plugs in jump to their targets (R66). -/
def pluggedGains (s : State) (y : Seat) (last now : Bool) (g : SeatGain) : SeatGain :=
  if y.present = false ∧ last = true ∧ now = true then
    { tc := (plugTargets s y).1, ta := (plugTargets s y).2, gc := (plugTargets s y).1, ga := (plugTargets s y).2 }
  else g

/-- So do those of its paths of the period (R72). -/
def pluggedPaths (s : State) (y : Seat) (last now : Bool) (p : SeatPaths) : SeatPaths :=
  if y.present = false ∧ last = true ∧ now = true then { p with gc := (plugTargets s y).1, ga := (plugTargets s y).2 } else p

/-- Seats, gains and paths written of one seat. -/
def writeSeat (j : SeatNo) (y : Seat) (g : SeatGain) (p : SeatPaths) (s : State) : State :=
  { s with
    scc := { s.scc with seats := put s.scc.seats j y }
    hmx := { s.hmx with gains := put s.hmx.gains j g, formed := put s.hmx.formed j p } }

theorem writeSeat_id (j : SeatNo) (s : State) :
    writeSeat j (s.scc.seats.get j) (s.hmx.gains.get j) (s.hmx.formed.get j) s = s := by
  simp only [writeSeat, put_get]

theorem plugIn_eq (j : SeatNo) (s : State) {y : Seat} (hy : s.scc.seats.get j = y) : plugIn j s = writeSeat j
    { y with present := true, volume := y.defVolume, lang := plugLang s y.zone }
    { tc := (plugTargets s y).1, ta := (plugTargets s y).2, gc := (plugTargets s y).1, ga := (plugTargets s y).2 }
    { s.hmx.formed.get j with gc := (plugTargets s y).1, ga := (plugTargets s y).2 } s := by
  have ht : seatTargets (setSeat j { y with present := true, lang := plugLang s y.zone, volume := y.defVolume } s) s.hmx.boost j =
      plugTargets s y := by
    simp only [seatTargets, setSeat, get_put_same]
    rfl
  subst hy
  rw [plugIn, snapSeat]
  simp only [setSeat_hmx, adjust_eq, seatOf] at ht ⊢
  rw [ht]
  rfl

theorem senseJack_eq (j : SeatNo) (last now : Bool) (s : State) : senseJack j last now s =
    writeSeat j (pluggedSeat s (s.scc.seats.get j) last now) (pluggedGains s (s.scc.seats.get j) last now (s.hmx.gains.get j))
      (pluggedPaths s (s.scc.seats.get j) last now (s.hmx.formed.get j)) s := by
  generalize hy : s.scc.seats.get j = y
  have hid : writeSeat j y (s.hmx.gains.get j) (s.hmx.formed.get j) s = s := hy ▸ writeSeat_id j s
  have hunplug : unplug j s = writeSeat j { y with present := false } (s.hmx.gains.get j) (s.hmx.formed.get j) s := by
    subst hy
    simp only [writeSeat, put_get]
    rfl
  have hseat : seatOf s j = y := hy
  rw [senseJack, hseat, plugIn_eq j s hy, hunplug]
  cases last <;> cases now <;> cases hp : y.present <;> simp [pluggedSeat, pluggedGains, pluggedPaths, hp, hid]

/-! ## Presses -/

theorem advanceLang_eq (offered : List Lang) (l : Lang) : advanceLang offered l = nextLang offered l := by
  unfold advanceLang nextLang
  rw [← List.head?_filter]
  cases hf : offered.filter fun k => decide (l < k) with
  | nil => simp
  | cons x xs => simp

theorem advanceTimes_eq (offered : List Lang) (w : BitVec 2) (l : Lang) : advanceTimes offered w.toNat l =
    match w.toNat with
    | 0 => l
    | 1 => nextLang offered l
    | 2 => nextLang offered (nextLang offered l)
    | _ => nextLang offered (nextLang offered (nextLang offered l)) := by
  have hw := w.isLt
  generalize w.toNat = n at hw
  interval_cases n <;> simp only [advanceTimes, advanceLang_eq]

theorem pressSeat_eq (j : SeatNo) (w : Word16) (lo : Nat) (s : State) :
    pressSeat j (field2 w lo) (field2 w (lo + 2)) (field2 w (lo + 4)) s =
      { s with scc := { s.scc with seats := put s.scc.seats j (pressedSeat (offeredLangs s) w lo (s.scc.seats.get j)) } } := by
  unfold pressSeat pressedSeat
  by_cases h : (s.scc.seats.get j).enabled = true ∧ (s.scc.seats.get j).present = true
  · rw [if_pos h]
    refine (if_pos (by simpa [seatOf] using h)).trans ?_
    rw [field2, advanceTimes_eq]
    rfl
  · rw [if_neg h, put_get]
    exact if_neg (by simpa [seatOf] using h)

theorem pressJack_quiet (j : SeatNo) {w : Word16} {lo : Nat} (h : w.getLsbD (lo + 6) = false) (s : State) :
    pressJack j w lo s =
      { s with scc := { s.scc with seats := put s.scc.seats j (pressedSeat (offeredLangs s) w lo (s.scc.seats.get j)) } } := by
  rw [← pressSeat_eq]
  exact if_neg (by simp [h])

theorem pressJack_stop (j : SeatNo) {w : Word16} {lo : Nat} (h : w.getLsbD (lo + 6) = true) (s : State) :
    pressJack j w lo s = stopPress j
      { s with scc := { s.scc with seats := put s.scc.seats j (pressedSeat (offeredLangs s) w lo (s.scc.seats.get j)) } } := by
  rw [← pressSeat_eq]
  exact if_pos h

/-! ## The reply -/

/-- A good reply up to its presses. -/
def sensed (b : BoxNo) (r : Vector Word16 3) (s : State) : State :=
  let x := boxOf s b
  let s1 := setBox b { online := true, miss := 0, senseA := (r.get 0).getLsbD 5, senseB := (r.get 0).getLsbD 6 }
    { s with scc := { s.scc with awaited := none } }
  let s2 := if x.online then s1 else pushNotice (.boxState b true) s1
  senseJack (seatB b) x.senseB ((r.get 0).getLsbD 6) (senseJack (seatA b) x.senseA ((r.get 0).getLsbD 5) s2)

theorem exec_boxReply {b : BoxNo} (hr : s.power.running = true) (ha : s.scc.awaited = some b) (reply : Option (Vector Word16 3)) :
    exec (.boxReply reply) s = .next (match reply with
      | some r => if goodReply b r then takeGood b r { s with scc := { s.scc with awaited := none } }
          else takeMiss b { s with scc := { s.scc with awaited := none } }
      | none => takeMiss b { s with scc := { s.scc with awaited := none } }) := by
  refine (whenRunning_running hr).trans (congrArg _ ?_)
  show takeReply reply s = _
  cases reply <;> simp only [takeReply, ha]

theorem goodReply_iff (b : BoxNo) (r : Vector Word16 3) : goodReply b r = true ↔
    (r.get 0).extractLsb' 8 8 = 0x3C ∧ r.get 2 = r.get 0 + r.get 1 ∧ ((r.get 0).extractLsb' 0 5).toNat = b.val := by
  simp only [goodReply, Bool.and_eq_true, beq_iff_eq, and_assoc]
  rfl

theorem exec_goodReply {b : BoxNo} {r : Vector Word16 3} (hr : s.power.running = true) (ha : s.scc.awaited = some b)
    (hmark : (r.get 0).extractLsb' 8 8 = 0x3C) (hcheck : r.get 2 = r.get 0 + r.get 1)
    (hbox : ((r.get 0).extractLsb' 0 5).toNat = b.val) :
    exec (.boxReply (some r)) s = .next (pressJack (seatB b) (r.get 1) 8 (pressJack (seatA b) (r.get 1) 0 (sensed b r s))) := by
  rw [exec_boxReply hr ha]
  exact congrArg _ (if_pos ((goodReply_iff b r).mpr ⟨hmark, hcheck, hbox⟩))

/-! ## Replies that differ in their presses -/

theorem sensed_congr {r q : Vector Word16 3} (h : q.get 0 = r.get 0) (b : BoxNo) (s : State) : sensed b q s = sensed b r s := by
  rw [sensed, sensed, h]

theorem pressedSeat_congr {offered : List Lang} {w v : Word16} {lo : Nat} (h : w.extractLsb' lo 6 = v.extractLsb' lo 6) (x : Seat) :
    pressedSeat offered w lo x = pressedSeat offered v lo x := by
  have hfield : ∀ n, n + 2 ≤ 6 → w.extractLsb' (lo + n) 2 = v.extractLsb' (lo + n) 2 := fun n hn => by
    have hsub : ∀ u : Word16, u.extractLsb' (lo + n) 2 = (u.extractLsb' lo 6).extractLsb' n 2 := fun u => by
      ext i hi
      simp only [BitVec.getElem_extractLsb', BitVec.getLsbD_extractLsb']
      simp [show n + i < 6 by omega, Nat.add_assoc]
    rw [hsub, hsub, h]
  simp only [pressedSeat, hfield 0 (by decide), hfield 2 (by decide), hfield 4 (by decide)]

theorem languages_kept (x : Vector Language 12) : AsqClosed fun t => t.scc.languages = x where
  toCacheClosed := cacheClosed_of (fun _ _ _ h => h) (fun _ _ h => h) fun _ _ h => h
  vpl := fun _ _ h => h
  report := fun _ _ h => h
  toLampClosed := lampClosed_of fun _ _ _ h => h
  notice := fun n t h => (congrArg Scc.languages (pushNotice_scc n t)).trans h
  zou := fun _ _ h => h
  asq := fun _ _ h => h

theorem stopPress_languages (j : SeatNo) (s : State) : (stopPress j s).scc.languages = s.scc.languages := by
  have c := languages_kept s.scc.languages
  unfold stopPress
  dsimp only
  split
  · rfl
  · split
    · rfl
    · exact keep_lampStopRequest c.toLampClosed _ (keep_requestChime c _ (c.notice _ _ rfl))

theorem offered_congr {t : State} (h : t.scc.languages = s.scc.languages) : offeredLangs t = offeredLangs s := by
  rw [offeredLangs, offeredLangs, h]

theorem sensed_languages (b : BoxNo) (r : Vector Word16 3) (s : State) : (sensed b r s).scc.languages = s.scc.languages := by
  rw [sensed, senseJack_eq, senseJack_eq]
  simp only [writeSeat]
  split
  · rfl
  · exact (languages_kept s.scc.languages).notice _ _ rfl

theorem pressJack_congr (j : SeatNo) {w v : Word16} {lo : Nat} (h : w.extractLsb' lo 6 = v.extractLsb' lo 6)
    (hb : w.getLsbD (lo + 6) = v.getLsbD (lo + 6)) (s : State) : pressJack j w lo s = pressJack j v lo s := by
  have hseats : ∀ x, pressedSeat (offeredLangs s) w lo x = pressedSeat (offeredLangs s) v lo x := pressedSeat_congr h
  cases hv : v.getLsbD (lo + 6) with
  | false => rw [pressJack_quiet j (hb.trans hv), pressJack_quiet j hv, hseats]
  | true => rw [pressJack_stop j (hb.trans hv), pressJack_stop j hv, hseats]

/-- No press leaves a seat whose volume is in range. -/
theorem pressedSeat_none {offered : List Lang} {w : Word16} {lo : Nat} (h : w.extractLsb' lo 6 = 0) {x : Seat} (hv : x.volume ≤ 15) :
    pressedSeat offered w lo x = x := by
  have hzero : (0 : Word16).extractLsb' lo 6 = 0 := by simp
  rw [pressedSeat_congr (h.trans hzero.symm)]
  have hfield : ∀ n, ((0 : Word16).extractLsb' (lo + n) 2).toNat = 0 := by simp
  unfold pressedSeat
  have hlang : ((0 : Word16).extractLsb' lo 2).toNat = 0 := hfield 0
  simp only [hlang, hfield, Nat.add_zero, Nat.sub_zero, Nat.min_eq_right hv]
  split <;> rfl

/-- The seats of a box after its jacks' senses keep their volumes in range. -/
theorem sensed_volume (b : BoxNo) (r : Vector Word16 3) (s : State) (hv : (s.scc.seats.get (seatB b)).volume ≤ 15)
    (hd : (s.scc.seats.get (seatB b)).defVolume ≤ 15) : ((sensed b r s).scc.seats.get (seatB b)).volume ≤ 15 := by
  have hplugged : ∀ (t : State) (y : Seat) last now, y.volume ≤ 15 → y.defVolume ≤ 15 → (pluggedSeat t y last now).volume ≤ 15 := by
    intro t y last now hy hdef
    unfold pluggedSeat
    split
    · exact hdef
    · split <;> exact hy
  have hbox : ∀ x n, (if (boxOf s b).online then setBox b x { s with scc := { s.scc with awaited := none } }
      else pushNotice n (setBox b x { s with scc := { s.scc with awaited := none } })).scc.seats = s.scc.seats := by
    intro x n
    split
    · rfl
    · rw [pushNotice_scc]
      rfl
  rw [sensed, senseJack_eq]
  simp only [writeSeat, get_put_same]
  rw [senseJack_eq]
  simp only [writeSeat, get_put_ne _ _ (seatA_ne_seatB b).symm, hbox]
  exact hplugged _ _ _ _ hv hd

/-- Settles O38: a stop press follows the presses of its own jack, and where the other jack has none its own. -/
theorem stopLatchActs : Obligations.StopLatchActs := by
  unfold Obligations.StopLatchActs
  refine ⟨fun bc s ht => ⟨fun hl => ?_, fun hl => ?_⟩, fun i s => ?_, ?_⟩
  · refine exec_action_done ht rfl ?_
    show doneWith (clearLatch s) = _
    simp only [clearLatch, hl]
    rfl
  · refine exec_action_done ht rfl ?_
    obtain ⟨j, hj⟩ := Option.ne_none_iff_exists'.mp hl
    show doneWith (clearLatch s) = _
    simp only [clearLatch, hj, lampStopEnd_eq, Bool.and_eq_true, beq_iff_eq]
    rfl
  · intro x marked
    refine ⟨fun he => ?_, fun he j hj => ?_, fun he hl => ?_⟩
    · exact if_pos (by simpa [seatOf] using he)
    · refine (if_neg (by simpa [seatOf] using he)).trans ?_
      simp only [hj]
      rfl
    · refine (if_neg (by simpa [seatOf] using he)).trans ?_
      simp only [hl, lampStopRequest_eq, beq_iff_eq]
      rfl
  intro r q b s hr ha hmark hbox hzero hrcheck hqcheck
  have hexec := exec_goodReply hr ha hmark hrcheck hbox
  have hq := exec_goodReply (r := q) hr ha (hzero ▸ hmark) hqcheck (hzero ▸ hbox)
  rw [sensed_congr hzero b s] at hq
  refine ⟨fun hword hquiet => ⟨_, hq, ?_⟩, fun hlow hA hB hsmall => ?_⟩
  · have hfields : ∀ lo, ((0x4000 : Word16).extractLsb' lo 6 = 0) → (r.get 1).extractLsb' lo 6 = (q.get 1).extractLsb' lo 6 := by
      intro lo hlo
      rw [hword, BitVec.extractLsb'_or, hlo]
      exact BitVec.or_zero
    have hbit : (r.get 1).getLsbD (0 + 6) = (q.get 1).getLsbD (0 + 6) := by
      rw [hword, BitVec.getLsbD_or]
      exact Bool.or_false _
    have hstop : (r.get 1).getLsbD (8 + 6) = true := by
      rw [hword, BitVec.getLsbD_or]
      exact Bool.or_true _
    rw [hexec, pressJack_congr _ (hfields 0 (by decide)) hbit, pressJack_stop _ hstop, pressJack_quiet (seatB b) hquiet,
      pressedSeat_congr (hfields 8 (by decide))]
    rfl
  · intro other hv hd offered
    have hqA : (q.get 1).getLsbD (0 + 6) = false := by
      rw [← BitVec.testBit_toNat]
      exact Nat.testBit_lt_two_pow hsmall
    have hqB : (q.get 1).getLsbD (8 + 6) = false := by
      rw [← BitVec.testBit_toNat]
      exact Nat.testBit_lt_two_pow (hsmall.trans (by decide))
    have hnone : (q.get 1).extractLsb' 8 6 = 0 := by
      apply BitVec.eq_of_toNat_eq
      rw [BitVec.extractLsb'_toNat, Nat.shiftRight_eq_div_pow, Nat.div_eq_of_lt (hsmall.trans (by decide))]
      rfl
    have hvolume := sensed_volume b r s hv hd
    have hlangs := sensed_languages b r s
    generalize sensed b r s = t at hexec hq hvolume hlangs
    have hu : pressJack (seatB b) (q.get 1) 8 (pressJack (seatA b) (q.get 1) 0 t) = pressJack (seatA b) (q.get 1) 0 t := by
      have hother : (pressJack (seatA b) (q.get 1) 0 t).scc.seats.get (seatB b) = t.scc.seats.get (seatB b) := by
        rw [pressJack_quiet _ hqA]
        exact get_put_ne _ _ (seatA_ne_seatB b).symm
      rw [pressJack_quiet _ hqB, pressedSeat_none hnone (hother ▸ hvolume), put_get]
    rw [hu] at hq
    refine ⟨_, hq, ?_⟩
    have hoffered : offeredLangs (stopPress (seatA b) (pressJack (seatA b) (q.get 1) 0 t)) = offered := by
      rw [offered_congr (stopPress_languages _ _), pressJack_quiet _ hqA]
      exact offered_congr hlangs
    rw [hexec, pressJack_quiet _ hB, pressJack_stop _ hA, pressedSeat_congr hlow, ← pressJack_quiet _ hqA, hoffered]
    rfl

end Sys2Proof.Proofs
end

section
/-! PROOFS. The reply of the polled box: a miss, or a good one taken seat by seat. -/

namespace Sys2Proof.Proofs

open Sys2Proof Sys2Proof.Machine Sys2Proof.Laws

variable {s : State}

/-! ## Misses -/

theorem pushNotice_withScc (n : Notice) (x : Scc) (s : State) : pushNotice n { s with scc := x } = { pushNotice n s with scc := x } := by
  unfold pushNotice
  dsimp only
  split <;> rfl

theorem seats_of_box (b : BoxNo) (i : SeatNo) : (i = seatA b ↔ i.val = 2 * b.val) ∧ (i = seatB b ↔ i.val = 2 * b.val + 1) :=
  ⟨Fin.ext_iff, Fin.ext_iff⟩

/-- The seats of a box are unplugged (R49). -/
theorem unplug_both (b : BoxNo) (s : State) : unplug (seatB b) (unplug (seatA b) s) = { s with scc := { s.scc with
    seats := Vector.ofFn fun i =>
      if i.val = 2 * b.val ∨ i.val = 2 * b.val + 1 then { s.scc.seats.get i with present := false } else s.scc.seats.get i } } := by
  have hseats : put (put s.scc.seats (seatA b) { s.scc.seats.get (seatA b) with present := false }) (seatB b)
      { s.scc.seats.get (seatB b) with present := false } = Vector.ofFn fun i =>
        if i.val = 2 * b.val ∨ i.val = 2 * b.val + 1 then { s.scc.seats.get i with present := false } else s.scc.seats.get i := by
    apply table_ext
    intro i
    obtain ⟨hA, hB⟩ := seats_of_box b i
    rw [get_ofFn, get_put, get_put]
    by_cases hb : i = seatB b
    · rw [if_pos hb, if_pos (.inr (hB.mp hb)), hb]
    · by_cases ha : i = seatA b
      · rw [if_neg hb, if_pos ha, if_pos (.inl (hA.mp ha)), ha]
      · rw [if_neg hb, if_neg ha, if_neg (not_or.mpr ⟨fun h => ha (hA.mpr h), fun h => hb (hB.mpr h)⟩)]
  simp only [unplug, seatOf, setSeat, get_put_ne _ _ (seatA_ne_seatB b).symm, hseats]

/-- The box is not answered, or by no good reply: a miss. -/
theorem exec_missedReply {b : BoxNo} (hr : s.power.running = true) (ha : s.scc.awaited = some b) {reply : Option (Vector Word16 3)}
    (hbad : ∀ r, reply = some r → ¬goodReply b r = true) :
    exec (.boxReply reply) s = .next (takeMiss b { s with scc := { s.scc with awaited := none } }) := by
  rw [exec_boxReply hr ha]
  cases reply with
  | none => rfl
  | some r => exact congrArg _ (if_neg (hbad r rfl))

/-! ## A good reply -/

theorem pluggedSeat_congr {t : State} (hl : t.scc.languages = s.scc.languages) (hz : t.zou = s.zou) (y : Seat) (last now : Bool) :
    pluggedSeat t y last now = pluggedSeat s y last now := by
  have hlang : plugLang t y.zone = plugLang s y.zone := by
    simp only [plugLang, offered_congr hl, hl, hz]
  simp only [pluggedSeat, hlang]

theorem plugTargets_congr {t : State} (hz : t.zou = s.zou) (hb : t.hmx.boost = s.hmx.boost)
    (hs : t.cth.settings = s.cth.settings) (y : Seat) : plugTargets t y = plugTargets s y := by
  simp only [plugTargets, hz, hb, hs]

/-- A jack's sense, with what it takes of the zones and the languages read off another state that has the same. -/
theorem senseJack_read {t : State} (hl : t.scc.languages = s.scc.languages) (hz : t.zou = s.zou) (hb : t.hmx.boost = s.hmx.boost)
    (hs : t.cth.settings = s.cth.settings) (j : SeatNo) (last now : Bool) : senseJack j last now t =
      writeSeat j (pluggedSeat s (t.scc.seats.get j) last now) (pluggedGains s (t.scc.seats.get j) last now (t.hmx.gains.get j))
        (pluggedPaths s (t.scc.seats.get j) last now (t.hmx.formed.get j)) t := by
  rw [senseJack_eq, pluggedSeat_congr hl hz, pluggedGains, pluggedPaths, plugTargets_congr hz hb hs]
  rfl

/-- The seats of a box after a good reply, before its presses. -/
def sensedSeats (b : BoxNo) (r : Vector Word16 3) (s : State) : Vector Seat 64 :=
  put (put s.scc.seats (seatA b) (pluggedSeat s (s.scc.seats.get (seatA b)) (boxOf s b).senseA ((r.get 0).getLsbD 5)))
    (seatB b) (pluggedSeat s (s.scc.seats.get (seatB b)) (boxOf s b).senseB ((r.get 0).getLsbD 6))

def sensedGains (b : BoxNo) (r : Vector Word16 3) (s : State) : Vector SeatGain 64 :=
  put (put s.hmx.gains (seatA b)
      (pluggedGains s (s.scc.seats.get (seatA b)) (boxOf s b).senseA ((r.get 0).getLsbD 5) (s.hmx.gains.get (seatA b))))
    (seatB b) (pluggedGains s (s.scc.seats.get (seatB b)) (boxOf s b).senseB ((r.get 0).getLsbD 6) (s.hmx.gains.get (seatB b)))

def sensedPaths (b : BoxNo) (r : Vector Word16 3) (s : State) : Vector SeatPaths 64 :=
  put (put s.hmx.formed (seatA b)
      (pluggedPaths s (s.scc.seats.get (seatA b)) (boxOf s b).senseA ((r.get 0).getLsbD 5) (s.hmx.formed.get (seatA b))))
    (seatB b) (pluggedPaths s (s.scc.seats.get (seatB b)) (boxOf s b).senseB ((r.get 0).getLsbD 6) (s.hmx.formed.get (seatB b)))

/-- A good reply before its presses: the box is ONLINE, and its seats are plugged in or unplugged. -/
theorem sensed_eq (b : BoxNo) (r : Vector Word16 3) (s : State) : sensed b r s =
    { s with
      cth := (if (boxOf s b).online then s else pushNotice (.boxState b true) s).cth
      scc := { s.scc with
        awaited := none
        boxes := put s.scc.boxes b { online := true, miss := 0, senseA := (r.get 0).getLsbD 5, senseB := (r.get 0).getLsbD 6 }
        seats := sensedSeats b r s }
      hmx := { s.hmx with gains := sensedGains b r s, formed := sensedPaths b r s } } := by
  have hne := (seatA_ne_seatB b).symm
  have hbox : ∀ x, (if (boxOf s b).online then setBox b x { s with scc := { s.scc with awaited := none } }
      else pushNotice (.boxState b true) (setBox b x { s with scc := { s.scc with awaited := none } })) =
      { s with
        cth := (if (boxOf s b).online then s else pushNotice (.boxState b true) s).cth
        scc := { s.scc with awaited := none, boxes := put s.scc.boxes b x } } := by
    intro x
    split
    · rfl
    · refine (pushNotice_withScc _ { s.scc with awaited := none, boxes := put s.scc.boxes b x } s).trans ?_
      have hframe := pushNotice_frame (.boxState b true) s
      generalize pushNotice (.boxState b true) s = t at hframe ⊢
      rw [← hframe]
  have hsettings : (if (boxOf s b).online then s else pushNotice (.boxState b true) s).cth.settings = s.cth.settings := by
    split
    · rfl
    · exact pushNotice_settings _ s
  rw [sensed, hbox]
  generalize (if (boxOf s b).online then s else pushNotice (.boxState b true) s).cth = c at hsettings ⊢
  rw [senseJack_read (s := s) (j := seatA b) (by exact rfl) (by exact rfl) (by exact rfl) (by exact hsettings),
    senseJack_read (s := s) (by exact rfl) (by exact rfl) (by exact rfl) (by exact hsettings)]
  simp only [writeSeat, get_put_ne _ _ hne, sensedSeats, sensedGains, sensedPaths]

theorem get_both {α : Type} (t : Vector α 64) (b : BoxNo) (x y : α) (i : SeatNo) : (put (put t (seatA b) x) (seatB b) y).get i =
    if i.val = 2 * b.val then x else if i.val = 2 * b.val + 1 then y else t.get i := by
  obtain ⟨hA, hB⟩ := seats_of_box b i
  rw [get_put, get_put]
  by_cases ha : i = seatA b
  · rw [if_pos (hA.mp ha), if_pos ha, if_neg (ha ▸ seatA_ne_seatB b)]
  · rw [if_neg (fun h => ha (hA.mpr h)), if_neg ha]
    by_cases hb : i = seatB b
    · rw [if_pos hb, if_pos (hB.mp hb)]
    · rw [if_neg hb, if_neg (fun h => hb (hB.mpr h))]

/-- The value of a table that a plug-in replaces at the two seats of a box. -/
theorem get_arrived {α : Type} (t : Vector α 64) (b : BoxNo) (i : SeatNo) (present : SeatNo → Bool) (lastA nowA lastB nowB : Bool)
    (new : SeatNo → α) :
    (put (put t (seatA b) (if present (seatA b) = false ∧ lastA = true ∧ nowA = true then new (seatA b) else t.get (seatA b)))
      (seatB b) (if present (seatB b) = false ∧ lastB = true ∧ nowB = true then new (seatB b) else t.get (seatB b))).get i =
    if present i = false ∧ ((i.val = 2 * b.val ∧ lastA = true ∧ nowA = true) ∨ (i.val = 2 * b.val + 1 ∧ lastB = true ∧ nowB = true))
      then new i else t.get i := by
  obtain ⟨hiA, hiB⟩ := seats_of_box b i
  rw [get_both]
  by_cases ha : i.val = 2 * b.val
  · have hb : ¬i.val = 2 * b.val + 1 := by omega
    rw [if_pos ha, ← hiA.mpr ha]
    exact if_congr (by tauto) rfl rfl
  · rw [if_neg ha]
    by_cases hb : i.val = 2 * b.val + 1
    · rw [if_pos hb, ← hiB.mpr hb]
      exact if_congr (by tauto) rfl rfl
    · rw [if_neg hb]
      exact (if_neg (by tauto)).symm

/-- Settles O39: a miss by the box's count, and a good reply by what it makes of each seat. -/
theorem boxReplyTaken : Obligations.BoxReplyTaken := by
  unfold Obligations.BoxReplyTaken
  refine ⟨fun reply s hr ha => ?_, fun reply b s hr ha hbad => ?_, fun r b s hr ha hmark hcheck hbox hA hB => ?_⟩
  · exact (whenRunning_running hr).trans (congrArg _ (takeReply_none reply ha))
  · intro x judged
    have hexec := exec_missedReply hr ha fun r hreply hgood => by
      obtain ⟨hmark, hcheck, hbox⟩ := (goodReply_iff b r).mp hgood
      rcases hbad r hreply with h | h | h
      · exact h hmark
      · exact h hcheck
      · exact h hbox
    rw [hexec]
    refine ⟨fun ho => congrArg _ ?_, fun ho hm => congrArg _ ?_, fun ho hm => congrArg _ ?_⟩
    · exact if_pos (by simpa [boxOf] using ho)
    · exact (if_neg (by simpa [boxOf] using ho)).trans (if_pos hm)
    · refine (if_neg (by simpa [boxOf] using ho)).trans ((if_neg (Nat.not_lt.mpr hm)).trans ?_)
      have hbox : pushNotice (.boxState b false) (setBox b Reset.box judged) = { pushNotice (.boxState b false) s with
          scc := { judged.scc with boxes := put s.scc.boxes b Reset.box } } := pushNotice_withScc _ _ s
      rw [unplug_both, hbox]
      exact (pushNotice_withScc _ _ s).symm
  · intro x offered plugged arrives tc ta
    refine ⟨_, exec_goodReply hr ha hmark hcheck hbox, ?_⟩
    rw [pressJack_quiet _ hB, pressJack_quiet _ hA, sensed_eq]
    refine ⟨rfl, fun i => ?_, fun i => ?_, fun i => ?_, rfl, rfl, rfl, rfl⟩
    · obtain ⟨hiA, hiB⟩ := seats_of_box b i
      have hother : ∀ y : Seat, (put (sensedSeats b r s) (seatA b) y).get (seatB b) = (sensedSeats b r s).get (seatB b) := fun y =>
        get_put_ne _ _ (seatA_ne_seatB b).symm
      refine (get_both _ b _ _ i).trans ?_
      by_cases ha : i.val = 2 * b.val
      · have hi := hiA.mpr ha
        subst hi
        have hget : (sensedSeats b r s).get (seatA b) = _ := get_both _ b _ _ (seatA b)
        rw [if_pos ha] at hget
        refine (if_pos ha).trans (Eq.trans ?_ (if_pos ha).symm)
        exact congrArg (pressedSeat _ _ _) hget
      · refine (if_neg ha).trans (Eq.trans ?_ (if_neg ha).symm)
        by_cases hb : i.val = 2 * b.val + 1
        · have hi := hiB.mpr hb
          subst hi
          have hget : (sensedSeats b r s).get (seatB b) = _ := get_both _ b _ _ (seatB b)
          rw [if_neg ha, if_pos hb] at hget
          refine (if_pos hb).trans (Eq.trans ?_ (if_pos hb).symm)
          exact congrArg (pressedSeat _ _ _) ((hother _).trans hget)
        · refine (if_neg hb).trans (Eq.trans ?_ (if_neg hb).symm)
          exact (get_both _ b _ _ i).trans ((if_neg ha).trans (if_neg hb))
    · exact get_arrived s.hmx.gains b i (fun i => (s.scc.seats.get i).present) _ _ _ _
        fun i => { tc := tc i, ta := ta i, gc := tc i, ga := ta i }
    · exact get_arrived s.hmx.formed b i (fun i => (s.scc.seats.get i).present) _ _ _ _
        fun i => { s.hmx.formed.get i with gc := tc i, ga := ta i }

end Sys2Proof.Proofs
end

section
/-! PROOFS. RCE's normal step: the entries it passes, what each delivers, and how a delivery is taken (R94, R97, R102). -/

namespace Sys2Proof.Proofs

open Sys2Proof Sys2Proof.Machine Sys2Proof.Laws

variable {s : State}

/-! ## Runs of entries -/

/-- The cue entries from `a` up to `b`, in index order. -/
def entries (a b : Nat) : List (Fin 256) := (List.finRange 256).filter fun i => decide (a ≤ i.val) && decide (i.val < b)

theorem mem_entries {a b : Nat} {i : Fin 256} : i ∈ entries a b ↔ a ≤ i.val ∧ i.val < b := by
  simp only [entries, List.mem_filter, List.mem_finRange, true_and, Bool.and_eq_true, decide_eq_true_eq]

theorem entries_sorted (a b : Nat) : (entries a b).Pairwise (· < ·) := (List.pairwise_lt_finRange 256).filter _

/-- An increasing list with the members of a run is that run. -/
theorem eq_entries {a b : Nat} {l : List (Fin 256)} (hs : l.Pairwise (· < ·)) (h : ∀ i, i ∈ l ↔ a ≤ i.val ∧ i.val < b) :
    l = entries a b :=
  List.Perm.eq_of_pairwise (fun _ _ _ _ h1 h2 => absurd h1 h2.asymm) hs (entries_sorted a b)
    ((List.perm_ext_iff_of_nodup (hs.imp fun h => ne_of_lt h) ((entries_sorted a b).imp fun h => ne_of_lt h)).mpr
      fun i => (h i).trans mem_entries.symm)

theorem entries_self (a : Nat) : entries a a = [] :=
  List.eq_nil_iff_forall_not_mem.mpr fun _ h => by
    have := mem_entries.mp h
    omega

theorem entries_cons {a b : Nat} (h : a < b) (hb : b ≤ 256) : entries a b = ⟨a, by omega⟩ :: entries (a + 1) b := by
  refine (eq_entries (List.pairwise_cons.mpr ⟨fun i hi => ?_, entries_sorted _ _⟩) fun i => ?_).symm
  · exact Fin.lt_def.mpr (mem_entries.mp hi).1
  · rw [List.mem_cons, mem_entries, Fin.ext_iff]
    show i.val = a ∨ _ ↔ _
    omega

theorem entries_length {a b : Nat} (h : a ≤ b) (hb : b ≤ 256) : (entries a b).length = b - a := by
  induction h using Nat.decreasingInduction with
  | self => rw [entries_self, Nat.sub_self]; rfl
  | of_succ k hk ih =>
    rw [entries_cons hk hb, List.length_cons, ih]
    omega

/-! ## One entry handled -/

/-- A passed entry is FIRED at odometer `n`: its limit, where it has one, is not passed (R97). -/
def firesAt (n : Nat) (c : Cue) : Bool := match c.latest with | some l => decide (n ≤ l) | none => true

/-- Entry `i`, which holds `c`, handled by a normal step to `n` (R97). -/
def handleCue (n : Nat) (cues : Vector Cue 256) (x : State) (i : Fin 256) : State :=
  let c := cues.get i
  let y : State := { x with rce := { x.rce with
    cues := put x.rce.cues i { c with state := if firesAt n c then .fired else .missed } } }
  let z := if firesAt n c then deliver i.val c (match c.action with | .quietOn m | .quietOff m => m | _ => 0) y else y
  { z with rce := { z.rce with cursor := i.val + 1 } }

theorem markCue_fin (i : Fin 256) (x : CueState) (s : State) : markCue i.val x s =
    { s with rce := { s.rce with cues := put s.rce.cues i { s.rce.cues.get i with state := x } } } := by
  have h : asFin 256 i.val = some i := dif_pos i.isLt
  rw [markCue, h]
  rfl

theorem deliver_fields (i : Nat) (c : Cue) (m : ZoneMask) (s : State) :
    { (deliver i c m s).rce with due := s.rce.due } = s.rce := by
  unfold deliver
  split
  case h_6 => exact congrArg (fun r : Rce => { r with due := s.rce.due }) (pushNotice_rce (.cueMark i) s)
  all_goals rfl

theorem deliver_cues (i : Nat) (c : Cue) (m : ZoneMask) (s : State) : (deliver i c m s).rce.cues = s.rce.cues :=
  (congrArg Rce.cues (deliver_fields i c m s) :)

theorem handleCue_rce (n : Nat) (cues : Vector Cue 256) (x : State) (i : Fin 256) :
    { (handleCue n cues x i).rce with due := x.rce.due } = { x.rce with
      cues := put x.rce.cues i { cues.get i with state := if firesAt n (cues.get i) then .fired else .missed },
      cursor := i.val + 1 } := by
  unfold handleCue
  dsimp only
  split
  · exact congrArg (fun r : Rce => { r with cursor := i.val + 1 }) (deliver_fields i.val _ _ _)
  · rfl

/-- Entries handled in turn: each of them, named once, is marked, and no other entry or field of the route changes. -/
theorem handleCue_foldl (n : Nat) (cues : Vector Cue 256) : ∀ (l : List (Fin 256)) (x : State),
    (l.foldl (handleCue n cues) x).rce.count = x.rce.count ∧ (l.foldl (handleCue n cues) x).rce.state = x.rce.state ∧
    (l.foldl (handleCue n cues) x).rce.armedTag = x.rce.armedTag ∧ ∀ i, (l.foldl (handleCue n cues) x).rce.cues.get i =
      if i ∈ l then { cues.get i with state := if firesAt n (cues.get i) then .fired else .missed } else x.rce.cues.get i
  | [], _ => ⟨rfl, rfl, rfl, fun _ => rfl⟩
  | j :: l, x => by
    have hj := handleCue_rce n cues x j
    obtain ⟨hcount, hstate, htag, hcues⟩ := handleCue_foldl n cues l (handleCue n cues x j)
    rw [List.foldl_cons]
    refine ⟨hcount.trans (congrArg Rce.count hj :), hstate.trans (congrArg Rce.state hj :), htag.trans (congrArg Rce.armedTag hj :),
      fun i => (hcues i).trans ?_⟩
    have hput : (handleCue n cues x j).rce.cues.get i = _ := congrArg (Vector.get · i) (congrArg Rce.cues hj :)
    rw [hput, get_put]
    by_cases hl : i ∈ l
    · rw [if_pos hl, if_pos (List.mem_cons_of_mem j hl)]
    · by_cases hi : i = j
      · subst hi
        rw [if_neg hl, if_pos rfl, if_pos List.mem_cons_self]
      · rw [if_neg hl, if_neg hi, if_neg (by simp [hi, hl])]

/-! ## The normal step -/

theorem quietMask_eq (c : Cue) : quietMask c = (match c.action with | .quietOn m | .quietOff m => m | _ => 0) := by
  unfold quietMask
  cases c.action <;> rfl

theorem handleCue_eq {n : Nat} {i : Fin 256} {missed : Bool} (h : missed = !firesAt n (s.rce.cues.get i)) :
    handleCue n s.rce.cues s i = (
      let t := if missed then markCue i.val .missed s
        else deliver i.val (s.rce.cues.get i) (quietMask (s.rce.cues.get i)) (markCue i.val .fired s)
      setRce { t.rce with cursor := i.val + 1 } t) := by
  subst h
  rw [handleCue, markCue_fin, markCue_fin, quietMask_eq]
  cases firesAt n (s.rce.cues.get i) <;> rfl

/-- One entry that is due is handled as `handleCue` says. -/
theorem handleDue_due {n k : Nat} {i : Fin 256} (hi : i.val = s.rce.cursor) (hcount : s.rce.cursor < s.rce.count)
    (hdue : (s.rce.cues.get i).trigger ≤ n) : handleDue n (k + 1) s = handleDue n k (handleCue n s.rce.cues s i) := by
  have hcue : cueAt s s.rce.cursor = some (s.rce.cues.get i) := by
    rw [cueAt, ← hi]
    exact Vector.getElem?_eq_getElem i.isLt
  rw [handleDue, if_neg (by omega), hcue]
  dsimp only
  rw [if_neg (by omega), ← hi]
  refine congrArg (handleDue n k) (handleCue_eq ?_).symm
  unfold firesAt
  cases (s.rce.cues.get i).latest with
  | none => rfl
  | some l => exact (decide_eq_decide.mpr Nat.not_le.symm).trans decide_not

theorem handleDue_stops {n k : Nat} {i : Fin 256} (hi : i.val = s.rce.cursor) (hlate : n < (s.rce.cues.get i).trigger) :
    handleDue n k s = s := by
  have hcue : cueAt s s.rce.cursor = some (s.rce.cues.get i) := by
    rw [cueAt, ← hi]
    exact Vector.getElem?_eq_getElem i.isLt
  cases k with
  | zero => rfl
  | succ k =>
    rw [handleDue, hcue]
    exact ite_eq_left_iff.mpr fun _ => if_pos hlate

/-- The entries handled are those from the cursor to the first whose trigger is above `n` (R97). -/
theorem handleDue_eq (n : Nat) : ∀ (k : Nat) (s : State), s.rce.count ≤ 256 → s.rce.cursor + k = s.rce.count →
    ∃ b, s.rce.cursor ≤ b ∧ b ≤ s.rce.count ∧
      (∀ i : Fin 256, s.rce.cursor ≤ i.val → i.val < b → (s.rce.cues.get i).trigger ≤ n) ∧
      (∀ i : Fin 256, i.val = b → b < s.rce.count → n < (s.rce.cues.get i).trigger) ∧
      handleDue n k s = (entries s.rce.cursor b).foldl (handleCue n s.rce.cues) s ∧ (handleDue n k s).rce.cursor = b
  | 0, s, _, hk => ⟨s.rce.cursor, le_rfl, by omega, fun _ h1 h2 => by omega, fun _ _ h => by omega,
      by rw [entries_self]; rfl, rfl⟩
  | k + 1, s, hcount, hk => by
    have hlt : s.rce.cursor < 256 := by omega
    obtain ⟨i, hi⟩ : ∃ i : Fin 256, i.val = s.rce.cursor := ⟨⟨_, hlt⟩, rfl⟩
    by_cases hdue : (s.rce.cues.get i).trigger ≤ n
    · have hrce := handleCue_rce n s.rce.cues s i
      generalize ht : handleCue n s.rce.cues s i = t at hrce
      have hcues : t.rce.cues = _ := (congrArg Rce.cues hrce :)
      have hcur : t.rce.cursor = i.val + 1 := (congrArg Rce.cursor hrce :)
      have htcount : t.rce.count = s.rce.count := (congrArg Rce.count hrce :)
      have hother (j : Fin 256) (hj : i.val < j.val) : t.rce.cues.get j = s.rce.cues.get j := by
        rw [hcues]
        exact get_put_ne _ _ (Fin.ne_of_gt hj)
      obtain ⟨b, hb1, hb2, hpass, hstop, heq, hend⟩ := handleDue_eq n k t (by omega) (by omega)
      rw [handleDue_due hi (by omega) hdue, ht]
      refine ⟨b, by omega, by omega, fun j h1 h2 => ?_, fun j h1 h2 => ?_, heq.trans ?_, hend⟩
      · by_cases hj : j = i
        · exact hj ▸ hdue
        · have hne : j.val ≠ i.val := fun e => hj (Fin.ext e)
          exact hother j (by omega) ▸ hpass j (by omega) h2
      · exact hother j (by omega) ▸ hstop j h1 (by omega)
      · have hrun : entries s.rce.cursor b = i :: entries t.rce.cursor b := by
          rw [entries_cons (by omega) (by omega), hcur]
          exact congrArg₂ List.cons (Fin.ext hi.symm) (by rw [hi])
        rw [hrun, List.foldl_cons, ht]
        refine List.foldl_ext _ _ _ fun x j hj => ?_
        have := mem_entries.mp hj
        rw [handleCue, handleCue, hother j (by omega)]
    · have hstop := handleDue_stops (k := k + 1) hi (Nat.lt_of_not_le hdue)
      exact ⟨s.rce.cursor, le_rfl, by omega, fun _ h1 h2 => by omega,
        fun j hj _ => by rw [show j = i from Fin.ext (hj.trans hi.symm)]; omega,
        by rw [hstop, entries_self]; rfl, by rw [hstop]⟩

theorem pushNotice_withRce (n : Notice) (r : Rce) (s : State) : pushNotice n { s with rce := r } = { pushNotice n s with rce := r } := by
  unfold pushNotice
  dsimp only
  split <;> rfl

/-- The end of a step with the cursor within the count (R94, R96). -/
theorem endStep_eq (n : Nat) (h : s.rce.cursor ≤ s.rce.count) : endStep n s =
    if s.rce.cursor = s.rce.count then
      pushNotice (.routeState .complete s.rce.count false) { s with rce := { s.rce with lastOdo := n, state := .complete } }
    else { s with rce := { s.rce with lastOdo := n } } := by
  unfold endStep
  by_cases hc : s.rce.cursor = s.rce.count
  · refine (if_pos (show s.rce.count ≤ s.rce.cursor by omega)).trans (Eq.trans ?_ (if_pos hc).symm)
    rw [← hc]
    rfl
  · exact (if_neg (show ¬s.rce.count ≤ s.rce.cursor by omega)).trans (if_neg hc).symm

/-- A step's end with the trunk of its fields read off. -/
theorem endStep_rce (n : Nat) (s : State) : (endStep n s).rce = { s.rce with
    lastOdo := n, state := if s.rce.count ≤ s.rce.cursor then .complete else s.rce.state } := by
  unfold endStep
  dsimp only
  rw [setRce_rce]
  dsimp only
  split
  · exact pushNotice_rce _ _
  · rfl

/-! ## Deliveries -/

theorem takeFirst_append {α : Type} {p : α → Bool} {d : α} : ∀ (before : List α) {after : List α}, (∀ e ∈ before, p e = false) →
    p d = true → takeFirst p (before ++ d :: after) = some (d, before ++ after)
  | [], _, _, hd => if_pos hd
  | e :: before, after, hb, hd => by
    rw [List.cons_append, takeFirst, if_neg (by simp [hb e List.mem_cons_self]),
      takeFirst_append before (fun x hx => hb x (List.mem_cons_of_mem e hx)) hd]
    rfl

theorem takeNext_skips {b : CueOwner} (h : ∀ d ∈ s.rce.due, d.action.owner ≠ some b) : takeNext b s = s := by
  have hnone : takeFirst (fun d => d.action.owner == some b) s.rce.due = none :=
    takeFirst_none (List.any_eq_false.mpr fun d hd => by simpa using h d hd)
  rw [takeNext, hnone]

theorem takeNext_takes {b : CueOwner} {before after : List Delivery} {d : Delivery} (hdue : s.rce.due = before ++ d :: after)
    (hd : d.action.owner = some b) (hb : ∀ e ∈ before, e.action.owner ≠ some b) :
    takeNext b s = takeDelivery d { s with rce := { s.rce with due := before ++ after } } := by
  have hsome : takeFirst (fun d => d.action.owner == some b) s.rce.due = some (d, before ++ after) := by
    rw [hdue]
    exact takeFirst_append before (fun e he => by simpa using hb e he) (by simpa using hd)
  rw [takeNext, hsome]
  rfl

theorem settle_eq (s : State) :
    settle s = s.rce.due.foldl (fun x d => takeDelivery d x) { s with rce := { s.rce with due := [] } } := by
  unfold settle takeDue
  simp only [Option.any_false, Bool.not_false, List.filter_true, List.filter_false]
  rfl

/-- A delivery taken acts as a request broadcast does. -/
theorem exec_taken {c : Instr} {f : State → State × Answer} {t : State} (ht : takes true s)
    (hc : ownerOfCommand c = some (true, replyAction, f)) (hf : f s = (t, answer .done)) : exec c s = .next t :=
  exec_action_done ht hc hf

/-- Settles O34: the entries handled are a run from the cursor, folded over; each delivery is the request of its name. -/
theorem normalStepMarks : Obligations.NormalStepMarks := by
  refine ⟨fun s n hcount hcursor => ?_, fun i c mask s => ?_, fun s => ?_, fun i latest s ht => ?_⟩
  · obtain ⟨b, hb1, hb2, hpass, hstop, heq, hend⟩ := handleDue_eq n (s.rce.count - s.rce.cursor) s hcount (by omega)
    obtain ⟨hc, hst, -, hcues⟩ := handleCue_foldl n s.rce.cues (entries s.rce.cursor b) s
    rw [← heq] at hc hst hcues
    intro t fired
    have ht : t.rce = _ := endStep_rce n (handleDue n (s.rce.count - s.rce.cursor) s)
    have hstep : normalStep n s = _ := endStep_eq n (show (handleDue n (s.rce.count - s.rce.cursor) s).rce.cursor ≤
      (handleDue n (s.rce.count - s.rce.cursor) s).rce.count by omega)
    rw [hend, hc] at ht hstep
    rw [heq] at hstep
    have hcur : t.rce.cursor = b := (congrArg Rce.cursor ht).trans hend
    have htcues : t.rce.cues = (handleDue n (s.rce.count - s.rce.cursor) s).rce.cues := (congrArg Rce.cues ht :)
    refine ⟨(congrArg Rce.lastOdo ht :), (congrArg Rce.count ht :).trans hc, by omega, by omega, fun i h1 h2 => ?_, fun i hi => ?_,
      fun i h1 h2 => hstop i (h1.trans hcur) (by omega), (congrArg Rce.state ht :).trans ?_, ?_⟩
    · refine ⟨hpass i h1 (by omega), ?_⟩
      rw [htcues, hcues i, if_pos (mem_entries.mpr ⟨h1, by omega⟩)]
      rfl
    · rw [htcues, hcues i, if_neg fun h => by have := mem_entries.mp h; omega]
    · rw [hst]
      exact if_congr (by omega) rfl rfl
    · rw [hcur]
      exact hstep
  · unfold deliver
    cases c.action <;> rfl
  · intro owner
    have howner : owner = fun d => d.action.owner := by
      funext d
      obtain ⟨i, a, l⟩ := d
      cases a <;> rfl
    clear_value owner
    subst howner
    exact ⟨fun b h => takeNext_skips h, fun b before d after hdue hd hb => takeNext_takes hdue hd hb, fun waits => rfl,
      settle_eq s⟩
  · refine ⟨fun k => exec_taken ht rfl ?_, exec_taken ht rfl rfl, fun m => ?_⟩
    · have hk : (BitVec.ofNat 8 k.val).toNat = k.val := Nat.mod_eq_of_lt (by omega)
      rw [sceneOp, asFin_lt (hk.trans_lt k.isLt)]
      exact congrArg (fun j => doneWith (applyScene j s)) (Fin.ext hk)
    · have hm : decodeMask (m.setWidth 8) = some m := by
        refine decodeMask_of_toNat ?_
        rw [BitVec.toNat_setWidth, Nat.mod_eq_of_lt (by omega)]
      exact ⟨exec_quiet_accepted 1 ht hm, exec_quiet_accepted 0 ht hm⟩

end Sys2Proof.Proofs
end

section
/-! PROOFS. RCE's steps by its state, the relocation, and ROUTE_ARM and ROUTE_DISARM (R91 to R101). -/

namespace Sys2Proof.Proofs

open Sys2Proof Sys2Proof.Machine Sys2Proof.Laws

variable {s : State}

/-! ## The relocation set (R98) -/

/-- The relocation set by its entries: those from the cursor below the count, up to the first whose trigger is above `n`. -/
def relocated (s : State) (n : Nat) : List (Fin 256) :=
  (entries s.rce.cursor s.rce.count).takeWhile fun i => decide ((s.rce.cues.get i).trigger ≤ n)

/-- An entry with its index, as the model's set lists them. -/
def indexed (cues : Vector Cue 256) (i : Fin 256) : Nat × Cue := (i.val, cues.get i)

theorem range_cues {cues : Vector Cue 256} {a : Nat} : ∀ {k : Nat}, a + k ≤ 256 →
    ((List.range k).filterMap fun j => (cues[a + j]?).map fun c => (a + j, c)) = (entries a (a + k)).map (indexed cues)
  | 0, _ => by rw [Nat.add_zero, entries_self]; rfl
  | k + 1, h => by
    have hlast : entries a (a + (k + 1)) = entries a (a + k) ++ [⟨a + k, by omega⟩] := by
      refine (eq_entries (List.pairwise_append.mpr ⟨entries_sorted _ _, List.pairwise_singleton _ _, fun i hi j hj => ?_⟩)
        fun i => ?_).symm
      · rw [List.mem_singleton.mp hj]
        exact Fin.lt_def.mpr (mem_entries.mp hi).2
      · rw [List.mem_append, mem_entries, List.mem_singleton, Fin.ext_iff]
        show _ ∨ i.val = a + k ↔ _
        omega
    have hget : cues[a + k]? = some (cues.get ⟨a + k, by omega⟩) := Vector.getElem?_eq_getElem (by omega)
    rw [List.range_succ, List.filterMap_append, range_cues (by omega), hlast, List.map_append]
    simp only [List.filterMap_cons, hget, Option.map_some, List.filterMap_nil, List.map_cons, List.map_nil, indexed]

theorem relocationSet_eq (n : Nat) (hcount : s.rce.count ≤ 256) (hcursor : s.rce.cursor ≤ s.rce.count) :
    relocationSet s n = (relocated s n).map (indexed s.rce.cues) := by
  have hrange := range_cues (cues := s.rce.cues) (a := s.rce.cursor) (k := s.rce.count - s.rce.cursor) (by omega)
  rw [Nat.add_sub_cancel' hcursor] at hrange
  rw [relocationSet]
  exact (congrArg (List.takeWhile _) hrange).trans List.takeWhile_map

theorem relocated_sorted (s : State) (n : Nat) : (relocated s n).Pairwise (· < ·) :=
  (entries_sorted _ _).sublist (List.takeWhile_sublist _)

/-! ## Marking, delivering and counting the set (R98 to R100) -/

/-- Entry `i` of the set is FIRED, given the entries after it. -/
def firedIn (o n : Nat) (cues : Vector Cue 256) (i : Fin 256) (later : List (Fin 256)) : Bool :=
  relocates o n (cues.get i) (later.map (indexed cues))

/-- The entries of an increasing list after `i` in it. -/
def after (l : List (Fin 256)) (i : Fin 256) : List (Fin 256) := l.filter fun j => decide (i < j)

theorem after_cons {i : Fin 256} {l : List (Fin 256)} (h : (i :: l).Pairwise (· < ·)) : after (i :: l) i = l ∧
    ∀ j ∈ l, after (i :: l) j = after l j := by
  obtain ⟨hi, -⟩ := List.pairwise_cons.mp h
  refine ⟨?_, fun j hj => ?_⟩
  · rw [after, List.filter_cons_of_neg (by simp), List.filter_eq_self.mpr fun j hj => decide_eq_true (hi j hj)]
  · exact List.filter_cons_of_neg (by simpa using (hi j hj).le)

/-- The cue table with the entries of the set marked. -/
def judgedCues (o n : Nat) (cues : Vector Cue 256) (l : List (Fin 256)) (x : Vector Cue 256) : Vector Cue 256 :=
  Vector.ofFn fun i =>
    if i ∈ l then { cues.get i with state := if firedIn o n cues i (after l i) then .fired else .skipped } else x.get i

theorem markRelocated_eq (o n : Nat) (cues : Vector Cue 256) : ∀ (l : List (Fin 256)) (x : State), l.Pairwise (· < ·) →
    (∀ i ∈ l, x.rce.cues.get i = cues.get i) →
    markRelocated o n (l.map (indexed cues)) x =
      { x with rce := { x.rce with cues := judgedCues o n cues l x.rce.cues } }
  | [], x, _, _ => by
    have hcues : judgedCues o n cues [] x.rce.cues = x.rce.cues := table_ext fun i => get_ofFn _ i
    rw [hcues]
    exact rfl
  | i :: l, x, h, hx => by
    obtain ⟨hself, hafter⟩ := after_cons h
    obtain ⟨hi, hl⟩ := List.pairwise_cons.mp h
    rw [List.map_cons, indexed, markRelocated, markCue_fin, hx i List.mem_cons_self]
    have hfire : relocates o n (cues.get i) (l.map (indexed cues)) = firedIn o n cues i (after (i :: l) i) := by rw [hself]; rfl
    rw [hfire, markRelocated_eq o n cues l _ hl fun j hj =>
      (get_put_ne _ _ (ne_of_gt (hi j hj))).trans (hx j (List.mem_cons_of_mem i hj))]
    refine congrArg (fun c => { x with rce := { x.rce with cues := c } }) (congrArg Vector.ofFn (funext fun j => ?_))
    by_cases hj : j ∈ l
    · rw [if_pos hj, if_pos (List.mem_cons_of_mem i hj), hafter j hj]
    · rw [if_neg hj, get_put]
      by_cases hji : j = i
      · rw [if_pos hji, if_pos (show j ∈ i :: l from hji ▸ List.mem_cons_self), hji]
      · rw [if_neg hji, if_neg (by simp [hji, hj])]

theorem deliverRelocated_eq (o n : Nat) (cues : Vector Cue 256) : ∀ (l : List (Fin 256)) (x : State), l.Pairwise (· < ·) →
    deliverRelocated o n (l.map (indexed cues)) x = (l.filter fun i => firedIn o n cues i (after l i)).foldl
      (fun x i => deliver i.val (cues.get i) (lastZones (cues.get i) ((after l i).map (indexed cues))) x) x
  | [], _, _ => rfl
  | i :: l, x, h => by
    obtain ⟨hself, hafter⟩ := after_cons h
    obtain ⟨-, hl⟩ := List.pairwise_cons.mp h
    have hrest : (l.filter fun j => firedIn o n cues j (after (i :: l) j)) = l.filter fun j => firedIn o n cues j (after l j) :=
      List.filter_congr fun j hj => by rw [hafter j hj]
    have hfold (y : State) : (l.filter fun j => firedIn o n cues j (after l j)).foldl
        (fun x j => deliver j.val (cues.get j) (lastZones (cues.get j) ((after (i :: l) j).map (indexed cues))) x) y =
        (l.filter fun j => firedIn o n cues j (after l j)).foldl
        (fun x j => deliver j.val (cues.get j) (lastZones (cues.get j) ((after l j).map (indexed cues))) x) y :=
      List.foldl_ext _ _ _ fun x j hj => by rw [hafter j (List.mem_of_mem_filter hj)]
    rw [List.map_cons, indexed, deliverRelocated, deliverRelocated_eq o n cues l _ hl, List.filter_cons, hrest, hself]
    by_cases hf : firedIn o n cues i l = true
    · rw [if_pos hf, List.foldl_cons, hfold, hself]
      exact congrArg (fun y => List.foldl _ y _) (if_pos hf)
    · rw [if_neg hf, hfold]
      exact congrArg (fun y => List.foldl _ y _) (if_neg hf)

theorem skippedCount_eq (o n : Nat) (cues : Vector Cue 256) : ∀ l : List (Fin 256), l.Pairwise (· < ·) →
    skippedCount o n (l.map (indexed cues)) = (l.filter fun i => !firedIn o n cues i (after l i)).length
  | [], _ => rfl
  | i :: l, h => by
    obtain ⟨hself, hafter⟩ := after_cons h
    have hrest : (l.filter fun j => !firedIn o n cues j (after (i :: l) j)) = l.filter fun j => !firedIn o n cues j (after l j) :=
      List.filter_congr fun j hj => by rw [hafter j hj]
    rw [List.map_cons, indexed, skippedCount, skippedCount_eq o n cues l (List.pairwise_cons.mp h).2, List.filter_cons, hrest,
      hself]
    show (if firedIn o n cues i l = true then 0 else 1) + _ = _
    cases firedIn o n cues i l with
    | true => exact Nat.zero_add _
    | false => exact Nat.add_comm _ _

/-! ## The relocation by its entries (R98 to R100) -/

theorem markRelocated_fields (o n : Nat) : ∀ (l : List (Nat × Cue)) (x : State),
    { (markRelocated o n l x).rce with cues := x.rce.cues } = x.rce
  | [], _ => rfl
  | (i, c) :: later, x => by
    have hmark : { (markCue i (if relocates o n c later then .fired else .skipped) x).rce with cues := x.rce.cues } = x.rce := by
      unfold markCue
      split <;> rfl
    exact (congrArg (fun r : Rce => { r with cues := x.rce.cues }) (markRelocated_fields o n later _) :).trans hmark

theorem deliverRelocated_fields (o n : Nat) : ∀ (l : List (Nat × Cue)) (x : State),
    { (deliverRelocated o n l x).rce with due := x.rce.due } = x.rce
  | [], _ => rfl
  | (i, c) :: later, x => by
    have hdeliver : { (if relocates o n c later then deliver i c (lastZones c later) x else x).rce with due := x.rce.due } =
        x.rce := by
      split
      · exact deliver_fields i c _ x
      · rfl
    exact (congrArg (fun r : Rce => { r with due := x.rce.due }) (deliverRelocated_fields o n later _) :).trans hdeliver

/-- A relocation by its entries (R98 to R100). -/
theorem relocate_eq (n : Nat) (hcount : s.rce.count ≤ 256) (hcursor : s.rce.cursor ≤ s.rce.count) :
    let o := s.rce.lastOdo
    let cues := s.rce.cues
    let set := relocated s n
    let fires := fun i => firedIn o n cues i (after set i)
    let judged : State := { s with rce := { s.rce with
      cues := judgedCues o n cues set cues, cursor := s.rce.cursor + set.length } }
    let told := pushNotice (.relocation o n (set.filter fun i => !fires i).length)
      ((set.filter fires).foldl
        (fun x i => deliver i.val (cues.get i) (lastZones (cues.get i) ((after set i).map (indexed cues))) x) judged)
    relocate n s =
      if s.rce.cursor + set.length = s.rce.count then
        pushNotice (.routeState .complete s.rce.count false)
          { told with rce := { told.rce with lastOdo := n, state := .complete } }
      else { told with rce := { told.rce with lastOdo := n } } := by
  intro o cues set fires judged told
  have hsorted := relocated_sorted s n
  have hlen : s.rce.cursor + set.length ≤ s.rce.count := by
    have := (List.takeWhile_sublist fun i => decide ((s.rce.cues.get i).trigger ≤ n)).length_le (l₂ := entries s.rce.cursor s.rce.count)
    rw [entries_length hcursor hcount] at this
    exact (Nat.add_le_of_le_sub' hcursor this)
  have htold : relocate n s = endStep n told := by
    rw [relocate, relocationSet_eq n hcount hcursor, List.length_map]
    dsimp only
    rw [markRelocated_eq s.rce.lastOdo n s.rce.cues _ s hsorted (fun _ _ => rfl), deliverRelocated_eq _ _ _ _ _ hsorted,
      skippedCount_eq _ _ _ _ hsorted]
    rfl
  have hrce := deliverRelocated_fields o n (set.map (indexed cues)) judged
  rw [deliverRelocated_eq _ _ _ _ _ hsorted] at hrce
  have hcur : told.rce.cursor = s.rce.cursor + set.length := (congrArg Rce.cursor (pushNotice_rce _ _)).trans (congrArg Rce.cursor hrce :)
  have hcnt : told.rce.count = s.rce.count := (congrArg Rce.count (pushNotice_rce _ _)).trans (congrArg Rce.count hrce :)
  rw [htold, endStep_eq n (by omega), hcur, hcnt]

/-! ## The zones of a quiet entry that stay (R99) -/

theorem lastZones_bit (cues : Vector Cue 256) (l : List (Fin 256)) (c : Cue) (z : Fin 4) :
    (lastZones c (l.map (indexed cues))).getLsbD z.val =
      ((quietMask c).getLsbD z.val && !l.any fun j => (quietMask (cues.get j)).getLsbD z.val) := by
  unfold lastZones
  generalize quietMask c = m
  induction l generalizing m with
  | nil => rw [List.any_nil, Bool.not_false, Bool.and_true]; exact rfl
  | cons j l ih =>
    rw [List.map_cons, List.foldl_cons, ih, BitVec.getLsbD_and, BitVec.getLsbD_not, decide_eq_true z.isLt, Bool.true_and,
      List.any_cons, Bool.not_or, Bool.and_assoc]
    exact rfl

/-- A set of zones from its bits. -/
theorem mask_of_bits {b : Fin 4 → Bool} {m : ZoneMask} (h : ∀ z : Fin 4, m.getLsbD z.val = b z) :
    BitVec.ofNat 4 (((List.finRange 4).map fun z => if b z then 2 ^ z.val else 0).sum) = m ∧
    (m != 0) = (List.finRange 4).any b := by
  obtain rfl : b = fun z => m.getLsbD z.val := funext fun z => (h z).symm
  revert m
  decide

/-! ## RCE's change by its state (R92 to R101) -/

theorem routeTest_iff (s : State) : routeTest s = true ↔
    s.tif.trunk = .locked ∧ s.tif.drive.odoValid = true ∧ s.tif.drive.tag = s.rce.armedTag := by
  simp only [routeTest, Bool.and_eq_true, beq_iff_eq, and_assoc]

theorem moveRoute_eq (x : RouteState) (s : State) : moveRoute x s =
    pushNotice (.routeState x s.rce.cursor false) { s with rce := { s.rce with state := x } } := rfl

theorem moveRoute_rce (x : RouteState) (s : State) : (moveRoute x s).rce = { s.rce with state := x } :=
  pushNotice_rce _ _

theorem moveRoute_tif (x : RouteState) (s : State) : (moveRoute x s).tif = s.tif := pushNotice_tif _ _

theorem moveRoute_settings (x : RouteState) (s : State) : (moveRoute x s).cth.settings = s.cth.settings :=
  pushNotice_settings _ _

/-- A step made in a state whose route fields but the state are those of `s`. -/
theorem odometerStep_eq {t : State} {n : Nat} (ho : t.rce.lastOdo = s.rce.lastOdo) (hj : t.cth.settings = s.cth.settings) :
    odometerStep n t = if n < s.rce.lastOdo then backwardStep n t
      else if n - s.rce.lastOdo ≤ s.cth.settings.jump then normalStep n t else relocate n t := by
  rw [odometerStep, ho, hj]

theorem odometerStep_moved (n : Nat) (x : RouteState) (s : State) : odometerStep n (moveRoute x s) =
    if n < s.rce.lastOdo then backwardStep n (moveRoute x s)
    else if n - s.rce.lastOdo ≤ s.cth.settings.jump then normalStep n (moveRoute x s) else relocate n (moveRoute x s) :=
  odometerStep_eq (congrArg Rce.lastOdo (moveRoute_rce x s) :) (moveRoute_settings x s)

theorem backwardStep_eq (n : Nat) (s : State) : backwardStep n s =
    if s.cth.settings.jump < s.rce.lastOdo - n then
      pushNotice (.routeState s.rce.state s.rce.cursor true) { s with rce := { s.rce with lastOdo := n } }
    else { s with rce := { s.rce with lastOdo := n } } := by
  unfold backwardStep
  split
  · rw [pushNotice_withRce, routeNotice]
    exact congrArg (fun r : Rce => setRce { r with lastOdo := n } _) (pushNotice_rce _ _)
  · exact rfl

/-- Settles O35: each route state's branch, the backward step, and the relocation by its entries. -/
theorem routeStepsAct : Obligations.RouteStepsAct := by
  refine ⟨fun s => ?_, fun n s _ => backwardStep_eq n s, fun n s hcount hcursor => ?_⟩
  · intro n passes moved stepped
    have htest := routeTest_iff s
    have hpass (h : passes) : routeTest s = true := htest.mpr h
    have hfail (h : ¬passes) : ¬routeTest s = true := fun e => h (htest.mp e)
    have hstep (x : RouteState) : odometerStep n (moveRoute x s) = stepped (moved x) := odometerStep_moved n x s
    refine ⟨fun hs => ?_, fun hs h => ?_, fun hs h => ?_, fun hs h => ?_, fun hs h => ?_, fun hs h => ?_, fun hs h => ?_,
      fun hs h => ?_, fun hs h => ?_⟩ <;> unfold routeChange <;> rw [hs] <;> dsimp only
    · exact if_neg fun e => hfail h e.2
    · exact (if_pos ⟨hs, hpass h⟩).trans (hstep .running)
    · exact if_neg (hfail h)
    · exact (if_pos (hpass h)).trans (if_congr Iff.rfl rfl (odometerStep_eq rfl rfl))
    · exact if_neg (hfail h)
    · rw [if_pos (hpass h), moveRoute_tif, moveRoute_rce]
      exact if_congr Iff.rfl rfl (hstep .running)
    · exact if_neg (hfail h)
    · exact if_pos (hpass h)
  · intro o cue set later scene stop zones last reduced fires judged told
    have hafter (i : Fin 256) (p : Fin 256 → Bool) : later i p = (after set i).any p := List.any_filter.symm
    have hzones (i : Fin 256) : zones i = quietMask (cue i) := rfl
    have hlast (i : Fin 256) (z : Fin 4) :
        (lastZones (cue i) ((after set i).map (indexed s.rce.cues))).getLsbD z.val = last i z := by
      rw [lastZones_bit]
      exact congrArg (fun b => _ && !b) (hafter i _).symm
    have hreduced : reduced = fun i => lastZones (cue i) ((after set i).map (indexed s.rce.cues)) :=
      funext fun i => (mask_of_bits (hlast i)).1
    have hfires : fires = fun i => firedIn o n s.rce.cues i (after set i) := by
      funext i
      have hquiet := (mask_of_bits (hlast i)).2
      have hmap (p : Cue → Bool) : (((after set i).map (indexed s.rce.cues)).any fun e => p e.2) = later i fun j => p (cue j) :=
        List.any_map.trans (hafter i _).symm
      have hscene := hmap isScene
      have hstop := hmap isStop
      show fires i = relocates o n (cue i) _
      unfold relocates
      simp only [fires]
      generalize List.any (List.finRange 4) (last i) = q at hquiet ⊢
      cases (cue i).action with
      | announce _ _ _ _ _ => cases (cue i).latest <;> rfl
      | scene _ => exact congrArg not hscene.symm
      | quietOn _ => exact hquiet.symm
      | quietOff _ => exact hquiet.symm
      | stopReached => exact congrArg not hstop.symm
      | mark => rfl
    clear_value fires reduced
    subst hfires hreduced
    exact relocate_eq n hcount hcursor

/-! ## What a step leaves of the route's fields -/

/-- `t` has the count and the armed tag of `s`, `n` as last processed, and the state of `s` or COMPLETE. -/
def SteppedTo (n : Nat) (s t : State) : Prop :=
  t.rce.count = s.rce.count ∧ t.rce.armedTag = s.rce.armedTag ∧ t.rce.lastOdo = n ∧
    (t.rce.state = s.rce.state ∨ t.rce.state = .complete)

theorem steppedTo_endStep {n : Nat} {u : State} (hc : u.rce.count = s.rce.count)
    (hg : u.rce.armedTag = s.rce.armedTag) (hs : u.rce.state = s.rce.state) : SteppedTo n s (endStep n u) := by
  rw [SteppedTo, endStep_rce]
  refine ⟨hc, hg, rfl, ?_⟩
  dsimp only
  split
  · exact .inr rfl
  · exact .inl hs

theorem steppedTo_normalStep (n : Nat) (hcount : s.rce.count ≤ 256) (hcursor : s.rce.cursor ≤ s.rce.count) :
    SteppedTo n s (normalStep n s) := by
  obtain ⟨b, -, -, -, -, heq, -⟩ := handleDue_eq n (s.rce.count - s.rce.cursor) s hcount (by omega)
  obtain ⟨hc, hst, hg, -⟩ := handleCue_foldl n s.rce.cues (entries s.rce.cursor b) s
  rw [← heq] at hc hst hg
  exact steppedTo_endStep hc hg hst

theorem steppedTo_relocate (n : Nat) (s : State) : SteppedTo n s (relocate n s) := by
  unfold relocate
  dsimp only
  generalize ho : s.rce.lastOdo = o
  generalize relocationSet s n = set
  have hmark := markRelocated_fields o n set s
  generalize markRelocated o n set s = t at hmark ⊢
  have hdeliver := deliverRelocated_fields o n set (setRce { t.rce with cursor := s.rce.cursor + set.length } t)
  generalize deliverRelocated o n set _ = u at hdeliver ⊢
  have hu : (pushNotice (.relocation o n (skippedCount o n set)) u).rce = u.rce := pushNotice_rce _ _
  refine steppedTo_endStep ?_ ?_ ?_ <;> rw [hu]
  · exact (congrArg Rce.count hdeliver :).trans (congrArg Rce.count hmark :)
  · exact (congrArg Rce.armedTag hdeliver :).trans (congrArg Rce.armedTag hmark :)
  · exact (congrArg Rce.state hdeliver :).trans (congrArg Rce.state hmark :)

/-! ## ROUTE_ARM and ROUTE_DISARM (R91, R92, R95) -/

theorem takeDelivery_rce (d : Delivery) (s : State) : (takeDelivery d s).rce = s.rce := by
  have h : DeckSide fun t => t.rce = s.rce := {
    cth := fun _ _ h => h
    asq := fun _ _ h => h
    vpl := fun _ _ h => h
    ccc := fun _ _ h => h
    cmp := fun _ _ h => h
    lmc := fun _ _ h => h
    dev := fun _ _ h => h
    row := fun _ _ _ h => h
    duck := fun _ _ h => h }
  unfold takeDelivery
  split
  · exact h.asqOps.internal _ _ _ _ _ _ _ s rfl
  · exact keep_applyScene h.lamps _ s rfl
  · exact setQuiet_rce _ _ s
  · exact setQuiet_rce _ _ s
  · unfold clearLatch
    split
    · rfl
    · exact keep_lampStopEnd h.lamps _ rfl
  · rfl

theorem settle_rce (s : State) : (settle s).rce = { s.rce with due := [] } := by
  rw [settle_eq]
  exact keep_foldl (P := fun t => t.rce = { s.rce with due := [] }) (fun d t ht => (takeDelivery_rce d t).trans ht) _ _ rfl

theorem nonDecreasing_iff : ∀ l : List Nat, nonDecreasing l = true ↔ l.Pairwise (· ≤ ·)
  | [] => by simp [nonDecreasing]
  | [a] => by simp [nonDecreasing]
  | a :: b :: l => by
    rw [nonDecreasing, Bool.and_eq_true, decide_eq_true_eq, nonDecreasing_iff (b :: l), List.pairwise_cons (a := a)]
    refine ⟨fun ⟨hab, h⟩ => ⟨fun c hc => ?_, h⟩, fun ⟨ha, h⟩ => ⟨ha b List.mem_cons_self, h⟩⟩
    rcases List.mem_cons.mp hc with rfl | hc
    · exact hab
    · exact hab.trans ((List.pairwise_cons.mp h).1 c hc)

/-- The triggers of the entries below a count, in order (R91). -/
theorem triggers_nonDecreasing (cues : Vector Cue 256) {n : Nat} (hn : n ≤ 256) :
    nonDecreasing ((cues.toList.take n).map Cue.trigger) = true ↔
      ∀ i j : Fin 256, i.val < j.val → j.val < n → (cues.get i).trigger ≤ (cues.get j).trigger := by
  rw [nonDecreasing_iff, List.pairwise_iff_getElem]
  simp only [List.length_map, List.length_take, Vector.length_toList, List.getElem_map, List.getElem_take, Vector.getElem_toList]
  exact ⟨fun h i j hij hj => h i.val j.val (by omega) (by omega) hij,
    fun h i j hi hj hij => h ⟨i, by omega⟩ ⟨j, by omega⟩ hij (lt_of_lt_of_le hj (min_le_left _ _))⟩

/-- The state a ROUTE_ARM leaves before it may start (R91). -/
def armedRoute (count tag : Nat) (s : State) : State :=
  pushNotice (.routeState .armed 0 false)
    { s with rce := { cues := mapTable (fun c => { c with state := .pending }) s.rce.cues, count := count,
                      state := .armed, armedTag := tag, cursor := 0, lastOdo := 0, due := [] } }

theorem armedRoute_rce (count tag : Nat) (s : State) : (armedRoute count tag s).rce =
    { cues := mapTable (fun c => { c with state := .pending }) s.rce.cues, count := count,
      state := .armed, armedTag := tag, cursor := 0, lastOdo := 0, due := [] } := pushNotice_rce _ _

theorem armedRoute_tif (count tag : Nat) (s : State) : (armedRoute count tag s).tif = s.tif := pushNotice_tif _ _

theorem armedRoute_settings (count tag : Nat) (s : State) : (armedRoute count tag s).cth.settings = s.cth.settings :=
  pushNotice_settings _ _

theorem armRoute_arms {count tag : Nat} (hs : s.rce.state = .idle) (hdue : s.rce.due = []) (hc : count ≤ 256)
    (hm : nonDecreasing ((s.rce.cues.toList.take count).map Cue.trigger) = true) :
    armRoute count tag s = (tryStart (armedRoute count tag s), answer .done) := by
  have harmed : moveRoute .armed (setRce { (allPending s).rce with count := count, armedTag := tag, cursor := 0, lastOdo := 0 }
      (allPending s)) = armedRoute count tag s := by
    unfold allPending armedRoute
    generalize mapTable (fun c : Cue => { c with state := .pending }) s.rce.cues = cues
    rw [moveRoute_eq]
    simp only [setRce, hdue]
  rw [← harmed]
  unfold armRoute
  rw [if_neg (not_not.mpr hs), if_neg (by omega), hm]
  rfl

theorem armRoute_decreasing {count tag : Nat} (hs : s.rce.state = .idle) (hc : count ≤ 256)
    (hm : nonDecreasing ((s.rce.cues.toList.take count).map Cue.trigger) = false) :
    armRoute count tag s = (s, answer .badValue) := by
  unfold armRoute
  rw [if_neg (not_not.mpr hs), if_neg (by omega), hm]
  rfl

/-- An armed route that starts is RUNNING and steps from 0 (R92). -/
theorem tryStart_armedRoute {count tag : Nat} (h : routeTest (armedRoute count tag s) = true) :
    tryStart (armedRoute count tag s) = (
      let running := moveRoute .running (armedRoute count tag s)
      if s.tif.drive.odometer ≤ s.cth.settings.jump then normalStep s.tif.drive.odometer running
      else relocate s.tif.drive.odometer running) := by
  rw [tryStart, if_pos ⟨congrArg Rce.state (armedRoute_rce count tag s), h⟩, armedRoute_tif, odometerStep_moved,
    armedRoute_rce, armedRoute_settings]
  exact if_neg (Nat.not_lt_zero _)

/-- Settles O33: the checks in order, and the step from 0 by the jump limit. -/
theorem routeArmDisarmActs : Obligations.RouteArmDisarmActs := by
  refine ⟨fun bc count tag s ht hdue => ?_, fun bc s ht => ⟨fun hs => ?_, fun hs => ?_, fun p ps => ?_⟩⟩
  · have hexec {t : State} {p : List Byte} (h : armRoute count.toNat tag.toNat s = (t, .reply p)) :
        exec (.routeArm bc count tag) s = .next (settle (withReply bc 0x83 p t)) := by
      rw [exec_routeArm, whenLocked_takes ht]
      exact congrArg (fun x => Host.Outcome.next (settle x)) (takeRequest_takes ht h)
    have hquiet {t : State} {p : List Byte} (hd : t.rce.due = []) (h : armRoute count.toNat tag.toNat s = (t, .reply p)) :
        exec (.routeArm bc count tag) s = .next (withReply bc 0x83 p t) := by
      rw [hexec h, settle_none (by rw [withReply_rce, hd])]
    refine ⟨fun hs => hquiet hdue (if_pos hs), fun hs hc => hquiet hdue ?_, fun hs hc hm => hquiet hdue ?_, fun hs hc hm => ?_⟩
    · exact (if_neg (not_not.mpr hs)).trans (if_pos hc)
    · refine armRoute_decreasing hs hc (Bool.eq_false_iff.mpr fun h => ?_)
      obtain ⟨i, j, hij, hj, hlt⟩ := hm
      exact absurd ((triggers_nonDecreasing _ hc).mp h i j hij hj) (by omega)
    · have harm := armRoute_arms (tag := tag.toNat) hs hdue hc ((triggers_nonDecreasing _ hc).mpr hm)
      have hrce := armedRoute_rce count.toNat tag.toNat s
      have htest : routeTest (armedRoute count.toNat tag.toNat s) = true ↔
          s.tif.trunk = .locked ∧ s.tif.drive.odoValid = true ∧ s.tif.drive.tag = tag.toNat := by
        rw [routeTest_iff, armedRoute_tif, hrce]
      by_cases hpass : routeTest (armedRoute count.toNat tag.toNat s) = true
      · rw [tryStart_armedRoute hpass] at harm
        have hrun := moveRoute_rce .running (armedRoute count.toNat tag.toNat s)
        rw [hrce] at hrun
        have hstep : SteppedTo s.tif.drive.odometer (moveRoute .running (armedRoute count.toNat tag.toNat s))
            (if s.tif.drive.odometer ≤ s.cth.settings.jump then
              normalStep s.tif.drive.odometer (moveRoute .running (armedRoute count.toNat tag.toNat s))
            else relocate s.tif.drive.odometer (moveRoute .running (armedRoute count.toNat tag.toNat s))) := by
          split
          · exact steppedTo_normalStep _ (by rw [hrun]; exact hc) (by rw [hrun]; exact Nat.zero_le _)
          · exact steppedTo_relocate _ _
        rw [SteppedTo, hrun] at hstep
        obtain ⟨hcount, htag, hodo, hstate⟩ := hstep
        refine ⟨_, hexec harm, ?_, ?_, fun h => absurd (htest.mp hpass) h, fun _ _ _ => ⟨?_, ?_, ?_, ?_⟩⟩
        · rw [settle_rce, withReply_rce]
          exact hcount
        · rw [settle_rce, withReply_rce]
          exact htag
        · exact congrArg (fun r => settle (withReply bc 0x83 [0] (if s.tif.drive.odometer ≤ s.cth.settings.jump then
            normalStep s.tif.drive.odometer r else relocate s.tif.drive.odometer r)))
            (congrArg (fun c => pushNotice (.routeState .running c false) _) (congrArg Rce.cursor hrce))
        · rw [settle_rce, withReply_rce]
          exact hstate
        · rw [settle_rce, withReply_rce]
          exact hodo
        · rw [settle_rce]
      · rw [tryStart, if_neg fun h => hpass h.2] at harm
        refine ⟨_, hquiet (congrArg Rce.due hrce) harm, ?_, ?_, fun _ => rfl, fun h1 h2 h3 => absurd (htest.mpr ⟨h1, h2, h3⟩) hpass⟩
        · rw [withReply_rce, hrce]
        · rw [withReply_rce, hrce]
  · refine (exec_action_done ht rfl rfl).trans ?_
    rw [disarmRoute, if_pos hs]
  · refine (exec_action_done ht rfl rfl).trans ?_
    rw [disarmRoute, if_neg hs]
    rfl
  · obtain ⟨-, -, -, -, -, -, hbare⟩ := params_refused (p := p :: ps) s
    exact handleRequest_answer ht rfl ((hbare routeDisarmOp (by simp)))

end Sys2Proof.Proofs
end

section
/-! PROOFS. Lookups, locks, unlocks, flushes and the clip memory requests (R147, R156 to R160). -/

namespace Sys2Proof.Proofs

open Sys2Proof Sys2Proof.Machine Sys2Proof.Laws

variable {s : State} {bc : Bool}

/-! ## The lookup (R147) -/

/-- The lookup's test of one entry. -/
def entryFor (family language : Nat) (e : Option Clip) : Option Clip :=
  match e with
  | none => none
  | some c => if c.family = family ∧ c.language = language then some c else none

theorem entryFor_some {family language : Nat} {e : Option Clip} {c : Clip} :
    entryFor family language e = some c ↔ e = some c ∧ c.family = family ∧ c.language = language := by
  cases e with
  | none => simp [entryFor]
  | some d =>
    simp only [entryFor, Option.ite_none_right_eq_some, Option.some.injEq]
    exact ⟨fun ⟨h, e⟩ => ⟨e, e ▸ h⟩, fun ⟨e, h⟩ => ⟨e ▸ h, e⟩⟩

theorem lookup_eq (s : State) (family language : Nat) :
    lookup s family language = Fin.findSome? fun i => entryFor family language (s.ccc.directory.get i) := by
  rw [Fin.findSome?_eq_findSome?_finRange, lookup, toList_eq_map_get, List.findSome?_map]
  rfl

theorem entryFor_none {family language : Nat} {e : Option Clip} :
    entryFor family language e = none ↔ ∀ c, ¬(e = some c ∧ c.family = family ∧ c.language = language) := by
  rw [Option.eq_none_iff_forall_ne_some]
  exact forall_congr' fun c => not_congr entryFor_some

theorem lookup_spec (s : State) (family language : Nat) :
    (lookup s family language = none ↔
      ∀ i c, ¬(s.ccc.directory.get i = some c ∧ c.family = family ∧ c.language = language)) ∧
    ∀ c, lookup s family language = some c ↔
      ∃ i, (s.ccc.directory.get i = some c ∧ c.family = family ∧ c.language = language) ∧
        ∀ j d, j < i → ¬(s.ccc.directory.get j = some d ∧ d.family = family ∧ d.language = language) := by
  rw [lookup_eq]
  refine ⟨Fin.findSome?_eq_none_iff.trans (forall_congr' fun i => entryFor_none), fun c =>
    Fin.findSome?_eq_some_iff.trans (exists_congr fun i => and_congr entryFor_some ?_)⟩
  exact ⟨fun h j d hj => entryFor_none.mp (h j hj) d, fun h j hj => entryFor_none.mpr fun d => h j d hj⟩

theorem findClip_valid {family : Nat} {lang : Byte} (hf : family ≤ 1023) (hl : lang.toNat ≤ 11 ∨ lang.toNat = 15) (s : State) :
    (lookup s family lang.toNat = none → findClip family lang s = .error .notFound) ∧
    ∀ c, lookup s family lang.toNat = some c → findClip family lang s = .ok c := by
  have hname : clipName family lang = some (family, lang.toNat) := if_pos ⟨hf, hl⟩
  unfold findClip
  refine ⟨fun h => ?_, fun c h => ?_⟩ <;> simp only [hname, h]

theorem findClip_badValue {family : Nat} {lang : Byte} (h : 1023 < family ∨ (11 < lang.toNat ∧ lang.toNat ≠ 15)) (s : State) :
    findClip family lang s = .error .badValue := by
  rw [findClip, clipName, if_neg (by omega)]

theorem clip_sectors (c : Clip) : c.sectors = (List.range ((c.length + 2047) / 2048)).map (c.first + ·) := by
  have hround : c.length + Config.sectorSamples - 1 = c.length + 2047 := by
    rw [Config.sectorSamples]
    omega
  rw [Clip.sectors, hround, Config.sectorSamples]

theorem clip_sectors_nodup (c : Clip) : c.sectors.Nodup :=
  List.Nodup.map (fun _ _ h => Nat.add_left_cancel h) List.nodup_range

/-! ## The lock table (R156) -/

theorem mem_lockUnion {x : Nat} : ∀ (sectors : List Nat) {locks : List Nat}, x ∈ lockUnion locks sectors ↔ x ∈ locks ∨ x ∈ sectors
  | [], _ => by simp [lockUnion]
  | k :: sectors, locks => by
    rw [show lockUnion locks (k :: sectors) = lockUnion (insertSector k locks) sectors from rfl, mem_lockUnion sectors,
      mem_insertSector, List.mem_cons]
    tauto

/-- The sectors that are not locked yet. -/
def freshIn (locks sectors : List Nat) : List Nat := sectors.filter fun k => !locks.contains k

theorem locks_fresh_nodup {locks sectors : List Nat} (hl : locks.Nodup) (hs : sectors.Nodup) :
    (locks ++ freshIn locks sectors).Nodup :=
  hl.append (hs.filter _) fun k hk hf => by simp [freshIn, hk] at hf

theorem mem_locks_fresh {locks sectors : List Nat} {k : Nat} :
    k ∈ locks ++ freshIn locks sectors ↔ k ∈ locks ∨ k ∈ sectors := by
  simp only [freshIn, List.mem_append, List.mem_filter, Bool.not_eq_true', List.contains_eq_mem, decide_eq_false_iff_not]
  tauto

theorem lockUnion_length_ge {locks sectors : List Nat} (hl : locks.Nodup) (hs : sectors.Nodup) :
    locks.length + (freshIn locks sectors).length ≤ (lockUnion locks sectors).length := by
  rw [← List.length_append]
  exact ((locks_fresh_nodup hl hs).subperm fun k hk => (mem_lockUnion sectors).mpr (mem_locks_fresh.mp hk)).length_le

theorem lockUnion_length {locks sectors : List Nat} (hl : locks.Pairwise (· < ·)) (hs : sectors.Nodup) :
    (lockUnion locks sectors).length = locks.length + (freshIn locks sectors).length := by
  have hn {l : List Nat} (h : l.Pairwise (· < ·)) : l.Nodup := h.imp fun h => ne_of_lt h
  refine le_antisymm ?_ (lockUnion_length_ge (hn hl) hs)
  rw [← List.length_append]
  exact ((hn (lockUnion_rises sectors hl)).subperm fun k hk => mem_locks_fresh.mpr ((mem_lockUnion sectors).mp hk)).length_le

/-! ## Preloads (R156) -/

theorem isCached_eq (s : State) (k : Nat) : isCached s k = (List.finRange 32).any fun i => (s.ccc.lines.get i).tag == some k := by
  rw [isCached, lineFor, Bool.eq_iff_iff, List.find?_isSome, List.any_eq_true]
  exact Iff.rfl

/-- Preloads of different sectors: those neither cached nor queued before join the queue in order. -/
theorem foldl_preload : ∀ (l : List Nat) (s : State), l.Nodup → l.foldl preload s = { s with ccc := { s.ccc with
    queue := s.ccc.queue ++ (l.filter fun k => !isCached s k && !isQueued s k).map fun k =>
      { sector := k, urgency := 0, waiting := [] } } }
  | [], s, _ => by
    rw [List.filter_nil, List.map_nil, List.append_nil]
    rfl
  | k :: l, s, h => by
    obtain ⟨hk, hl⟩ := List.nodup_cons.mp h
    rw [List.foldl_cons, foldl_preload l _ hl, List.filter_cons]
    by_cases hheld : (isCached s k || isQueued s k) = true
    · have hpre : preload s k = s := if_pos hheld
      rw [hpre, if_neg (by rw [← Bool.not_or, hheld]; decide)]
    · have hpre : preload s k = { s with ccc := { s.ccc with
          queue := s.ccc.queue ++ [{ sector := k, urgency := 0, waiting := [] }] } } := if_neg hheld
      have hrest : (l.filter fun x => !isCached (preload s k) x && !isQueued (preload s k) x) =
          l.filter fun x => !isCached s x && !isQueued s x := by
        refine List.filter_congr fun x hx => ?_
        have hne : (k == x) = false := beq_eq_false_iff_ne.mpr fun e => hk (e ▸ hx)
        rw [hpre]
        simp [isQueued, isCached, lineFor, lineOf, hne]
      rw [hrest, hpre, if_pos (by simpa using hheld)]
      simp only [List.append_assoc, List.map_cons, List.singleton_append]

/-! ## Pins and the flush (R148, R158) -/

theorem pinCount_zero (s : State) (k : Nat) : (pinCount s k == 0) = !((List.finRange 8).any fun v =>
    (s.vpl.voices.get v).cur == some k || (s.vpl.voices.get v).next == some k) := by
  rw [Bool.eq_iff_iff, beq_iff_eq, pinCount, List.length_eq_zero_iff, List.filter_eq_nil_iff, Bool.not_eq_true',
    List.any_eq_false]
  refine forall_congr' fun v => forall_congr' fun _ => not_congr ?_
  simp [pins, voiceOf]

/-- A cache sector that is VALID, not pinned and not locked. -/
theorem flushable_eq (s : State) (i : LineNo) : flushable s i = (match s.ccc.lines.get i with
    | .valid k _ => !((List.finRange 8).any fun v =>
        (s.vpl.voices.get v).cur == some k || (s.vpl.voices.get v).next == some k) && !s.ccc.locks.contains k
    | _ => false) := by
  unfold flushable lineOf isLocked
  cases s.ccc.lines.get i with
  | valid k _ => exact congrArg (· && _) (pinCount_zero s k)
  | _ => rfl

theorem foldl_dropLine : ∀ (l : List LineNo) (s : State), l.foldl dropLine s = { s with ccc := { s.ccc with
    lines := Vector.ofFn fun i => if i ∈ l then .invalid else s.ccc.lines.get i, lru := s.ccc.lru.filter fun i => decide (i ∉ l) } }
  | [], s => by
    have hlines : (Vector.ofFn fun i => if i ∈ ([] : List LineNo) then Line.invalid else s.ccc.lines.get i) = s.ccc.lines :=
      table_ext fun i => get_ofFn _ i
    rw [hlines, List.filter_eq_self.mpr fun i _ => by simp]
    rfl
  | k :: l, s => by
    have hlines : (Vector.ofFn fun i => if i ∈ l then Line.invalid else (dropLine s k).ccc.lines.get i) =
        Vector.ofFn fun i => if i ∈ k :: l then Line.invalid else s.ccc.lines.get i := by
      refine congrArg Vector.ofFn (funext fun i => ?_)
      rw [dropLine, setLine, get_put]
      by_cases hl : i ∈ l
      · rw [if_pos hl, if_pos (List.mem_cons_of_mem k hl)]
      · rw [if_neg hl]
        exact if_congr (by simp [hl]) rfl rfl
    have hlru : ((dropLine s k).ccc.lru.filter fun i => decide (i ∉ l)) = s.ccc.lru.filter fun i => decide (i ∉ k :: l) := by
      rw [dropLine, setLine, List.filter_filter]
      exact List.filter_congr fun i _ => by rw [Bool.eq_iff_iff]; simp; tauto
    rw [List.foldl_cons, foldl_dropLine l, hlines, hlru]
    rfl

/-! ## CLIP_LOCK, CLIP_UNLOCK and CACHE_FLUSH (R156 to R158) -/

theorem lockSectors_eq (sectors : List Nat) (hs : sectors.Nodup) (s : State) : lockSectors sectors s =
    { s with ccc := { s.ccc with
      locks := lockUnion s.ccc.locks sectors,
      queue := s.ccc.queue ++ ((freshIn s.ccc.locks sectors).filter fun k =>
          !((List.finRange 32).any fun i => (s.ccc.lines.get i).tag == some k) && !s.ccc.queue.any fun e => e.sector == k).map
        fun k => { sector := k, urgency := 0, waiting := [] } } } := by
  refine (foldl_preload _ _ (hs.filter _)).trans ?_
  simp only [isCached_eq]
  exact rfl

theorem lockAnswer_arbiter (t : State) : lockAnswer (arbiter t) = (arbiter t, .reply [0, BitVec.ofNat 8 t.ccc.locks.length]) := by
  rw [lockAnswer, (arbiter_tables t).2]
  exact rfl

theorem clipUnlock_done {present : Byte} {family : Nat} {lang : Byte} {sectors : List Nat}
    (h : clipUnlockOp present family lang s = lockAnswer (arbiter (unlockSectors sectors s))) :
    clipUnlockOp present family lang s = (arbiter (unlockSectors sectors s),
      .reply [0, BitVec.ofNat 8 (s.ccc.locks.filter fun k => !sectors.contains k).length]) :=
  h.trans (lockAnswer_arbiter _)

/-- The entries that leave the queue with their sectors, by propositions. -/
theorem unlockSectors_eq (sectors : List Nat) (s : State) : unlockSectors sectors s = { s with ccc := { s.ccc with
    locks := s.ccc.locks.filter fun k => !sectors.contains k,
    queue := s.ccc.queue.filter fun e =>
      !(decide (e.waiting = []) && decide (e.sector ∈ sectors) && decide (e.sector ∈ s.ccc.locks)) } } := by
  have hq (e : FetchEntry) : (e.waiting.isEmpty && sectors.contains e.sector && isLocked s e.sector) =
      (decide (e.waiting = []) && decide (e.sector ∈ sectors) && decide (e.sector ∈ s.ccc.locks)) := by
    rw [isLocked, List.contains_eq_mem, List.contains_eq_mem]
    cases e.waiting <;> rfl
  unfold unlockSectors
  simp only [hq]

/-- The flush of the cache sectors that `out` names, where those are the flushable ones. -/
theorem cacheFlush_eq {out : LineNo → Bool} (h : out = flushable s) : cacheFlushOp s =
    (arbiter { s with ccc := { s.ccc with
      lines := Vector.ofFn fun i => if out i then .invalid else s.ccc.lines.get i, lru := s.ccc.lru.filter fun i => !out i } },
      .reply [0, BitVec.ofNat 8 ((List.finRange 32).filter out).length]) := by
  subst h
  have hmem (i : LineNo) : i ∈ allLines.filter (flushable s) ↔ flushable s i = true := by simp [allLines]
  rw [cacheFlushOp, flushCache, foldl_dropLine]
  simp only [hmem, decide_not, Bool.decide_eq_true]
  exact rfl

/-- Settles O48: the lookup by its first match, the union by its members, and each change under the arbiter. -/
theorem clipLocksAct : Obligations.ClipLocksAct := by
  refine ⟨lookup_spec, fun bc family lang s ht => ⟨fun h => ?_, fun hf hl => ⟨fun h => ?_, fun c hc => ?_⟩⟩,
    fun bc present family lang s ht => ⟨fun hp h => ?_, fun hp hf hl h => ?_, fun sectors hs => ?_⟩, fun bc s ht => ?_⟩
  · refine action_takes ht (f := clipLockOp family.toNat lang) ?_
    simp only [clipLockOp, findClip_badValue h]
    exact rfl
  · refine action_takes ht (f := clipLockOp family.toNat lang) ?_
    simp only [clipLockOp, (findClip_valid hf hl s).1 h]
    exact rfl
  · have hclip := (findClip_valid hf hl s).2 c hc
    intro sectors fresh wanted
    have hsec : c.sectors = sectors := clip_sectors c
    have hnodup : sectors.Nodup := hsec ▸ clip_sectors_nodup c
    refine ⟨fun hn hfull => ?_, fun hn hsorted hfits => ?_⟩
    · have hlong : Config.lockLimit < (lockUnion s.ccc.locks c.sectors).length := by
        rw [hsec]
        exact lt_of_lt_of_le hfull (lockUnion_length_ge hn hnodup)
      refine action_takes ht (f := clipLockOp family.toNat lang) ?_
      simp only [clipLockOp, hclip]
      exact if_pos hlong
    · have hlen : (lockUnion s.ccc.locks sectors).length = s.ccc.locks.length + fresh.length := lockUnion_length hsorted hnodup
      refine ⟨lockUnion s.ccc.locks sectors, hlen, lockUnion_rises sectors hsorted, fun k => mem_lockUnion sectors, ?_⟩
      have hshort : ¬Config.lockLimit < (lockUnion s.ccc.locks c.sectors).length := by
        rw [hsec, hlen]
        exact Nat.not_lt.mpr hfits
      refine action_takes ht (f := clipLockOp family.toNat lang) ?_
      simp only [clipLockOp, hclip]
      rw [if_neg hshort, hsec, lockSectors_eq sectors hnodup, lockAnswer_arbiter, ← hlen]
      exact rfl
  · refine action_takes ht (f := clipUnlockOp present family.toNat lang) ?_
    simp only [clipUnlockOp, yes_eq_true hp, findClip_badValue h]
    exact rfl
  · refine action_takes ht (f := clipUnlockOp present family.toNat lang) ?_
    simp only [clipUnlockOp, yes_eq_true hp, (findClip_valid hf hl s).1 h]
    exact rfl
  · intro locks
    rw [← unlockSectors_eq]
    refine action_takes ht (f := clipUnlockOp present family.toNat lang) (clipUnlock_done ?_)
    rcases hs with ⟨rfl, rfl⟩ | ⟨hp, hf, hl, c, hc, rfl⟩
    · exact rfl
    · rw [← clip_sectors]
      simp only [clipUnlockOp, yes_eq_true hp, (findClip_valid hf hl s).2 c hc]
      exact rfl
  · intro out
    exact action_takes ht (f := cacheFlushOp) (cacheFlush_eq (funext fun i => (flushable_eq s i).symm))

/-! ## The clip memory requests (R159, R160) -/

theorem fetchNext_withCth (x : Cth) (s : State) : fetchNext { s with cth := x } = { fetchNext s with cth := x } := by
  have hv : victim { s with cth := x } = victim s := rfl
  unfold fetchNext
  rw [hv]
  dsimp only
  cases nextEntry s.ccc.queue <;> cases victim s <;> rfl

theorem startMaint_withCth (x : Cth) (s : State) : startMaint { s with cth := x } = { startMaint s with cth := x } := by
  unfold startMaint transfer
  dsimp only
  cases s.cmp.maint with
  | none => rfl
  | some m =>
    dsimp only
    split <;> rfl

theorem arbiter_withCth (x : Cth) (s : State) : arbiter { s with cth := x } = { arbiter s with cth := x } := by
  have hp : portState { s with cth := x } = portState s := rfl
  have hv : victim { s with cth := x } = victim s := rfl
  have hw : maintWaits { s with cth := x } = maintWaits s := rfl
  unfold arbiter
  rw [hp, hv, hw, fetchNext_withCth, startMaint_withCth]
  dsimp only
  split_ifs <;> rfl

theorem arbiter_cth (s : State) : (arbiter s).cth = s.cth := (congrArg State.cth (arbiter_frame s).1 :)

/-- The state with the operation placed and its reply place RESERVED. -/
def placedOp (kind : Byte) (op : MaintOp) (stage : Stage) (s : State) : State := { s with
  cth := { s.cth with replies := s.cth.replies ++
    [{ state := .reserved, kind := kind, payload := [], resetsDeck := false }] },
  cmp := { s.cmp with maint := some { op := op, stage := stage, ticks := 0 } } }

theorem start_transfer {op : MaintOp} (h : ∀ a n, op ≠ .read a n) (d : Device) :
    d.start op = { d with busy := some op, givenUp := false } := by
  cases op with
  | read a n => exact absurd rfl (h a n)
  | erase _ => rfl
  | program _ _ => rfl

/-- An accepted operation, its place RESERVED, under the arbiter (R159). -/
theorem request_accepted {kind : Byte} {f : State → State × Answer} {op : MaintOp} (ht : takes false s)
    (hf : f s = acceptMaint op s) (hm : s.cmp.maint = none) :
    whenLocked (takeRequest false kind f) s = .next (arbiter (placedOp kind op .pending s)) := by
  have haccept : acceptMaint op s =
      (arbiter { s with cmp := { s.cmp with maint := some { op := op, stage := .pending, ticks := 0 } } }, .deferred) :=
    if_neg (by rw [hm]; exact Bool.false_ne_true)
  rw [whenLocked_takes ht, takeRequest_deferred ht (hf.trans haccept), arbiter_cth, ← arbiter_withCth]
  exact rfl

theorem arbiter_fetching (h : s.cmp.fetch ≠ none) : arbiter s = s :=
  if_pos fun hp => h (portState_ready.mp hp).1

/-- Settles O49: the refusals, and an accepted operation's start with the port READY. -/
theorem clipRequestsAct : Obligations.ClipRequestsAct := by
  intro sector addr data count s ht refused placed accepted
  have haccepted {kind : Byte} {op : MaintOp} {f : State → State × Answer} (hf : f s = acceptMaint op s) :
      accepted kind op (whenLocked (takeRequest false kind f) s) := by
    refine ⟨fun hm => request_takes ht (hf.trans (if_pos (Option.isSome_iff_ne_none.mpr hm))), fun hm =>
      ⟨request_accepted ht hf hm, fun hfetch => ?_, fun hfetch hq => ?_⟩⟩
    · exact (request_accepted ht hf hm).trans (congrArg _ (arbiter_fetching (s := placedOp kind op .pending s) hfetch))
    · rw [request_accepted ht hf hm, arbiter_starts_maint (s := placedOp kind op .pending s)
        (m := { op := op, stage := .pending, ticks := 0 }) hq hfetch rfl rfl]
      obtain ⟨hbusy, hidle⟩ := start_cases (s := placedOp kind op .pending s) rfl
      refine ⟨fun hb => congrArg _ (hbusy hb), fun hb hop => congrArg _ ((hidle hb).trans ?_),
        fun a n hb hop => congrArg _ ((hidle hb).trans ?_)⟩
      · exact congrArg (fun d => { placedOp kind op .sent s with dev := d }) (start_transfer hop s.dev)
      · subst hop
        exact rfl
  refine ⟨fun h => ?_, fun h => ?_, fun h => ?_, fun h1 h2 h3 => ?_, fun h => ?_, fun h1 h2 h3 => ?_⟩
  · exact request_takes ht (if_pos h : clipEraseOp sector.toNat s = _)
  · exact haccepted (if_neg (Nat.not_le.mpr (Nat.lt_succ_of_le h)) : clipEraseOp sector.toNat s = _)
  · exact request_takes ht (if_pos (by omega) : clipProgramOp addr.toNat data s = _)
  · exact haccepted (if_neg (by omega) : clipProgramOp addr.toNat data s = _)
  · have hzero : count = 0 ↔ count.toNat = 0 := by rw [BitVec.toNat_eq]; rfl
    rw [hzero] at h
    exact request_takes ht (if_pos (by rw [Config.clipBytes]; omega) : clipReadOp addr.toNat count.toNat s = _)
  · have hzero : count = 0 ↔ count.toNat = 0 := by rw [BitVec.toNat_eq]; rfl
    rw [ne_eq, hzero] at h1
    exact haccepted (if_neg (by rw [Config.clipBytes]; omega) : clipReadOp addr.toNat count.toNat s = _)

end Sys2Proof.Proofs
end

section
/-! PROOFS. The port arbiter's choice, the victim, the fetch and its end (R149, R152, R154, R155). -/

namespace Sys2Proof.Proofs

open Sys2Proof Sys2Proof.Machine Sys2Proof.Laws

variable {s : State}

/-! ## The first cache sector with a property -/

theorem find_lines {p : LineNo → Bool} {i : LineNo} :
    allLines.find? p = some i ↔ p i = true ∧ ∀ j, j < i → p j = false := by
  rw [allLines, ← Fin.find?_eq_find?_finRange, Fin.find?_eq_some_iff]

theorem find_lines_none {p : LineNo → Bool} : allLines.find? p = none ↔ ∀ i, p i = false := by
  simp [allLines]

theorem validAs_iff {k : Nat} {x : Line} : x.validAs k = true ↔ ∃ data, x = .valid k data := by
  cases x <;> simp [Line.validAs]

theorem validAs_false {k : Nat} {x : Line} : x.validAs k = false ↔ ∀ data, x ≠ .valid k data := by
  rw [← Bool.not_eq_true, validAs_iff, not_exists]

theorem validLine_some {k : Nat} {i : LineNo} : validLine s k = some i ↔
    (∃ data, s.ccc.lines.get i = .valid k data) ∧ ∀ j, j < i → ∀ data, s.ccc.lines.get j ≠ .valid k data :=
  find_lines.trans (and_congr validAs_iff (forall_congr' fun _ => forall_congr' fun _ => validAs_false))

theorem validLine_none {k : Nat} : validLine s k = none ↔ ∀ i data, s.ccc.lines.get i ≠ .valid k data :=
  find_lines_none.trans (forall_congr' fun _ => validAs_false)

theorem touch_none {k : Nat} (h : ∀ i data, s.ccc.lines.get i ≠ .valid k data) : touch k s = s := by
  rw [touch, validLine_none.mpr h]

theorem touch_some {k : Nat} {i : LineNo} (h : validLine s k = some i) :
    touch k s = { s with ccc := { s.ccc with lru := s.ccc.lru.filter (· != i) ++ [i] } } := by
  rw [touch, h]

/-! ## The victim (R152) -/

/-- The sector that a fetch takes: the lowest-numbered INVALID one, else the least recent flushable one. -/
def Chosen (s : State) (i : LineNo) : Prop :=
  (s.ccc.lines.get i = .invalid ∧ ∀ j, j < i → s.ccc.lines.get j ≠ .invalid) ∨
  ((∀ j, s.ccc.lines.get j ≠ .invalid) ∧ ∃ before after, s.ccc.lru = before ++ i :: after ∧ flushable s i = true ∧
    ∀ j ∈ before, flushable s j = false)

theorem victim_some {i : LineNo} : victim s = some i ↔ Chosen s i := by
  have hinv (j : LineNo) : (lineOf s j == .invalid) = true ↔ s.ccc.lines.get j = .invalid := beq_iff_eq
  have hval (j : LineNo) : (lineOf s j == .invalid) = false ↔ s.ccc.lines.get j ≠ .invalid := beq_eq_false_iff_ne
  unfold victim Chosen
  cases hfind : allLines.find? fun i => lineOf s i == .invalid with
  | some k =>
    obtain ⟨hk, hlow⟩ := find_lines.mp hfind
    rw [hinv] at hk
    simp only [hval] at hlow
    refine ⟨fun h => .inl ?_, fun h => ?_⟩
    · cases h
      exact ⟨hk, hlow⟩
    · rcases h with ⟨hi, hbefore⟩ | ⟨hno, -⟩
      · rcases lt_trichotomy k i with hlt | rfl | hlt
        · exact absurd hk (hbefore k hlt)
        · rfl
        · exact absurd hi (hlow i hlt)
      · exact absurd hk (hno k)
  | none =>
    have hno : ∀ j, s.ccc.lines.get j ≠ .invalid := fun j => (hval j).mp (find_lines_none.mp hfind j)
    refine (List.find?_eq_some_iff_append (p := flushable s)).trans ⟨fun ⟨hp, before, after, heq, hb⟩ => .inr ⟨hno, before, after, heq,
      hp, fun j hj => by simpa using hb j hj⟩, fun h => ?_⟩
    obtain ⟨hi, -⟩ | ⟨-, before, after, heq, hp, hb⟩ := h
    · exact absurd hi (hno i)
    · exact ⟨hp, before, after, heq, fun j hj => by simpa using hb j hj⟩

theorem victim_none : victim s = none ↔ ∀ i, ¬Chosen s i := by
  rw [Option.eq_none_iff_forall_ne_some]
  exact forall_congr' fun i => not_congr victim_some

/-! ## The oldest entry of the highest urgency (R154) -/

/-- The entry stands before every other of its urgency, and none has a higher one. -/
def TopEntry (q : List FetchEntry) (e : FetchEntry) : Prop :=
  ∃ before after, q = before ++ e :: after ∧ (∀ d ∈ before, d.urgency < e.urgency) ∧ ∀ d ∈ after, d.urgency ≤ e.urgency

theorem foldl_urgency (q : List FetchEntry) (u : Nat) :
    u ≤ q.foldl (fun u e => max u e.urgency) u ∧ ∀ e ∈ q, e.urgency ≤ q.foldl (fun u e => max u e.urgency) u := by
  induction q generalizing u with
  | nil => exact ⟨le_rfl, nofun⟩
  | cons x q ih =>
    obtain ⟨h1, h2⟩ := ih (max u x.urgency)
    refine ⟨(le_max_left _ _).trans h1, fun e he => ?_⟩
    rcases List.mem_cons.mp he with rfl | he
    · exact (le_max_right _ _).trans h1
    · exact h2 e he

theorem urgency_le_top {q : List FetchEntry} {e : FetchEntry} (h : e ∈ q) : e.urgency ≤ topUrgency q := (foldl_urgency q 0).2 e h

theorem topUrgency_le {q : List FetchEntry} {u : Nat} (h : ∀ e ∈ q, e.urgency ≤ u) : topUrgency q ≤ u := by
  by_cases h0 : topUrgency q = 0
  · omega
  · obtain ⟨e, he⟩ := topUrgency_entry h0
    have htop : e.urgency = topUrgency q := by simpa using List.find?_some he
    exact htop ▸ h e (nextEntry_mem he)

theorem nextEntry_iff {q : List FetchEntry} {e : FetchEntry} : nextEntry q = some e ↔ TopEntry q e := by
  refine (List.find?_eq_some_iff_append (p := fun e : FetchEntry => e.urgency == topUrgency q)).trans
    ⟨fun ⟨he, before, after, heq, hb⟩ => ?_, fun ⟨before, after, heq, hb, ha⟩ => ?_⟩
  · have htop : e.urgency = topUrgency q := by simpa using he
    refine ⟨before, after, heq, fun d hd => ?_, fun d hd => ?_⟩
    · have hne : d.urgency ≠ topUrgency q := by simpa using hb d hd
      have hle := urgency_le_top (q := q) (e := d) (by rw [heq]; exact List.mem_append_left _ hd)
      omega
    · rw [htop]
      exact urgency_le_top (by rw [heq]; exact List.mem_append_right _ (List.mem_cons_of_mem e hd))
  · have htop : topUrgency q = e.urgency := by
      refine le_antisymm (topUrgency_le fun d hd => ?_) (urgency_le_top (by simp [heq]))
      rw [heq, List.mem_append, List.mem_cons] at hd
      rcases hd with hd | rfl | hd
      · exact (hb d hd).le
      · exact le_rfl
      · exact ha d hd
    refine ⟨by simp [htop], before, after, heq, fun d hd => ?_⟩
    have := hb d hd
    simp only [htop, Bool.not_eq_true', beq_eq_false_iff_ne]
    omega

theorem nextEntry_none {q : List FetchEntry} : nextEntry q = none ↔ q = [] := by
  refine ⟨fun h => ?_, fun h => by rw [h]; rfl⟩
  cases q with
  | nil => rfl
  | cons x q =>
    by_cases h0 : topUrgency (x :: q) = 0
    · have hx := urgency_le_top (q := x :: q) List.mem_cons_self
      have hnone := List.find?_eq_none.mp h x List.mem_cons_self
      exact absurd (by simp; omega) hnone
    · obtain ⟨e, he⟩ := topUrgency_entry h0
      rw [h] at he
      cases he

theorem topUrgency_top {q : List FetchEntry} {e : FetchEntry} (h : TopEntry q e) : topUrgency q = e.urgency := by
  have he : e.urgency = topUrgency q := by simpa using List.find?_some (nextEntry_iff.mpr h)
  exact he.symm

/-! ## The arbiter's choice (R154) -/

theorem fetchNext_starts {e : FetchEntry} {i : LineNo} (he : TopEntry s.ccc.queue e) (hi : Chosen s i) :
    fetchNext s = startFetch e.sector i s := by
  rw [fetchNext, nextEntry_iff.mpr he, victim_some.mpr hi]

theorem fetchNext_idle (h : (∀ i, ¬Chosen s i) ∨ s.ccc.queue = []) : fetchNext s = s := by
  unfold fetchNext
  rcases h with h | h
  · rw [victim_none.mpr h]
    cases nextEntry s.ccc.queue <;> rfl
  · rw [nextEntry_none.mpr h]

theorem maintWaits_none (h : s.cmp.maint = none) : maintWaits s = false := by rw [maintWaits, h]

theorem maintWaits_ready {m : Maint} (hm : s.cmp.maint = some m) (h : portState s = .ready) : maintWaits s = true := by
  have hstage : (m.stage == .pending) = true := by rw [(portState_ready.mp h).2 m hm]; rfl
  unfold maintWaits
  rw [hm]
  exact hstage

theorem arbiter_ready (h : portState s = .ready) : arbiter s =
    if topUrgency s.ccc.queue = 4 && (victim s).isSome then fetchNext s
    else if maintWaits s then startMaint s else fetchNext s := if_neg (not_not.mpr h)

theorem arbiter_fetches {e : FetchEntry} {i : LineNo} (hr : portState s = .ready) (he : TopEntry s.ccc.queue e) (hi : Chosen s i)
    (h : s.cmp.maint = none ∨ e.urgency = 4) : arbiter s = startFetch e.sector i s := by
  rw [arbiter_ready hr, fetchNext_starts he hi]
  rcases h with h | h
  · rw [maintWaits_none h, if_neg Bool.false_ne_true, ite_self]
  · exact if_pos (by rw [topUrgency_top he, h, victim_some.mpr hi]; rfl)

theorem arbiter_maintains {m : Maint} (hr : portState s = .ready) (hm : s.cmp.maint = some m)
    (h : (∀ i, ¬Chosen s i) ∨ ∀ e, TopEntry s.ccc.queue e → e.urgency ≠ 4) : arbiter s = startMaint s := by
  have hno : ¬(decide (topUrgency s.ccc.queue = 4) && (victim s).isSome) = true := by
    rcases h with h | h
    · simp [victim_none.mpr h]
    · intro hboth
      have h4 : topUrgency s.ccc.queue = 4 := of_decide_eq_true (Bool.and_eq_true_iff.mp hboth).1
      obtain ⟨e, he⟩ := topUrgency_entry (q := s.ccc.queue) (by omega)
      have htop := nextEntry_iff.mp he
      exact h e htop ((topUrgency_top htop).symm.trans h4)
  rw [arbiter_ready hr, if_neg hno, if_pos (maintWaits_ready hm hr)]

theorem arbiter_idle (hm : s.cmp.maint = none) (h : (∀ i, ¬Chosen s i) ∨ s.ccc.queue = []) : arbiter s = s := by
  unfold arbiter
  rw [fetchNext_idle h, maintWaits_none hm, if_neg Bool.false_ne_true, ite_self, ite_self]

/-! ## A fetch completes (R155) -/

/-- A voice that waits for sector `k` plays. -/
def toldVoice (k : Nat) (x : Voice) : Voice :=
  if (x.state = .priming ∨ x.state = .starved) ∧ x.cur = some k then { x with state := .playing } else x

theorem foldl_setVoice (f : VoiceNo → Voice → Voice) : ∀ (l : List VoiceNo), l.Nodup → ∀ t : State,
    l.foldl (fun t v => setVoice v (f v (voiceOf t v)) t) t = { t with vpl := { t.vpl with
      voices := Vector.ofFn fun v => if v ∈ l then f v (t.vpl.voices.get v) else t.vpl.voices.get v } }
  | [], _, t => by
    have hvoices : (Vector.ofFn fun v => if v ∈ ([] : List VoiceNo) then f v (t.vpl.voices.get v) else t.vpl.voices.get v) =
        t.vpl.voices := table_ext fun v => get_ofFn _ v
    rw [hvoices]
    rfl
  | k :: l, h, t => by
    obtain ⟨hk, hl⟩ := List.nodup_cons.mp h
    rw [List.foldl_cons, foldl_setVoice f l hl]
    refine congrArg (fun x => { t with vpl := { t.vpl with voices := x } }) (congrArg Vector.ofFn (funext fun v => ?_))
    rw [setVoice, get_put]
    by_cases hv : v = k
    · subst hv
      rw [if_neg hk, if_pos rfl, if_pos List.mem_cons_self]
      rfl
    · rw [if_neg hv]
      exact if_congr (by simp [hv]) rfl rfl

/-- A fold over all voices that writes each voice's record from itself. -/
theorem foldl_allVoices (f : VoiceNo → Voice → Voice) (t : State) :
    allVoices.foldl (fun t v => setVoice v (f v (voiceOf t v)) t) t =
      { t with vpl := { t.vpl with voices := Vector.ofFn fun v => f v (t.vpl.voices.get v) } } := by
  rw [allVoices, foldl_setVoice f _ (List.nodup_finRange 8)]
  simp only [List.mem_finRange, if_true]

theorem setVoice_self (v : VoiceNo) (t : State) : setVoice v (voiceOf t v) t = t := by
  rw [setVoice, voiceOf, put_get]

theorem touch_recent {t : State} {k : Nat} {i : LineNo} (hv : validLine t k = some i)
    (hl : t.ccc.lru.filter (· != i) ++ [i] = t.ccc.lru) : touch k t = t := by
  rw [touch_some hv, hl]

/-- Telling a voice of a sector that is most recent already changes that voice alone. -/
theorem tellValid_eq {t : State} {k : Nat} {i : LineNo} (hv : validLine t k = some i)
    (hl : t.ccc.lru.filter (· != i) ++ [i] = t.ccc.lru) (v : VoiceNo) :
    tellValid k t v = setVoice v (toldVoice k (voiceOf t v)) t := by
  by_cases hw : ((voiceOf t v).state = .priming ∨ (voiceOf t v).state = .starved) ∧ (voiceOf t v).cur = some k
  · rw [toldVoice, if_pos hw]
    exact (if_pos hw).trans (touch_recent hv hl)
  · rw [toldVoice, if_neg hw]
    exact (if_neg hw).trans (setVoice_self v t).symm

theorem foldl_tellValid {k : Nat} {i : LineNo} : ∀ (l : List VoiceNo) {t : State}, validLine t k = some i →
    t.ccc.lru.filter (· != i) ++ [i] = t.ccc.lru →
    l.foldl (tellValid k) t = l.foldl (fun t v => setVoice v (toldVoice k (voiceOf t v)) t) t
  | [], _, _, _ => rfl
  | v :: l, t, hv, hl => by
    rw [List.foldl_cons, List.foldl_cons, tellValid_eq hv hl]
    exact foldl_tellValid l hv hl

/-- The bytes a fetch reads. -/
def fetchedData (f : Fetch) (s : State) : Memory :=
  if f.overBusy then Memory.free s.dev.draws (Config.sectorBytes * f.sector) [] 0 Config.sectorBytes
  else Memory.sector s.dev.bytes f.sector

theorem read_fetchedData (f : Fetch) (s : State) {j : Nat} (hj : j < 4096) : Memory.read (fetchedData f s) j =
    if f.overBusy then Config.freeByte s.dev.draws (4096 * f.sector + j) else Memory.read s.dev.bytes (4096 * f.sector + j) := by
  unfold fetchedData
  split
  · rw [read_free _ _ _ rfl]
    exact if_pos ⟨Nat.zero_le j, by rw [Config.sectorBytes]; omega⟩
  · exact read_sector _ _ _ hj

/-- Settles O50: the arbiter by the top entry and the victim, the use order, and the end of a fetch. -/
theorem fetchesRun : Obligations.FetchesRun := by
  refine ⟨fun s => ?_, fun s hr => ⟨fun h => ?_, fun f hf htags => ⟨fetchedData f s, fun j hj => read_fetchedData f s hj, ?_⟩⟩⟩
  · intro vacant chosen none' top ready
    have hready : portState s = .ready ↔ ready := portState_ready
    have hvacant : vacant = flushable s := funext fun i => (flushable_eq s i).symm
    have hchosen (i : LineNo) : chosen i ↔ Chosen s i := by
      simp only [chosen, hvacant]
      exact Iff.rfl
    have hnone : none' ↔ ∀ i, ¬Chosen s i := forall_congr' fun i => not_congr (hchosen i)
    refine ⟨fun h => if_pos (mt hready.mp h), fun e i h he hi hm => ?_, fun m h hm hno => ?_, fun h hm hno => ?_, fun k => ⟨touch_none, ?_⟩⟩
    · exact arbiter_fetches (hready.mpr h) he ((hchosen i).mp hi) hm
    · rw [arbiter_maintains (hready.mpr h) hm (hno.imp_left hnone.mp)]
      obtain ⟨hbusy, hidle⟩ := start_cases hm
      refine ⟨hbusy, fun hb hop => ?_, fun a n hb hop => ?_⟩
      · rw [hidle hb, start_transfer hop]
      · rw [hidle hb, hop]
        exact rfl
    · exact arbiter_idle hm (hno.imp_left hnone.mp)
    · exact fun i data hi hlow => touch_some (validLine_some.mpr ⟨⟨data, hi⟩, hlow⟩)
  · refine (whenRunning_running hr).trans (congrArg _ ?_)
    unfold fetchCompletes
    rw [h]
  · refine (whenRunning_running hr).trans (congrArg _ ?_)
    have hvalid (t : State) (hlines : t.ccc.lines = put s.ccc.lines f.line (.valid f.sector (fetchedData f s))) :
        validLine t f.sector = some f.line := by
      refine validLine_some.mpr ⟨⟨fetchedData f s, by rw [hlines]; exact get_put_same _ _ _⟩, fun j hj data h => ?_⟩
      rw [hlines, get_put_ne _ _ (ne_of_lt hj)] at h
      exact htags j (ne_of_lt hj) (by rw [h]; rfl)
    have hrecent : ((s.ccc.lru.filter (· != f.line)) ++ [f.line]).filter (· != f.line) ++ [f.line] =
        s.ccc.lru.filter (· != f.line) ++ [f.line] := by
      rw [List.filter_append, List.filter_filter]
      simp
    unfold fetchCompletes
    rw [hf]
    refine congrArg arbiter ((foldl_tellValid allVoices (hvalid _ rfl) hrecent).trans ?_)
    exact foldl_allVoices (fun _ x => toldVoice f.sector x) _

end Sys2Proof.Proofs
end

section
/-! PROOFS. The memory's ready indication, the end of a maintenance operation, and what it invalidates (R142, R145, R160,
R161). -/

namespace Sys2Proof.Proofs

open Sys2Proof Sys2Proof.Machine Sys2Proof.Laws

variable {s : State}

/-! ## What the memory ran (R145) -/

/-- The bytes an operation writes. -/
def insideOp (op : MaintOp) (x : Nat) : Prop := match op with
  | .erase k => 4096 * k ≤ x ∧ x < 4096 * (k + 1)
  | .program a bytes => a ≤ x ∧ x < a + bytes.length
  | .read _ _ => False

/-- What an operation leaves at a byte of its own. -/
def leftByOp (op : MaintOp) (x : Nat) (old : Byte) : Byte := match op with
  | .erase _ => 0xFF
  | .program a bytes => old &&& bytes.getD (x - a) 0xFF
  | .read _ _ => old

theorem read_apply_outside {m : Memory} (hm : m.wf = true) {op : MaintOp} {x : Nat} (h : ¬insideOp op x) :
    Memory.read (Device.apply m op) x = Memory.read m x := by
  cases op with
  | erase k => exact (read_clear m _ _ x).trans (if_neg h)
  | program a bs => exact (read_program bs hm a x).trans (dif_neg h)
  | read a n => rfl

theorem read_apply_inside {m : Memory} (hm : m.wf = true) {op : MaintOp} {x : Nat} (h : insideOp op x) :
    Memory.read (Device.apply m op) x = leftByOp op x (Memory.read m x) := by
  cases op with
  | erase k => exact (read_clear m _ _ x).trans (if_pos h)
  | program a bs =>
    obtain ⟨h1, h2⟩ : a ≤ x ∧ x < a + bs.length := h
    refine (read_program bs hm a x).trans ((dif_pos ⟨h1, h2⟩).trans (congrArg (Memory.read m x &&& ·) ?_))
    exact (List.getD_eq_getElem bs 0xFF (by omega)).symm
  | read a n => exact h.elim

theorem read_lose_outside {m : Memory} (hm : m.wf = true) {d : Nat} {op : MaintOp} {x : Nat} (h : ¬insideOp op x) :
    Memory.read (Device.lose d m op) x = Memory.read m x := by
  cases op with
  | erase k =>
    refine (read_free d 0 _ hm _ x).trans (if_neg fun hx => h ?_)
    simp only [insideOp, Config.sectorBytes] at hx ⊢
    omega
  | program a bs => exact (read_free d 0 _ hm _ x).trans (if_neg h)
  | read a n => rfl

/-- What the memory was running has completed between two of its states. -/
def Ran (d e : Device) : Prop :=
  (d.busy = none → e.bytes = d.bytes ∧ e.draws = d.draws) ∧
  ∀ op, d.busy = some op →
    (∀ x, ¬insideOp op x → Memory.read e.bytes x = Memory.read d.bytes x) ∧
    (d.givenUp = false → e.draws = d.draws ∧
      ∀ x, insideOp op x → Memory.read e.bytes x = leftByOp op x (Memory.read d.bytes x))

theorem finish_none {d : Device} (h : d.busy = none) : d.finish = d := by rw [Device.finish, h]

theorem finish_some {d : Device} {op : MaintOp} (h : d.busy = some op) : d.finish =
    if d.givenUp then { bytes := Device.lose d.draws d.bytes op, busy := none, givenUp := false, draws := d.draws + 1 }
    else { d with bytes := Device.apply d.bytes op, busy := none } := by rw [Device.finish, h]

theorem finish_busy (d : Device) : d.finish.busy = none := by
  cases h : d.busy with
  | none => rw [finish_none h, h]
  | some op =>
    rw [finish_some h]
    split <;> rfl

theorem finish_givenUp {d : Device} (h : d.busy ≠ none) : d.finish.givenUp = false := by
  obtain ⟨op, hop⟩ := Option.ne_none_iff_exists'.mp h
  rw [finish_some hop]
  cases hg : d.givenUp <;> rfl

theorem ran_finish {d : Device} (hw : d.bytes.wf = true) : Ran d d.finish := by
  refine ⟨fun h => by rw [finish_none h]; exact ⟨rfl, rfl⟩, fun op h => ?_⟩
  rw [finish_some h]
  refine ⟨fun x hx => ?_, fun hg => ?_⟩
  · split
    · exact read_lose_outside hw hx
    · exact read_apply_outside hw hx
  · rw [hg]
    exact ⟨rfl, fun x hx => read_apply_inside hw hx⟩

/-- What is sent to the memory next leaves its bytes as they are. -/
theorem Ran.start {d e : Device} (h : Ran d e) (op : MaintOp) : Ran d (e.start op) := by
  unfold Ran at h ⊢
  rw [start_bytes, start_draws]
  exact h

/-! ## Replies in reserve (R26) -/

theorem fillReserved_append {p : Place} {bytes : List Byte} : ∀ (before : List Place) {after : List Place},
    (∀ q ∈ before, q.state ≠ .reserved) → p.state = .reserved →
    fillReserved bytes (before ++ p :: after) = before ++ { p with state := .ready, payload := bytes } :: after
  | [], _, _, hp => if_pos hp
  | q :: before, _, hb, hp => by
    rw [List.cons_append, fillReserved, if_neg (hb q List.mem_cons_self),
      fillReserved_append before (fun x hx => hb x (List.mem_cons_of_mem q hx)) hp]
    rfl

theorem fillReserved_none {bytes : List Byte} : ∀ {l : List Place}, (∀ q ∈ l, q.state ≠ .reserved) → fillReserved bytes l = l
  | [], _ => rfl
  | q :: l, h => by
    rw [fillReserved, if_neg (h q List.mem_cons_self), fillReserved_none fun x hx => h x (List.mem_cons_of_mem q hx)]

theorem memory_bytes (m : Memory) : ∀ (n a : Nat), Memory.bytes m a n = (List.range n).map fun j => Memory.read m (a + j)
  | 0, _ => rfl
  | n + 1, a => by
    rw [Memory.bytes, memory_bytes m n (a + 1), List.range_succ_eq_map, List.map_cons, List.map_map]
    exact congrArg (_ :: ·) (List.map_congr_left fun j _ => congrArg (Memory.read m) (by simp [Nat.add_comm, Nat.add_left_comm]))

/-! ## A voice that pins an invalidated sector (R142) -/

/-- A voice's record after the sector `k` it reads has become INVALID; `some` says whether an announcement is rendered. -/
def invalidVoice (k : Nat) (rendered : Bool) (x : Voice) : Voice :=
  if x.cur = some k ∧ x.state = .ending then { x with fadeSilent := true }
  else if x.cur = some k ∧ x.state = .playing ∧ rendered = true then { x with state := .starved, stall := 0 }
  else x

/-- A voice that needs the sector `k` asks for it again. -/
def asksAgain (k : Nat) (x : Voice) : Prop :=
  (x.cur = some k ∧ (x.state = .playing ∨ x.state = .priming ∨ x.state = .starved)) ∨
    (x.next = some k ∧ (x.state = .playing ∨ x.state = .starved))

/-- Voice `v` waits for sector `k` in the fetch queue, at urgency `u` or above. -/
def AskedFor (k : Nat) (v : VoiceNo) (u : Nat) (t : State) : Prop :=
  ∃ e ∈ t.ccc.queue, e.sector = k ∧ v ∈ e.waiting ∧ u ≤ e.urgency

theorem askedFor_request {k u : Nat} {v : VoiceNo} (h : isCached s k = false) : AskedFor k v u (request v k u s) := by
  unfold request
  rw [if_neg (by rw [h]; exact Bool.false_ne_true)]
  split
  · next hq =>
    obtain ⟨e, he, hk⟩ := List.any_eq_true.mp hq
    have hk' : e.sector = k := by simpa using hk
    refine ⟨mergeEntry v u e, List.mem_map.mpr ⟨e, he, if_pos hk'⟩, hk', ?_, le_max_right _ _⟩
    unfold mergeEntry
    dsimp only
    split
    · next hv => simpa using hv
    · simp
  · exact ⟨_, List.mem_append_right _ (List.mem_singleton_self _), rfl, List.mem_singleton_self v, le_rfl⟩

theorem askedFor_kept {k u k' u' : Nat} {v w : VoiceNo} (h : AskedFor k v u s) : AskedFor k v u (request w k' u' s) := by
  obtain ⟨e, he, hk, hv, hu⟩ := h
  unfold request
  split
  · exact ⟨e, he, hk, hv, hu⟩
  · split
    · refine ⟨if e.sector = k' then mergeEntry w u' e else e, List.mem_map.mpr ⟨e, he, rfl⟩, ?_⟩
      split
      · refine ⟨hk, ?_, hu.trans (le_max_left _ _)⟩
        unfold mergeEntry
        dsimp only
        split
        · exact hv
        · exact List.mem_append_left _ hv
      · exact ⟨hk, hv, hu⟩
    · exact ⟨e, List.mem_append_left _ he, hk, hv, hu⟩

theorem invalidVoice_ending {k : Nat} {b : Bool} {x : Voice} (hc : x.cur = some k) (hs : x.state = .ending) :
    invalidVoice k b x = { x with fadeSilent := true } := if_pos ⟨hc, hs⟩

theorem invalidVoice_playing {k : Nat} {x : Voice} (hc : x.cur = some k) (hs : x.state = .playing) :
    invalidVoice k true x = { x with state := .starved, stall := 0 } := by
  rw [invalidVoice, if_neg (by simp [hs]), if_pos ⟨hc, hs, rfl⟩]

theorem invalidVoice_other {k : Nat} {b : Bool} {x : Voice} (h : x.cur = some k → x.state ≠ .ending ∧ (b = true → x.state ≠ .playing)) :
    invalidVoice k b x = x := by
  rw [invalidVoice, if_neg fun e => (h e.1).1 e.2, if_neg fun e => (h e.1).2 e.2.2 e.2.1]

/-- Without an announcement rendered an invalidated sector silences the fades on it. -/
theorem sectorInvalid_idle {k : Nat} {v : VoiceNo} (h : s.vpl.rendering = none) :
    sectorInvalid k s v = setVoice v (invalidVoice k false (voiceOf s v)) s := by
  unfold sectorInvalid
  dsimp only
  rw [h]
  dsimp only
  split
  · next hv => rw [invalidVoice_ending hv.2 hv.1]
  · next hv =>
    rw [invalidVoice_other (b := false) fun hc => ⟨fun he => hv ⟨he, hc⟩, fun e => absurd e Bool.false_ne_true⟩]
    exact (setVoice_self v s).symm

/-- With one rendered a voice is written as `invalidVoice` says, and asks again where it needs the sector. -/
theorem sectorInvalid_rendered {k : Nat} {v : VoiceNo} {r : RenderRec} (h : s.vpl.rendering = some r) :
    let t := setVoice v (invalidVoice k true (voiceOf s v)) s
    (asksAgain k (voiceOf s v) → sectorInvalid k s v = request v k (r.priority.val + 1) t) ∧
    (¬asksAgain k (voiceOf s v) → sectorInvalid k s v = t) := by
  have hself : setVoice v (voiceOf s v) s = s := setVoice_self v s
  unfold sectorInvalid asksAgain requestFor
  dsimp only
  rw [h]
  generalize voiceOf s v = x at hself ⊢
  by_cases hc : x.cur = some k
  · cases hs : x.state
    case playing => simp [hc, hs, invalidVoice_playing]
    case ending => simp [hc, hs, invalidVoice_ending]
    case priming | starved | gap | idle =>
      rw [invalidVoice_other fun _ => ⟨by simp [hs], by simp [hs]⟩, hself]
      simp [hc]
  · rw [invalidVoice_other fun e => absurd e hc, hself]
    simp only [hc, if_false, false_and, false_or]
    exact ⟨fun ha => if_pos ha, fun ha => if_neg ha⟩

/-- The voice's record written, and its request where it asks again. -/
theorem sectorInvalid_cases (k : Nat) (s : State) (v : VoiceNo) :
    let t := setVoice v (invalidVoice k s.vpl.rendering.isSome (voiceOf s v)) s
    (sectorInvalid k s v = t ∧ ∀ r, s.vpl.rendering = some r → ¬asksAgain k (voiceOf s v)) ∨
    ∃ r, s.vpl.rendering = some r ∧ sectorInvalid k s v = request v k (r.priority.val + 1) t := by
  intro t
  cases h : s.vpl.rendering with
  | none =>
    refine .inl ⟨(sectorInvalid_idle h).trans ?_, fun r hr => nomatch hr⟩
    simp only [t, h, Option.isSome_none]
  | some r =>
    obtain ⟨hasks, hnot⟩ := sectorInvalid_rendered (v := v) (k := k) h
    have ht : t = setVoice v (invalidVoice k true (voiceOf s v)) s := by simp only [t, h, Option.isSome_some]
    by_cases ha : asksAgain k (voiceOf s v)
    · exact .inr ⟨r, rfl, (hasks ha).trans (congrArg _ ht.symm)⟩
    · exact .inl ⟨(hnot ha).trans ht.symm, fun _ _ => ha⟩

theorem request_blocks (v : VoiceNo) (k u : Nat) (s : State) :
    (request v k u s).vpl = s.vpl ∧ { (request v k u s).ccc with queue := s.ccc.queue } = s.ccc ∧
      { request v k u s with vpl := s.vpl, ccc := s.ccc } = s := by
  obtain ⟨h1, h2⟩ := request_frame v k u s
  have hv : (request v k u s).vpl = s.vpl := (congrArg State.vpl h2 :)
  exact ⟨hv, h1, (congrArg (fun t : State => { t with vpl := s.vpl }) h2 :)⟩

theorem sectorInvalid_blocks (k : Nat) (s : State) (v : VoiceNo) :
    (sectorInvalid k s v).vpl = { s.vpl with
      voices := put s.vpl.voices v (invalidVoice k s.vpl.rendering.isSome (s.vpl.voices.get v)) } ∧
    { (sectorInvalid k s v).ccc with queue := s.ccc.queue } = s.ccc ∧
    { sectorInvalid k s v with vpl := s.vpl, ccc := s.ccc } = s := by
  rcases sectorInvalid_cases k s v with ⟨h, -⟩ | ⟨r, -, h⟩ <;> rw [h]
  · exact ⟨rfl, rfl, rfl⟩
  · obtain ⟨h1, h2, h3⟩ := request_blocks v k (r.priority.val + 1)
      (setVoice v (invalidVoice k s.vpl.rendering.isSome (voiceOf s v)) s)
    exact ⟨h1, h2, (congrArg (fun t : State => { t with vpl := s.vpl }) h3 :)⟩

theorem askedFor_sectorInvalid {k k' u : Nat} {v : VoiceNo} (h : AskedFor k v u s) (w : VoiceNo) :
    AskedFor k v u (sectorInvalid k' s w) := by
  rcases sectorInvalid_cases k' s w with ⟨he, -⟩ | ⟨r, -, he⟩ <;> rw [he]
  · exact h
  · exact askedFor_kept h

theorem isCached_ccc {t : State} (h : t.ccc.lines = s.ccc.lines) (k : Nat) : isCached t k = isCached s k := by
  unfold isCached lineFor lineOf
  rw [h]

/-- The voices' records, those of `l` after the sector they may read has become INVALID. -/
def invalidVoices (k : Nat) (rendered : Bool) (voices : Vector Voice 8) (l : List VoiceNo) : Vector Voice 8 :=
  Vector.ofFn fun v => if v ∈ l then invalidVoice k rendered (voices.get v) else voices.get v

/-- An invalidated sector brought to a list of voices: their records, and the requests of those that need it. -/
theorem foldl_sectorInvalid (k : Nat) : ∀ (l : List VoiceNo) (s : State), l.Nodup → isCached s k = false →
    (l.foldl (sectorInvalid k) s).vpl =
      { s.vpl with voices := invalidVoices k s.vpl.rendering.isSome s.vpl.voices l } ∧
    { (l.foldl (sectorInvalid k) s).ccc with queue := s.ccc.queue } = s.ccc ∧
    { l.foldl (sectorInvalid k) s with vpl := s.vpl, ccc := s.ccc } = s ∧
    ∀ v ∈ l, ∀ r, s.vpl.rendering = some r → asksAgain k (s.vpl.voices.get v) →
      AskedFor k v (r.priority.val + 1) (l.foldl (sectorInvalid k) s)
  | [], s, _, _ => by
    have hvoices : invalidVoices k s.vpl.rendering.isSome s.vpl.voices [] = s.vpl.voices := table_ext fun v => get_ofFn _ v
    rw [hvoices]
    exact ⟨rfl, rfl, rfl, nofun⟩
  | w :: l, s, h, hc => by
    obtain ⟨hw, hl⟩ := List.nodup_cons.mp h
    obtain ⟨hvpl, hccc, hrest⟩ := sectorInvalid_blocks k s w
    have hcached : isCached (sectorInvalid k s w) k = false := (isCached_ccc (congrArg Ccc.lines hccc :) k).trans hc
    obtain ⟨h1, h2, h3, h4⟩ := foldl_sectorInvalid k l (sectorInvalid k s w) hl hcached
    have hother (v : VoiceNo) (hv : v ∈ l) : (sectorInvalid k s w).vpl.voices.get v = s.vpl.voices.get v := by
      rw [hvpl]
      exact get_put_ne _ _ fun e => hw (e ▸ hv)
    rw [List.foldl_cons]
    refine ⟨?_, (congrArg (fun c : Ccc => { c with queue := s.ccc.queue }) h2 :).trans hccc,
      (congrArg (fun t : State => { t with vpl := s.vpl, ccc := s.ccc }) h3 :).trans hrest, fun v hv r hr ha => ?_⟩
    · rw [h1, hvpl]
      refine congrArg (fun x => { s.vpl with voices := x }) (congrArg Vector.ofFn (funext fun v => ?_))
      rw [get_put]
      by_cases hvw : v = w
      · subst hvw
        rw [if_neg hw, if_pos rfl, if_pos List.mem_cons_self]
      · rw [if_neg hvw]
        exact if_congr (by simp [hvw]) rfl rfl
    · by_cases hvl : v ∈ l
      · exact h4 v hvl r (by rw [hvpl]; exact hr) (by rw [hother v hvl]; exact ha)
      · obtain rfl : v = w := by simpa [hvl] using hv
        refine keep_foldl (P := AskedFor k v (r.priority.val + 1)) (fun x t ht => askedFor_sectorInvalid ht x) l _ ?_
        rcases sectorInvalid_cases k s v with ⟨-, hno⟩ | ⟨r', hr', he⟩
        · exact absurd ha (hno r hr)
        · obtain rfl : r' = r := Option.some.inj (hr'.symm.trans hr)
          rw [he]
          exact askedFor_request hc

/-! ## The cache sector of an ended operation (R142, R161) -/

/-- What the arbiter leaves of the cache: no sector becomes VALID, the use order gains none, and an entry that leaves the queue
is being fetched. -/
theorem arbiter_leaves (u : State) : (arbiter u).vpl = u.vpl ∧
    (∀ i k data, (arbiter u).ccc.lines.get i = .valid k data → u.ccc.lines.get i = .valid k data) ∧
    (∀ i, i ∈ (arbiter u).ccc.lru → i ∈ u.ccc.lru) ∧
    ∀ e ∈ u.ccc.queue, (∃ i, (arbiter u).ccc.lines.get i = .filling e.sector) ∨ e ∈ (arbiter u).ccc.queue := by
  refine ⟨(congrArg State.vpl (arbiter_frame u).1 :), ?_⟩
  rcases arbiter_cases u with h | ⟨-, e, i, he, hi, h⟩ | ⟨-, m, -, -, ⟨-, h⟩ | ⟨-, h⟩⟩ <;> rw [h]
  · exact ⟨fun _ _ _ h => h, fun _ h => h, fun _ h => .inr h⟩
  · refine ⟨fun j k data hj => ?_, fun j hj => List.mem_of_mem_filter hj, fun x hx => ?_⟩
    · have hput : (startFetch e.sector i u).ccc.lines.get j = if j = i then .filling e.sector else u.ccc.lines.get j :=
        get_put _ _ _ _
      rw [hput] at hj
      split at hj
      · cases hj
      · exact hj
    · by_cases hs : x.sector = e.sector
      · exact .inl ⟨i, hs ▸ get_put_same _ _ _⟩
      · exact .inr (List.mem_filter.mpr ⟨hx, by simpa using hs⟩)
  · exact ⟨fun _ _ _ h => h, fun _ h => h, fun _ h => .inr h⟩
  · exact ⟨fun _ _ _ h => h, fun _ h => h, fun _ h => .inr h⟩

/-- The cache and the voices after sector `k` has become INVALID in the line that held it. -/
theorem invalidateTag_held {k : Nat} {i : LineNo} (hi : validLine s k = some i) (hc : isCached (dropLine s i) k = false) :
    (invalidateTag k s).vpl =
      { s.vpl with voices := invalidVoices k s.vpl.rendering.isSome s.vpl.voices allVoices } ∧
    (invalidateTag k s).ccc.lines = put s.ccc.lines i .invalid ∧
    (invalidateTag k s).ccc.lru = s.ccc.lru.filter (· != i) ∧
    (k ∈ s.ccc.locks → ∃ e ∈ (invalidateTag k s).ccc.queue, e.sector = k) ∧
    ∀ v r, s.vpl.rendering = some r → asksAgain k (s.vpl.voices.get v) →
      AskedFor k v (r.priority.val + 1) (invalidateTag k s) := by
  obtain ⟨hvpl, hccc, -, hasks⟩ := foldl_sectorInvalid k allVoices (dropLine s i) (List.nodup_finRange 8) hc
  have hstate : invalidateTag k s = (let t := allVoices.foldl (sectorInvalid k) (dropLine s i)
      if isLocked t k then preload t k else t) := by
    rw [invalidateTag, hi]
  rw [hstate]
  generalize allVoices.foldl (sectorInvalid k) (dropLine s i) = t at hvpl hccc hasks ⊢
  have hcached : isCached t k = false := (isCached_ccc (congrArg Ccc.lines hccc :) k).trans hc
  have hlocks : t.ccc.locks = s.ccc.locks := (congrArg Ccc.locks hccc :)
  obtain ⟨⟨l, hq⟩, hp⟩ := preload_frame t k
  have hask (v : VoiceNo) (r : RenderRec) (hr : s.vpl.rendering = some r) (ha : asksAgain k (s.vpl.voices.get v)) :
      AskedFor k v (r.priority.val + 1) t := hasks v (List.mem_finRange v) r hr ha
  dsimp only
  split
  · refine ⟨(congrArg State.vpl hp :).trans hvpl, ?_, ?_, fun _ => ?_, fun v r hr ha => ?_⟩
    · exact (congrArg Ccc.lines hq).trans (congrArg Ccc.lines hccc :)
    · exact (congrArg Ccc.lru hq).trans (congrArg Ccc.lru hccc :)
    · have hnot : isCached (preload t k) k = false := (isCached_ccc (congrArg Ccc.lines hq :) k).trans hcached
      have hqueued : isQueued (preload t k) k = true := (preload_held t k).resolve_left (by rw [hnot]; exact Bool.false_ne_true)
      obtain ⟨e, he, hk⟩ := List.any_eq_true.mp hqueued
      exact ⟨e, he, by simpa using hk⟩
    · obtain ⟨e, he, hk⟩ := hask v r hr ha
      exact ⟨e, by rw [hq]; exact List.mem_append_left _ he, hk⟩
  · next hl =>
    refine ⟨hvpl, (congrArg Ccc.lines hccc :), (congrArg Ccc.lru hccc :), fun hk => ?_, hask⟩
    exact absurd (by rw [isLocked, hlocks]; simpa using hk) hl

theorem invalidateTag_free {k : Nat} (h : ∀ i data, s.ccc.lines.get i ≠ .valid k data) : invalidateTag k s = s := by
  rw [invalidateTag, validLine_none.mpr h]

/-- An ended operation's sector invalidated, under the arbiter (R142, R161). -/
theorem invalidated_arbiter {k : Nat} {t : State} (htags : TagsApart s.ccc.lines) (hccc : t.ccc = s.ccc) (hvpl : t.vpl = s.vpl) :
    invalidated k s (arbiter (invalidateTag k t)) := by
  obtain ⟨hav, hlines, hlru, hqueue⟩ := arbiter_leaves (invalidateTag k t)
  by_cases hheld : ∃ i data, s.ccc.lines.get i = .valid k data
  · obtain ⟨i, data, hi⟩ := hheld
    have hunique (j : LineNo) (hj : (s.ccc.lines.get j).tag = some k) : j = i := htags j i k hj (by rw [hi]; rfl)
    have hline : validLine t k = some i := validLine_some.mpr ⟨⟨data, by rw [hccc]; exact hi⟩, fun j hj d hd =>
      absurd (hunique j (by rw [← hccc, hd]; rfl)) (ne_of_lt hj)⟩
    have hcached : isCached (dropLine t i) k = false := by
      rw [Bool.eq_false_iff, ne_eq, isCached_iff]
      rintro ⟨j, hj⟩
      rw [dropLine, setLine, get_put] at hj
      split at hj
      · cases hj
      · next hne => exact hne (hunique j (by rw [← hccc]; exact hj))
    obtain ⟨hv, hl, hu, hlocked, hasks⟩ := invalidateTag_held hline hcached
    rw [hvpl] at hv hasks
    rw [hccc] at hl hu hlocked
    refine ⟨fun j d hj => ?_, fun j d hj hmem => ?_, fun h => absurd ⟨i, data, hi⟩ h, fun _ => ⟨?_, fun hk => ?_, fun v => ⟨?_, fun r hr ha => ?_⟩⟩⟩
    · have hu := hlines j k d hj
      rw [hl, get_put] at hu
      split at hu
      · cases hu
      · next hne => exact hne (hunique j (by rw [hu]; rfl))
    · have hmem := hlru j hmem
      rw [hu] at hmem
      have hji : j = i := hunique j (by rw [hj]; rfl)
      simp [hji] at hmem
    · rw [hav, hv]
    · obtain ⟨e, he, hek⟩ := hlocked hk
      rcases hqueue e he with ⟨j, hj⟩ | hq
      · exact .inl ⟨j, hek ▸ hj⟩
      · exact .inr ⟨e, hq, hek⟩
    · rw [hav, hv, invalidVoices, get_ofFn, if_pos (show v ∈ allVoices from List.mem_finRange v)]
      exact rfl
    · obtain ⟨e, he, hek, hw, hurg⟩ := hasks v r hr ha
      rcases hqueue e he with ⟨j, hj⟩ | hq
      · exact .inl ⟨j, hek ▸ hj⟩
      · exact .inr ⟨e, hq, hek, hw, hurg⟩
  · have hfree : invalidateTag k t = t := invalidateTag_free fun i d h => hheld ⟨i, d, hccc ▸ h⟩
    rw [hfree] at hav hlines hlru hqueue ⊢
    refine ⟨fun j d hj => ?_, fun j d hj => absurd ⟨j, d, hj⟩ hheld, fun _ => hav.trans hvpl, fun h => absurd h hheld⟩
    exact hheld ⟨j, d, hccc ▸ hlines j k d hj⟩

/-! ## The end of an operation (R26, R160, R161) -/

theorem invalidateTag_frame (k : Nat) (s : State) : { invalidateTag k s with vpl := s.vpl, ccc := s.ccc } = s := by
  unfold invalidateTag
  split
  · rfl
  · next i _ =>
    dsimp only
    have hfold : { allVoices.foldl (sectorInvalid k) (dropLine s i) with vpl := s.vpl, ccc := s.ccc } = s := by
      refine keep_foldl (P := fun t => { t with vpl := s.vpl, ccc := s.ccc } = s) (fun v t ht => ?_) _ _ rfl
      obtain ⟨-, -, h⟩ := sectorInvalid_blocks k t v
      exact (congrArg (fun u : State => { u with vpl := s.vpl, ccc := s.ccc }) h :).trans ht
    split
    · exact (congrArg (fun u : State => { u with vpl := s.vpl, ccc := s.ccc }) (preload_frame _ k).2 :).trans hfold
    · exact hfold

theorem arbiter_noMaint (h : s.cmp.maint = none) : (arbiter s).cmp.maint = none := by
  rcases arbiter_cases s with e | ⟨-, x, i, -, -, e⟩ | ⟨-, m, hm, -⟩
  · rw [e, h]
  · rw [e]
    exact h
  · rw [h] at hm
    cases hm

/-- What ends of an operation touches: its reply place, the cache and the voices. -/
theorem endMaint_frame (op : MaintOp) (p : List Byte) (s : State) :
    (endMaint op p s).cmp.maint = none ∧ (endMaint op p s).cth = { s.cth with replies := fillReserved p s.cth.replies } ∧
    { endMaint op p s with cth := s.cth, vpl := s.vpl, ccc := s.ccc, cmp := s.cmp } = s := by
  let t := deferredReply p { s with cmp := { s.cmp with maint := none } }
  have hu : ∃ u, endMaint op p s = arbiter u ∧ { u with vpl := s.vpl, ccc := s.ccc } = t := by
    unfold endMaint
    cases op.tag with
    | none => exact ⟨t, rfl, rfl⟩
    | some k => exact ⟨invalidateTag k t, rfl, invalidateTag_frame k t⟩
  obtain ⟨u, he, hf⟩ := hu
  have hm : u.cmp.maint = none := (congrArg (fun x : State => x.cmp.maint) hf :)
  have hframe := arbiter_settled_frame (s := u) fun _ m hu => by rw [hm] at hu; cases hu
  rw [he]
  refine ⟨arbiter_noMaint hm, (congrArg State.cth hframe :).trans (congrArg State.cth hf :), ?_⟩
  exact (congrArg (fun x : State => { x with cth := s.cth, vpl := s.vpl, ccc := s.ccc, cmp := s.cmp }) hframe :).trans
    (congrArg (fun x : State => { x with cth := s.cth, cmp := s.cmp }) hf :)

/-- What an ended erase or program invalidates (R142, R161). -/
theorem endMaint_invalidates {op : MaintOp} {p : List Byte} {k : Nat} {t : State} (hk : op.tag = some k)
    (htags : TagsApart s.ccc.lines) (hccc : t.ccc = s.ccc) (hvpl : t.vpl = s.vpl) : invalidated k s (endMaint op p t) := by
  unfold endMaint
  rw [hk]
  exact invalidated_arbiter (t := deferredReply p { t with cmp := { t.cmp with maint := none } }) htags hccc hvpl

theorem endMaint_read {a n : Nat} {p : List Byte} : { endMaint (.read a n) p s with cth := s.cth, ccc := s.ccc, cmp := s.cmp } = s := by
  have hframe := arbiter_settled_frame (s := deferredReply p { s with cmp := { s.cmp with maint := none } })
    fun _ m hm => nomatch hm
  exact (congrArg (fun x : State => { x with cth := s.cth, ccc := s.ccc, cmp := s.cmp }) hframe :)

theorem tag_of_written {op : MaintOp} {k : Nat} (h : op = .erase k ∨ ∃ a bytes, op = .program a bytes ∧ k = a / 4096) :
    op.tag = some k := by
  rcases h with rfl | ⟨a, bytes, rfl, rfl⟩ <;> rfl

theorem memoryReady_quiet (h : ∀ m, s.cmp.maint = some m → m.stage = .pending) : memoryReady s = finishDevice s := by
  have hm : (finishDevice s).cmp.maint = s.cmp.maint := rfl
  unfold memoryReady
  dsimp only
  rw [hm]
  cases hc : s.cmp.maint with
  | none => rfl
  | some m =>
    dsimp only
    rw [h m hc]

theorem memoryReady_waits {m : Maint} (hm : s.cmp.maint = some m) (hs : m.stage = .waitReady) :
    memoryReady s = transfer m (finishDevice s) := by
  have hf : (finishDevice s).cmp.maint = some m := hm
  unfold memoryReady
  dsimp only
  rw [hf]
  dsimp only
  rw [hs]

theorem memoryReady_sent {m : Maint} (hm : s.cmp.maint = some m) (hs : m.stage = .sent) :
    memoryReady s = endMaint m.op (m.op.outcome s.dev.finish) (finishDevice s) := by
  have hf : (finishDevice s).cmp.maint = some m := hm
  unfold memoryReady
  dsimp only
  rw [hf]
  dsimp only
  rw [hs]
  exact rfl

theorem outcome_written {op : MaintOp} (h : ∀ a n, op ≠ .read a n) (d : Device) : op.outcome d = [0] := by
  cases op with
  | read a n => exact absurd rfl (h a n)
  | erase _ => rfl
  | program _ _ => rfl

/-- Settles O51: the ready indication by the operation's stage, and the operation that has run out of time. -/
theorem maintenanceEnds : Obligations.MaintenanceEnds := by
  unfold Obligations.MaintenanceEnds
  intro inside left ran
  have hran {d : Device} (hw : d.bytes.wf = true) : ran d d.finish := ran_finish hw
  have htagsOf {s : State} (hr : s.power.running = true) (h : CacheKept s) : TagsApart s.ccc.lines := by
    obtain ⟨htags, -⟩ := (cacheKept_iff s).mp h hr
    exact htags
  have hready {s t : State} (hr : s.power.running = true) (h : memoryReady s = t) : exec .memoryReady s = .next t :=
    congrArg Host.Outcome.next ((if_pos hr).trans h)
  refine ⟨fun s hr hm => ⟨fun hb => ?_, fun hb hw => ?_⟩, fun s m hr hm hw => ⟨fun hs => ?_, fun a n hs hop hb => ?_, fun hs hb hg => ?_⟩,
    fun s m hr hm => ⟨fun h => ?_, fun hs hticks => ?_⟩⟩
  · refine hready hr ((memoryReady_quiet hm).trans ?_)
    rw [finishDevice, finish_none hb]
  · exact ⟨finishDevice s, hready hr (memoryReady_quiet hm), finish_busy _, finish_givenUp hb, hran hw, rfl⟩
  · refine ⟨_, hready hr (memoryReady_waits hm hs), rfl, fun hop => ?_, fun a n hop => ?_, (ran_finish hw).start m.op, rfl⟩
    · have hdev : (transfer m (finishDevice s)).dev = { s.dev.finish with busy := some m.op, givenUp := false } :=
        start_transfer hop _
      rw [hdev]
      exact ⟨rfl, rfl⟩
    · have hdev : (transfer m (finishDevice s)).dev = s.dev.finish := congrArg s.dev.finish.start hop
      rw [hdev, finish_busy]
  · have hstate : finishDevice s = s := by rw [finishDevice, finish_none hb]
    have hend := memoryReady_sent hm hs
    rw [hop, finish_none hb, hstate] at hend
    obtain ⟨hmaint, hcth, -⟩ := endMaint_frame (.read a n) ((MaintOp.read a n).outcome s.dev) s
    refine ⟨_, hready hr hend, hmaint, fun before p after hl hp hbefore => ?_, fun hno => ?_, endMaint_read⟩
    · rw [hcth, hl, fillReserved_append before hbefore hp, MaintOp.outcome, memory_bytes]
      exact rfl
    · rw [hcth, fillReserved_none hno]
  · obtain ⟨hmaint, hcth, hframe⟩ := endMaint_frame m.op (m.op.outcome s.dev.finish) (finishDevice s)
    have hdev : (endMaint m.op (m.op.outcome s.dev.finish) (finishDevice s)).dev = s.dev.finish := (congrArg State.dev hframe :)
    refine ⟨_, hready hr (memoryReady_sent hm hs), hmaint, ?_, ?_, ?_, fun hk k hop => ?_, fun hop before p after hl hp hbefore => ?_⟩
    · rw [hdev, finish_busy]
    · rw [hdev]
      exact finish_givenUp (by rw [hb]; simp)
    · rw [hdev]
      exact hran hw
    · exact endMaint_invalidates (tag_of_written hop) (htagsOf hr hk) rfl rfl
    · have hreplies : (finishDevice s).cth.replies = before ++ p :: after := hl
      rw [hcth, hreplies, fillReserved_append before hbefore hp, outcome_written hop]
  · refine (whenRunning_running hr).trans (congrArg _ ?_)
    show maintenanceTimesOut s = s
    unfold maintenanceTimesOut
    rw [hm]
    exact if_pos h
  · have hend : maintenanceTimesOut s =
        endMaint m.op [9] (if m.stage = .sent then { s with dev := s.dev.giveUp } else s) := by
      unfold maintenanceTimesOut
      rw [hm]
      exact if_neg fun h => h.elim hs fun hlt => absurd hlt (Nat.not_lt.mpr hticks)
    obtain ⟨hmaint, hcth, hframe⟩ := endMaint_frame m.op [9] (if m.stage = .sent then { s with dev := s.dev.giveUp } else s)
    have hinv (k : Nat) (htags : TagsApart s.ccc.lines) (hop : m.op.tag = some k) : invalidated k s
        (endMaint m.op [9] (if m.stage = .sent then { s with dev := s.dev.giveUp } else s)) :=
      endMaint_invalidates hop htags (by split <;> rfl) (by split <;> rfl)
    have hgive : (if m.stage = .sent then { s with dev := s.dev.giveUp } else s) =
        { s with dev := { s.dev with givenUp := if m.stage = .sent then s.dev.busy.isSome else s.dev.givenUp } } := by
      split <;> rfl
    rw [hgive] at hmaint hcth hframe hinv hend
    refine ⟨_, (whenRunning_running hr).trans (congrArg _ hend), hmaint, fun before p after hl hp hbefore => ?_,
      (congrArg Cth.settings hcth :), (congrArg State.tif hframe :), (congrArg State.scc hframe :), (congrArg State.hmx hframe :),
      (congrArg State.zou hframe :), (congrArg State.rce hframe :), (congrArg State.lmc hframe :),
      fun hk k hop => hinv k (htagsOf hr hk) (tag_of_written hop), (congrArg State.dev hframe :)⟩
    rw [hcth, ← fillReserved_append before hbefore hp, ← hl]

end Sys2Proof.Proofs
end

section
/-! PROOFS. DECK_RESET and its effect on every block (R36, R88, R107, R127, R144, R163). -/

namespace Sys2Proof.Proofs

open Sys2Proof Sys2Proof.Machine Sys2Proof.Laws

variable {s : State}

/-- A preload's entry (R156). -/
def preloadEntry (k : Nat) : FetchEntry := { sector := k, urgency := 0, waiting := [] }

/-- Preloads of any sectors: each that is neither cached nor queued joins the queue once. -/
theorem foldl_preload_once : ∀ (l : List Nat) (t : State), ∃ ks : List Nat,
    l.foldl preload t = { t with ccc := { t.ccc with queue := t.ccc.queue ++ ks.map preloadEntry } } ∧ ks.Nodup ∧
    ∀ k, k ∈ ks ↔ k ∈ l ∧ isCached t k = false ∧ isQueued t k = false
  | [], t => ⟨[], by rw [List.map_nil, List.append_nil]; rfl, List.nodup_nil, fun k => by simp⟩
  | x :: l, t => by
    by_cases hheld : (isCached t x || isQueued t x) = true
    · have hpre : preload t x = t := if_pos hheld
      obtain ⟨ks, heq, hn, hk⟩ := foldl_preload_once l t
      refine ⟨ks, by rw [List.foldl_cons, hpre, heq], hn, fun k => (hk k).trans ?_⟩
      refine and_congr_left fun ⟨hc, hq⟩ => (List.mem_cons.trans (or_iff_right fun e => ?_)).symm
      rw [← e, hc, hq] at hheld
      exact absurd hheld (by decide)
    · have hpre : preload t x = { t with ccc := { t.ccc with queue := t.ccc.queue ++ [preloadEntry x] } } := if_neg hheld
      obtain ⟨ks, heq, hn, hk⟩ := foldl_preload_once l (preload t x)
      obtain ⟨hc, hq⟩ : isCached t x = false ∧ isQueued t x = false := by simpa using hheld
      have hcached (k : Nat) : isCached (preload t x) k = isCached t k := by rw [hpre]; rfl
      have hqueued (k : Nat) : isQueued (preload t x) k = (isQueued t k || (x == k)) := by
        rw [hpre]
        simp [isQueued, preloadEntry]
      simp only [hcached, hqueued, Bool.or_eq_false_iff, beq_eq_false_iff_ne] at hk
      refine ⟨x :: ks, ?_, List.nodup_cons.mpr ⟨fun h => ((hk x).mp h).2.2.2 rfl, hn⟩, fun k => ?_⟩
      · rw [List.foldl_cons, heq, hpre]
        simp only [List.append_assoc, List.map_cons, List.singleton_append]
      · rw [List.mem_cons, List.mem_cons, hk k]
        by_cases hkx : k = x
        · subst hkx
          simp [hc, hq]
        · have hxk : x ≠ k := fun e => hkx e.symm
          simp [hkx, hxk]

/-- What the deck reset leaves of the blocks before the cache's part (R36, R88, R107, R127, R144). -/
def clearedDeck (s : State) : State := { s with
  cth := { s.cth with
    assembly := none, replies := [], lost := false, deckPending := false, deckDue := false, cause := .deck,
    notices := if s.rce.state = .idle then [] else [.routeState .idle 0 false] },
  rce := { s.rce with
    cues := mapTable (fun c => { c with state := .pending }) s.rce.cues, cursor := 0, lastOdo := 0, state := .idle },
  asq := { s.asq with current := none, stack := [], queue := [], softCut := false, report := none },
  vpl := { voices := Vector.replicate 8 Reset.voice, rendering := none, prev := none },
  zou := { s.zou with zones := Vector.ofFn fun z => { s.zou.zones.get z with quiet := false, duck := 0 }, summary := none } }

theorem deckResetRce_eq (s : State) : deckResetRce (deckResetCth s) = { s with
    cth := (clearedDeck s).cth, rce := (clearedDeck s).rce } := by
  by_cases h : s.rce.state = .idle
  · simp only [deckResetRce, deckResetCth, allPending, clearedDeck, setRce, h, if_true]
  · simp only [deckResetRce, deckResetCth, allPending, clearedDeck, setRce, routeNotice, pushNotice, Config.noticePlaces,
      List.length_nil, List.nil_append, h, if_false, Nat.reduceLeDiff]

theorem deckResetZou_eq (t : State) : deckResetZou (deckResetVpl (deckResetAsq t)) = { t with
    asq := { t.asq with current := none, stack := [], queue := [], softCut := false, report := none },
    vpl := { voices := Vector.replicate 8 Reset.voice, rendering := none, prev := none },
    zou := { t.zou with
      zones := Vector.ofFn fun z => { t.zou.zones.get z with quiet := false, duck := 0 }, summary := none } } := by
  have hall (z : Zone) : inMask 0xF z = true := by revert z; decide
  simp only [deckResetZou, deckResetVpl, deckResetAsq, duckChange, setAsq, setQuiet, hall, if_true, get_ofFn, duckTarget,
    Reset.vpl]

theorem deckReset_eq (s : State) : deckReset s = deckResetCache (clearedDeck s) := by
  rw [deckReset, deckResetRce_eq, deckResetZou_eq]
  exact rfl

/-- The maintenance operation that the reset leaves: one that has started (R163). -/
theorem maint_reset (s : State) : (if maintWaits s then none else s.cmp.maint) = (match s.cmp.maint with
    | some m => if m.stage = .pending then none else some m
    | none => none) := by
  unfold maintWaits
  cases s.cmp.maint with
  | none => rfl
  | some m => exact if_congr beq_iff_eq rfl rfl

/-- The fetch queue after a deck reset (R163). -/
theorem locked_preloads (s : State) : ∃ queue : List FetchEntry,
    (∀ k, (∃ e ∈ queue, e.sector = k) ↔ k ∈ s.ccc.locks ∧ ∀ i, (s.ccc.lines.get i).tag ≠ some k) ∧
    (queue.map FetchEntry.sector).Nodup ∧ (∀ e ∈ queue, e.urgency = 0 ∧ e.waiting = []) ∧
    (s.ccc.locks.Nodup → queue.map FetchEntry.sector =
      s.ccc.locks.filter fun k => !(List.finRange 32).any fun i => decide ((s.ccc.lines.get i).tag = some k)) ∧
    deckResetCache s = arbiter { s with
      ccc := { s.ccc with queue := queue },
      cmp := { s.cmp with maint := if maintWaits s then none else s.cmp.maint } } := by
  let t := { s with ccc := { s.ccc with queue := [] },
                    cmp := { s.cmp with maint := if maintWaits s then none else s.cmp.maint } }
  have hcached (k : Nat) : isCached t k = isCached s k := rfl
  have hqueued (k : Nat) : isQueued t k = false := rfl
  obtain ⟨ks, heq, hn, hk⟩ := foldl_preload_once s.ccc.locks t
  have hsectors : (ks.map preloadEntry).map FetchEntry.sector = ks := by
    rw [List.map_map]
    exact List.map_id ks
  refine ⟨ks.map preloadEntry, fun k => ?_, hsectors.symm ▸ hn, fun e he => ?_, fun hlocks => ?_, ?_⟩
  · have hmem : (∃ e ∈ ks.map preloadEntry, e.sector = k) ↔ k ∈ (ks.map preloadEntry).map FetchEntry.sector := List.mem_map.symm
    rw [hmem, hsectors, hk k, hcached, hqueued, Bool.eq_false_iff, ne_eq, isCached_iff]
    simp
  · obtain ⟨k, -, rfl⟩ := List.mem_map.mp he
    exact ⟨rfl, rfl⟩
  · have hboth := (foldl_preload s.ccc.locks t hlocks).symm.trans heq
    have hq := congrArg (fun x : State => x.ccc.queue.map FetchEntry.sector) hboth
    have hfilter : (t.ccc.queue ++ (s.ccc.locks.filter fun k => !isCached t k && !isQueued t k).map fun k =>
        ({ sector := k, urgency := 0, waiting := [] } : FetchEntry)).map FetchEntry.sector =
        s.ccc.locks.filter fun k => !isCached t k && !isQueued t k := by
      rw [show t.ccc.queue = [] from rfl, List.nil_append, List.map_map]
      exact List.map_id _
    have hks : (t.ccc.queue ++ ks.map preloadEntry).map FetchEntry.sector = ks := hsectors
    rw [hsectors]
    refine (hks.symm.trans (hq.symm.trans hfilter)).trans (List.filter_congr fun k _ => ?_)
    have hb (i : LineNo) : ((s.ccc.lines.get i).tag == some k) = decide ((s.ccc.lines.get i).tag = some k) := by
      rw [Bool.eq_iff_iff, beq_iff_eq, decide_eq_true_iff]
    rw [hqueued, hcached, isCached_eq]
    simp only [Bool.not_false, Bool.and_true, hb]
  · exact congrArg arbiter heq

/-- Settles O55: the blocks cleared in turn, then the locked sectors preloaded under the arbiter. -/
theorem deckResetActs : Obligations.DeckResetActs := by
  intro s
  refine ⟨fun ht => ?_, fun hr hd => ?_, fun c hc => ?_⟩
  · rw [exec_request rfl, whenLocked_takes ht]
    unfold takeRequest
    rw [discarded_takes ht]
    exact rfl
  · exact (whenRunning_running hr).trans (congrArg _ (if_neg (by rw [hd]; exact Bool.false_ne_true)))
  · have hexec : exec c s = .next (deckReset s) := by
      rcases hc with ⟨rfl, ht⟩ | ⟨rfl, hr, hd⟩
      · exact exec_request rfl s |>.trans (request_takes ht rfl)
      · exact (whenRunning_running hr).trans (congrArg _ (if_pos hd))
    obtain ⟨queue, h1, h2, h3, h4, h5⟩ := locked_preloads (clearedDeck s)
    refine ⟨queue, h1, h2, h3, h4, ?_⟩
    rw [hexec, deckReset_eq, h5, maint_reset]
    exact rfl

end Sys2Proof.Proofs
end

section
/-! PROOFS. One group at a scan-frame boundary: its advance, its held change, and the record it is left with (R170 to R173,
R182, R183). -/

namespace Sys2Proof.Proofs

open Sys2Proof Sys2Proof.Machine Sys2Proof.Laws

/-! ## Phases (R170, R173) -/

/-- The lengths that a phase begins with: the ON phase adopts a pending pair (R170, R173). -/
theorem adopted_eq (x : Group) : (if x.phaseOn then adoptPending x else x) =
    (let pair := if x.phaseOn then x.pending.getD (x.pat.onLen, x.pat.offLen) else (x.pat.onLen, x.pat.offLen)
     { x with pat := { x.pat with onLen := pair.1, offLen := pair.2 }, pending := if x.phaseOn then none else x.pending }) := by
  obtain ⟨pat, pending, source, follow, hold, safety, running, phaseOn, begun, framesLeft, pulsesLeft, level, ign, stands⟩ := x
  cases phaseOn with
  | false => rfl
  | true =>
    cases pending with
    | none => rfl
    | some pair => rfl

theorem beginPhase_eq {x : Group} (hm : x.pat.mode ≠ .off) : beginPhase x = newPhase x := by
  have h := adopted_eq x
  unfold beginPhase newPhase phaseLevel
  rw [h]
  dsimp only
  cases hmode : x.pat.mode with
  | off => exact absurd hmode hm
  | steady | blink | pulses | fade => rfl

/-- The OFF phase begun (R170). -/
theorem newPhase_off {x : Group} (hm : x.pat.mode = .blink ∨ x.pat.mode = .pulses) (hon : x.phaseOn = false) :
    newPhase x = { x with begun := true, framesLeft := x.pat.offLen, level := x.pat.levelOff } := by
  obtain ⟨⟨mode, levelOn, levelOff, onLen, offLen, pulseCount, fadeStep⟩, pending, source, follow, hold, safety, running, phaseOn,
    begun, framesLeft, pulsesLeft, level, ign, stands⟩ := x
  cases hon
  rcases hm with hm | hm <;> cases hm <;> rfl

/-- The ON phase begun (R170). -/
theorem newPhase_on {x : Group} (hm : x.pat.mode = .blink ∨ x.pat.mode = .pulses) (hon : x.phaseOn = true) :
    newPhase x = (let pair := x.pending.getD (x.pat.onLen, x.pat.offLen)
      { x with pat := { x.pat with onLen := pair.1, offLen := pair.2 }, pending := none, begun := true,
               framesLeft := pair.1, level := x.pat.levelOn }) := by
  obtain ⟨⟨mode, levelOn, levelOff, onLen, offLen, pulseCount, fadeStep⟩, pending, source, follow, hold, safety, running, phaseOn,
    begun, framesLeft, pulsesLeft, level, ign, stands⟩ := x
  cases hon
  rcases hm with hm | hm <;> cases hm <;> rfl

theorem advance_ended (x : Group) : (advance x).ended = lastBurst x := by
  unfold advance lastBurst Advance.to Advance.begin
  cases x.stands with
  | true => simp
  | false =>
    cases x.begun with
    | false => simp
    | true =>
      cases x.pat.mode with
      | off | steady => rfl
      | blink => simp; split <;> rfl
      | fade => simp; split <;> [rfl; (split <;> rfl)]
      | pulses =>
        by_cases hl : 1 < x.framesLeft
        · simp [hl]
        · cases x.phaseOn with
          | true => simp [hl]
          | false =>
            by_cases hp : 1 < x.pulsesLeft
            · simp [hl, hp]
            · simp [hl, hp]; omega

theorem lastBurst_pulses {x : Group} (hb : x.begun = true) (hs : x.stands = false) (hm : x.pat.mode = .pulses) :
    lastBurst x = true ↔ ¬1 < x.framesLeft ∧ x.phaseOn = false ∧ ¬1 < x.pulsesLeft := by
  simp [lastBurst, hb, hs, hm, and_assoc]

theorem lastBurst_other {x : Group} (hm : x.pat.mode ≠ .pulses) : lastBurst x = false := by
  simp [lastBurst, hm]

/-- The advance of a running group is what it is counted to (R170 to R172). -/
theorem advance_eq {x : Group} (hr : x.running = true) (hm : x.pat.mode ≠ .off) :
    (advance x).held = (counted x).1 ∧ (advance x).full = (counted x).2 := by
  have hbegin {y : Group} (hy : y.pat.mode = x.pat.mode) :
      (Advance.begin y).held = y ∧ (Advance.begin y).full = newPhase y := ⟨rfl, beginPhase_eq (hy ▸ hm)⟩
  cases hs : x.stands with
  | true => simp [advance, counted, hs, Advance.to]
  | false =>
    cases hb : x.begun with
    | false => simpa [advance, counted, hs, hb] using hbegin rfl
    | true =>
      cases hmode : x.pat.mode with
      | off => exact absurd hmode hm
      | steady => simp [advance, counted, hs, hb, hmode, lastBurst_other]
      | blink =>
        have hno : lastBurst x = false := lastBurst_other (by rw [hmode]; decide)
        by_cases hl : 1 < x.framesLeft
        · simp [advance, counted, hs, hb, hmode, hno, hl, phaseLevel]
        · have hflip := hbegin (y := flipPhase x) rfl
          simpa [advance, counted, hs, hb, hmode, hno, hl, flipPhase] using hflip
      | pulses =>
        have hlast := lastBurst_pulses hb hs hmode
        by_cases hl : 1 < x.framesLeft
        · have hno : lastBurst x = false := Bool.eq_false_iff.mpr fun h => (hlast.mp h).1 hl
          simp [advance, counted, hs, hb, hmode, hno, hl, phaseLevel]
        · cases hon : x.phaseOn with
          | true =>
            have hno : lastBurst x = false := Bool.eq_false_iff.mpr fun h => by simp [hon] at hlast; simp [hlast] at h
            have hflip := hbegin (y := flipPhase x) rfl
            simpa [advance, counted, hs, hb, hmode, hno, hl, hon, flipPhase] using hflip
          | false =>
            by_cases hp : 1 < x.pulsesLeft
            · have hno : lastBurst x = false := Bool.eq_false_iff.mpr fun h => (hlast.mp h).2.2 hp
              have hflip := hbegin (y := flipPhase { x with pulsesLeft := x.pulsesLeft - 1 }) rfl
              simpa [advance, counted, hs, hb, hmode, hno, hl, hon, hp, flipPhase] using hflip
            · have hyes : lastBurst x = true := hlast.mpr ⟨hl, hon, hp⟩
              simp [advance, counted, hs, hb, hmode, hyes, hl, hon, hp, stoppedGroup, afterStop, hr]
      | fade =>
        have hno : lastBurst x = false := lastBurst_other (by rw [hmode]; decide)
        by_cases hlevel : x.level = x.pat.levelOn
        · simp [advance, counted, hs, hb, hmode, hno, hlevel, Advance.to]
        · by_cases hl : 1 < x.framesLeft
          · simp [advance, counted, hs, hb, hmode, hno, hlevel, hl, Advance.to]
          · simp [advance, counted, hs, hb, hmode, hno, hlevel, hl]

/-! ## The count of a flashing group (R171, R172) -/

/-- The phase of a flashing group counts on. -/
theorem counted_within {x : Group} (hs : x.stands = false) (hb : x.begun = true)
    (hm : x.pat.mode = .blink ∨ x.pat.mode = .pulses) (hl : 1 < x.framesLeft) : lastBurst x = false ∧
    (counted x).2 = { x with framesLeft := x.framesLeft - 1,
                             level := if x.phaseOn then x.pat.levelOn else x.pat.levelOff } := by
  have hno : lastBurst x = false := by simp [lastBurst, Nat.not_le.mpr hl]
  refine ⟨hno, ?_⟩
  rcases hm with hm | hm <;> simp [counted, hs, hb, hno, hm, hl]

/-- The phase of a flashing group is over: the other one begins. -/
theorem counted_over {x : Group} (hs : x.stands = false) (hb : x.begun = true)
    (hm : x.pat.mode = .blink ∨ x.pat.mode = .pulses) (hl : x.framesLeft ≤ 1) (hno : lastBurst x = false) :
    (counted x).2 = newPhase { x with
      phaseOn := !x.phaseOn, begun := false, framesLeft := 0,
      pulsesLeft := if x.pat.mode = .pulses ∧ x.phaseOn = false then x.pulsesLeft - 1 else x.pulsesLeft } := by
  have hover : ¬1 < x.framesLeft := Nat.not_lt.mpr hl
  rcases hm with hm | hm <;> simp [counted, hs, hb, hno, hm, hover]

/-- The ON phase of a flashing group is over. -/
theorem counted_on {x : Group} (hs : x.stands = false) (hb : x.begun = true)
    (hm : x.pat.mode = .blink ∨ x.pat.mode = .pulses) (hl : x.framesLeft ≤ 1) (hon : x.phaseOn = true) : lastBurst x = false ∧
    (counted x).2 = { x with phaseOn := false, framesLeft := x.pat.offLen, level := x.pat.levelOff } := by
  have hno : lastBurst x = false := by simp [lastBurst, hon]
  refine ⟨hno, ?_⟩
  rw [counted_over hs hb hm hl hno, newPhase_off (by exact hm) (by simp [hon])]
  simp [hb, hon]

/-- The OFF phase of a flashing group is over, with a burst to follow. -/
theorem counted_off {x : Group} (hs : x.stands = false) (hb : x.begun = true)
    (hm : x.pat.mode = .blink ∨ x.pat.mode = .pulses ∧ 1 < x.pulsesLeft) (hl : x.framesLeft ≤ 1) (hon : x.phaseOn = false) :
    lastBurst x = false ∧ (counted x).2 =
      (let pair := x.pending.getD (x.pat.onLen, x.pat.offLen)
       { x with pat := { x.pat with onLen := pair.1, offLen := pair.2 }, pending := none, phaseOn := true,
                framesLeft := pair.1, level := x.pat.levelOn,
                pulsesLeft := if x.pat.mode = .pulses then x.pulsesLeft - 1 else x.pulsesLeft }) := by
  have hno : lastBurst x = false := by
    rcases hm with hm | ⟨hm, hp⟩
    · simp [lastBurst, hm]
    · simp [lastBurst, Nat.not_le.mpr hp]
  have hm := hm.imp id And.left
  refine ⟨hno, ?_⟩
  rw [counted_over hs hb hm hl hno, newPhase_on (by exact hm) (by simp [hon])]
  simp [hb, hon]

theorem heldChange_eq {x : Group} (hr : x.running = true) (hm : x.pat.mode ≠ .off) : heldChange x = grantedGroup x := by
  unfold heldChange grantedGroup
  rw [beginPhase_eq hm, (advance_eq hr hm).2]
  cases x.begun <;> rfl

/-! ## What an advance keeps of a group -/

/-- The start source and the safety flag are the same. -/
def SameUse (x y : Group) : Prop := y.source = x.source ∧ y.safety = x.safety

theorem SameUse.refl (x : Group) : SameUse x x := ⟨rfl, rfl⟩

theorem sameUse_beginPhase (x : Group) : SameUse x (beginPhase x) := by
  have hy : SameUse x (if x.phaseOn then adoptPending x else x) := by
    rw [adopted_eq]
    exact ⟨rfl, rfl⟩
  unfold beginPhase
  generalize (if x.phaseOn then adoptPending x else x) = y at hy
  dsimp only
  split <;> exact hy

theorem sameUse_begin {x y : Group} (h : SameUse x y) :
    SameUse x (Advance.begin y).held ∧ SameUse x (Advance.begin y).full := by
  obtain ⟨h1, h2⟩ := sameUse_beginPhase y
  exact ⟨h, h1.trans h.1, h2.trans h.2⟩

theorem sameUse_advance (x : Group) : SameUse x (advance x).held ∧ SameUse x (advance x).full := by
  have hflip (y : Group) (hy : SameUse x y) := sameUse_begin (y := flipPhase y) hy
  unfold advance
  split
  · exact ⟨⟨rfl, rfl⟩, rfl, rfl⟩
  split
  · exact sameUse_begin (.refl x)
  split
  · exact ⟨⟨rfl, rfl⟩, rfl, rfl⟩
  · exact ⟨⟨rfl, rfl⟩, rfl, rfl⟩
  · split
    · exact ⟨⟨rfl, rfl⟩, rfl, rfl⟩
    · exact hflip x (.refl x)
  · split
    · exact ⟨⟨rfl, rfl⟩, rfl, rfl⟩
    · split
      · exact hflip x (.refl x)
      · split
        · exact hflip { x with pulsesLeft := x.pulsesLeft - 1 } ⟨rfl, rfl⟩
        · exact ⟨⟨rfl, rfl⟩, rfl, rfl⟩
  · split
    · exact ⟨⟨rfl, rfl⟩, rfl, rfl⟩
    · split
      · exact ⟨⟨rfl, rfl⟩, rfl, rfl⟩
      · exact ⟨⟨rfl, rfl⟩, rfl, rfl⟩

theorem sameUse_heldChange (x : Group) : SameUse x (heldChange x) := by
  unfold heldChange
  split
  · exact sameUse_beginPhase x
  · split
    · exact .refl x
    · exact (sameUse_advance x).2

theorem sameUse_afterStart {x y : Group} (h : SameUse x y) : SameUse x (afterStart y) := by
  unfold afterStart afterStop
  split
  · split <;> exact h
  · exact h

/-! ## The record that a boundary leaves (R170, R182) -/

/-- The change of a running group is from dark to light (R182). -/
def rises (x : Group) : Bool := !lastBurst x && decide (x.level = 0) && decide (0 < (advance x).full.level)

/-- A running group advanced without an ignition, where `lights` says that groups ask for light. -/
def calmGroup (lights : Bool) (x : Group) : Group :=
  if lastBurst x then afterStop x
  else { (advance x).full with ign := if lights && decide (0 < x.level) && (advance x).full.level == 0 then .dark else x.ign }

/-- A rise granted, and one held. -/
def litGroup (x : Group) : Group := { (advance x).full with ign := .lit }

def queuedGroup (x : Group) : Group := { (advance x).held with ign := .waiting, stands := false }

variable {s : State} {g : GroupNo}

/-- One group's advance by its record (R170, R182, R183). -/
theorem advanceGroup_eq (s : State) (g : GroupNo) : advanceGroup s g =
    if ignitable s && rises (groupOf s g) then
      if budgetLeft s then setGroup g (litGroup (groupOf s g)) (recordGrant s)
      else queueIgnition g (setGroup g (advance (groupOf s g)).held s)
    else if lastBurst (groupOf s g) then stopGroup g s
    else setGroup g (calmGroup (ignitable s) (groupOf s g)) s := by
  unfold advanceGroup rises calmGroup litGroup
  dsimp only
  rw [advance_ended]
  cases hl : lastBurst (groupOf s g) with
  | true => simp
  | false =>
    have hign : (advance (groupOf s g)).full.ign = (groupOf s g).ign := by
      rcases advance_cases (groupOf s g) with ⟨he, -⟩ | ⟨-, -, hf⟩
      · rw [advance_ended, hl] at he
        cases he
      · exact hf.ign
    simp only [Bool.false_eq_true, if_false, Bool.not_false, Bool.true_and, hign]
    refine if_congr ?_ rfl rfl
    simp [Bool.and_assoc]

/-- What a boundary makes of a group that it advances. -/
def Moved (lights : Bool) (x y : Group) : Prop :=
  if lights && rises x then y = litGroup x ∨ y = queuedGroup x else y = calmGroup lights x

theorem advanceGroup_moved (s : State) (g : GroupNo) :
    Moved (ignitable s) (s.lmc.groups.get g) ((advanceGroup s g).lmc.groups.get g) := by
  rw [advanceGroup_eq]
  by_cases hr : (ignitable s && rises (groupOf s g)) = true
  · rw [if_pos hr, Moved, if_pos (show (ignitable s && rises (s.lmc.groups.get g)) = true from hr)]
    split
    · left
      rw [setGroup_get, if_pos rfl]
      rfl
    · right
      rw [queueIgnition_get, if_pos rfl, setGroup_get, if_pos rfl]
      rfl
  · rw [if_neg hr, Moved, if_neg (show ¬(ignitable s && rises (s.lmc.groups.get g)) = true from hr)]
    split
    · next hl =>
      rw [stopGroup_eq, withGroups_get, onlyGroup, if_pos rfl, calmGroup]
      exact (if_pos hl).symm
    · rw [setGroup_get, if_pos rfl]
      rfl

theorem sameUse_moved {lights : Bool} {x y : Group} (h : Moved lights x y) : SameUse x y := by
  obtain ⟨hheld, hfull⟩ := sameUse_advance x
  unfold Moved at h
  split at h
  · rcases h with rfl | rfl
    · exact hfull
    · exact hheld
  · subst h
    unfold calmGroup afterStop
    split
    · split <;> exact ⟨rfl, rfl⟩
    · exact hfull

/-! ## What a boundary leaves alone -/

/-- Only the groups, the ignition queue and the history differ. -/
def LampsOnly (s u : State) : Prop :=
  { u.lmc with groups := s.lmc.groups, ignQueue := s.lmc.ignQueue, history := s.lmc.history } = s.lmc ∧
    { u with lmc := s.lmc } = s

theorem LampsOnly.refl (s : State) : LampsOnly s s := ⟨rfl, rfl⟩

theorem LampsOnly.trans {s u v : State} (h : LampsOnly s u) (h' : LampsOnly u v) : LampsOnly s v := by
  obtain ⟨h1, h2⟩ := h
  obtain ⟨h3, h4⟩ := h'
  exact ⟨(congrArg (fun l : Lmc => { l with groups := s.lmc.groups, ignQueue := s.lmc.ignQueue, history := s.lmc.history }) h3 :).trans h1,
    (congrArg (fun t : State => { t with lmc := s.lmc }) h4 :).trans h2⟩

theorem lampsOnly_setGroup (g : GroupNo) (x : Group) (s : State) : LampsOnly s (setGroup g x s) := ⟨rfl, rfl⟩

theorem lampsOnly_withGroups (f : GroupNo → Group → Group) (s : State) : LampsOnly s (withGroups f s) := by
  unfold withGroups
  exact ⟨rfl, rfl⟩

theorem lampsOnly_recordGrant (s : State) : LampsOnly s (recordGrant s) := ⟨rfl, rfl⟩

theorem lampsOnly_queueIgnition (g : GroupNo) (s : State) : LampsOnly s (queueIgnition g s) := ⟨rfl, rfl⟩

theorem lampsOnly_advanceGroup (s : State) (g : GroupNo) : LampsOnly s (advanceGroup s g) := by
  rw [advanceGroup_eq]
  split
  · split
    · exact (lampsOnly_recordGrant s).trans (lampsOnly_setGroup g _ _)
    · exact (lampsOnly_setGroup g _ s).trans (lampsOnly_queueIgnition g _)
  · split
    · rw [stopGroup_eq]
      exact lampsOnly_withGroups _ s
    · exact lampsOnly_setGroup g _ s

theorem LampsOnly.ignitable {s u : State} (h : LampsOnly s u) : ignitable u = ignitable s := by
  have h1 : u.lmc.supply = s.lmc.supply := (congrArg Lmc.supply h.1 :)
  have h2 : u.lmc.override = s.lmc.override := (congrArg Lmc.override h.1 :)
  rw [Machine.ignitable, Machine.ignitable, h1, h2]

/-- Every group that a boundary advances is moved from what it was, and no other changes. -/
theorem foldl_advanceGroup : ∀ (l : List GroupNo) (s : State), l.Nodup →
    LampsOnly s (l.foldl advanceGroup s) ∧
    (∀ g ∈ l, Moved (ignitable s) (s.lmc.groups.get g) ((l.foldl advanceGroup s).lmc.groups.get g)) ∧
    ∀ g ∉ l, (l.foldl advanceGroup s).lmc.groups.get g = s.lmc.groups.get g
  | [], s, _ => ⟨.refl s, nofun, fun _ _ => rfl⟩
  | k :: l, s, h => by
    obtain ⟨hk, hl⟩ := List.nodup_cons.mp h
    obtain ⟨h1, h2, h3⟩ := foldl_advanceGroup l (advanceGroup s k) hl
    have hone := lampsOnly_advanceGroup s k
    refine ⟨hone.trans h1, fun g hg => ?_, fun g hg => ?_⟩
    · rw [List.foldl_cons]
      by_cases hgk : g = k
      · subst hgk
        rw [h3 g hk]
        exact advanceGroup_moved s g
      · have hm := h2 g ((List.mem_cons.mp hg).resolve_left hgk)
        rw [hone.ignitable, advanceGroup_get hgk] at hm
        exact hm
    · obtain ⟨hgk, hgl⟩ := not_or.mp (mt List.mem_cons.mpr hg)
      rw [List.foldl_cons, h3 g hgl, advanceGroup_get hgk]

/-! ## The queue served (R183) -/

/-- A group served from the queue: its held change made, and LIT. -/
def servedGroup (x : Group) : Group := { heldChange x with ign := .lit }

/-- The state after the queue's head has been served. -/
def headServed (g : GroupNo) (rest : List GroupNo) (s : State) : State :=
  let t := setGroup g (servedGroup (groupOf s g)) (recordGrant s)
  { t with lmc := { t.lmc with ignQueue := rest } }

theorem headServed_get (g k : GroupNo) (rest : List GroupNo) (s : State) :
    (headServed g rest s).lmc.groups.get k = if k = g then servedGroup (s.lmc.groups.get g) else s.lmc.groups.get k :=
  setGroup_get g k _ _

theorem lampsOnly_headServed (g : GroupNo) (rest : List GroupNo) (s : State) : LampsOnly s (headServed g rest s) := by
  have h := (lampsOnly_recordGrant s).trans (lampsOnly_setGroup g (servedGroup (groupOf s g)) _)
  unfold headServed
  generalize setGroup g (servedGroup (groupOf s g)) (recordGrant s) = t at h ⊢
  exact h.trans ⟨rfl, rfl⟩

theorem serveIgnition_cons {g : GroupNo} {rest : List GroupNo} (n : Nat) (hq : s.lmc.ignQueue = g :: rest) :
    serveIgnition (n + 1) s = if budgetLeft s then
        ((serveIgnition n (headServed g rest s)).1, g :: (serveIgnition n (headServed g rest s)).2)
      else (s, []) := by
  rw [serveIgnition, hq]
  rfl

theorem serveIgnition_nil (n : Nat) (hq : s.lmc.ignQueue = []) : serveIgnition n s = (s, []) := by
  cases n with
  | zero => rfl
  | succ n => rw [serveIgnition, hq]

theorem serveIgnition_spec : ∀ (n : Nat) (s : State), s.lmc.ignQueue.Nodup →
    LampsOnly s (serveIgnition n s).1 ∧
    s.lmc.ignQueue = (serveIgnition n s).2 ++ (serveIgnition n s).1.lmc.ignQueue ∧
    ∀ g, (serveIgnition n s).1.lmc.groups.get g =
      if g ∈ (serveIgnition n s).2 then servedGroup (s.lmc.groups.get g) else s.lmc.groups.get g
  | 0, s, _ => ⟨.refl s, rfl, fun _ => rfl⟩
  | n + 1, s, h => by
    cases hq : s.lmc.ignQueue with
    | nil =>
      rw [serveIgnition_nil _ hq]
      exact ⟨.refl s, hq.symm, fun _ => rfl⟩
    | cons k rest =>
      rw [serveIgnition_cons n hq]
      split
      · rw [hq] at h
        obtain ⟨hk, hrest⟩ := List.nodup_cons.mp h
        obtain ⟨h1, h2, h3⟩ := serveIgnition_spec n (headServed k rest s) hrest
        have hsplit : rest = (serveIgnition n (headServed k rest s)).2 ++ _ := h2
        have hnot : k ∉ (serveIgnition n (headServed k rest s)).2 := fun hm => hk (hsplit ▸ List.mem_append_left _ hm)
        refine ⟨(lampsOnly_headServed k rest s).trans h1, congrArg (k :: ·) hsplit, fun g => (h3 g).trans ?_⟩
        rw [headServed_get]
        by_cases hg : g = k
        · subst hg
          rw [if_neg hnot, if_pos rfl, if_pos List.mem_cons_self]
        · rw [if_neg hg]
          exact if_congr (by simp [hg]) rfl rfl
      · exact ⟨.refl s, hq.symm, fun _ => rfl⟩

/-! ## The chain starts (R172, R174) -/

/-- A group after the ends of last bursts: started where its start source is the chain of one of them. -/
def chainedBy (ended : List GroupNo) (x : Group) : Group :=
  match x.source with
  | .chain k => if k ∈ ended then afterStart x else x
  | _ => x

theorem chainedBy_cons {k : GroupNo} {ended : List GroupNo} (hk : k ∉ ended) (x : Group) :
    chainedBy ended (if x.source == .chain k then afterStart x else x) = chainedBy (k :: ended) x := by
  have hsource : (afterStart x).source = x.source := (sameUse_afterStart (.refl x)).1
  cases hs : x.source with
  | chain j =>
    by_cases hj : j = k
    · subst hj
      rw [if_pos (by simp), chainedBy, chainedBy, hsource, hs]
      dsimp only
      rw [if_neg hk, if_pos List.mem_cons_self]
    · rw [if_neg (by simp [hj]), chainedBy, chainedBy, hs]
      exact if_congr (by simp [hj]) rfl rfl
  | none | stopRequest | announce _ _ | alarm =>
    rw [if_neg (by simp), chainedBy, chainedBy, hs]

theorem foldl_lampChain : ∀ (ended : List GroupNo) (s : State), ended.Nodup →
    ended.foldl (fun s k => lampChain k s) s = withGroups (fun _ => chainedBy ended) s
  | [], s, _ => by
    refine (withGroups_id fun g => ?_).symm
    unfold chainedBy
    split
    · exact if_neg List.not_mem_nil
    · rfl
  | k :: ended, s, h => by
    obtain ⟨hk, hrest⟩ := List.nodup_cons.mp h
    rw [List.foldl_cons, foldl_lampChain ended _ hrest, lampChain_eq, withGroups_withGroups]
    · exact withGroups_congr fun g => chainedBy_cons hk _
    · intro g x
      by_cases hx : (x.source == StartSource.chain k) = true
      · right
        have hsource : (afterStart x).source = .chain k := (sameUse_afterStart (.refl x)).1.trans (beq_iff_eq.mp hx)
        rw [if_pos hx, chainedBy, hsource]
        exact congrArg Group.running (if_neg hk)
      · left
        rw [if_neg hx]

/-! ## The boundary (R164, R165) -/

/-- The scan rows are read, and no boundary is due any more. -/
def boundaryTaken (s : State) : State :=
  { s with lmc := { s.lmc with scanRows := s.cth.settings.rows, boundaryDue := false } }

/-- The state after the ignition queue has been served, and the groups served. -/
def boundaryServed (s : State) : State × List GroupNo :=
  if ignitable s then serveIgnition s.lmc.ignQueue.length (boundaryTaken s) else (boundaryTaken s, [])

/-- The groups that a boundary advances, in their order. -/
def boundaryTodo (s : State) : List GroupNo :=
  (requestOrder (boundaryServed s).1).filter (advances (boundaryServed s).1 (boundaryServed s).2)

/-- The groups whose last burst ends. -/
def boundaryEnded (s : State) : List GroupNo :=
  allGroups.filter fun g => (boundaryTodo s).contains g && lastBurst (groupOf (boundaryServed s).1 g)

/-- The state after every group has been advanced. -/
def boundaryAdvanced (s : State) : State := (boundaryTodo s).foldl advanceGroup (boundaryServed s).1

theorem advanceFrame_eq (s : State) : advanceFrame s =
    driveRow (withGroups (fun _ => chainedBy (boundaryEnded s)) (boundaryAdvanced s)) := by
  have hended : boundaryEnded s = allGroups.filter fun g =>
      (boundaryTodo s).contains g && (advance (groupOf (boundaryServed s).1 g)).ended := by
    simp only [boundaryEnded, advance_ended]
  rw [← foldl_lampChain (boundaryEnded s) (boundaryAdvanced s) (allGroups_nodup.filter _), hended]
  rfl

theorem boundaryTodo_nodup (s : State) : (boundaryTodo s).Nodup := (requestOrder_nodup _).filter _

/-- What a boundary does to the groups, by the groups served. -/
theorem boundaryServed_spec (s : State) (hn : ignitable s = true → s.lmc.ignQueue.Nodup) :
    LampsOnly (boundaryTaken s) (boundaryServed s).1 ∧
    (∀ g ∈ (boundaryServed s).2, g ∈ s.lmc.ignQueue) ∧
    (ignitable s = false → (boundaryServed s).2 = []) ∧
    ∀ g, (boundaryServed s).1.lmc.groups.get g =
      if g ∈ (boundaryServed s).2 then servedGroup (s.lmc.groups.get g) else s.lmc.groups.get g := by
  unfold boundaryServed
  split
  · next hi =>
    obtain ⟨h1, h2, h3⟩ := serveIgnition_spec s.lmc.ignQueue.length (boundaryTaken s) (hn hi)
    have hq : s.lmc.ignQueue = _ := h2
    exact ⟨h1, fun g hg => hq ▸ List.mem_append_left _ hg, fun hno => absurd (hi.symm.trans hno) (by decide), h3⟩
  · exact ⟨.refl _, nofun, fun _ => rfl, fun _ => rfl⟩

/-- The groups that a boundary advances, by their records before it. -/
theorem mem_boundaryTodo {s : State} (hn : ignitable s = true → s.lmc.ignQueue.Nodup) {g : GroupNo} : g ∈ boundaryTodo s ↔
    (s.lmc.groups.get g).running = true ∧ (s.lmc.groups.get g).ign ≠ .waiting ∧ g ∉ (boundaryServed s).2 := by
  obtain ⟨-, -, -, hget⟩ := boundaryServed_spec s hn
  rw [boundaryTodo, List.mem_filter, advances, groupOf, hget g]
  simp only [mem_requestOrder, true_and, Bool.and_eq_true, bne_iff_ne, Bool.not_eq_true', List.contains_eq_mem,
    decide_eq_false_iff_not, and_assoc]
  by_cases hg : g ∈ (boundaryServed s).2
  · simp [hg]
  · simp [hg]

/-- The record of a group after the boundary, its chain start apart. -/
theorem boundaryAdvanced_spec {s : State} (hn : ignitable s = true → s.lmc.ignQueue.Nodup) (g : GroupNo) :
    LampsOnly (boundaryTaken s) (boundaryAdvanced s) ∧
    (g ∈ (boundaryServed s).2 → (boundaryAdvanced s).lmc.groups.get g = servedGroup (s.lmc.groups.get g)) ∧
    (g ∉ (boundaryServed s).2 → (s.lmc.groups.get g).running = true → (s.lmc.groups.get g).ign ≠ .waiting →
      Moved (ignitable s) (s.lmc.groups.get g) ((boundaryAdvanced s).lmc.groups.get g)) ∧
    (g ∉ (boundaryServed s).2 → ¬((s.lmc.groups.get g).running = true ∧ (s.lmc.groups.get g).ign ≠ .waiting) →
      (boundaryAdvanced s).lmc.groups.get g = s.lmc.groups.get g) := by
  obtain ⟨honly, -, -, hget⟩ := boundaryServed_spec s hn
  obtain ⟨h1, h2, h3⟩ := foldl_advanceGroup (boundaryTodo s) (boundaryServed s).1 (boundaryTodo_nodup s)
  have hmem := mem_boundaryTodo hn (g := g)
  have hlights : ignitable (boundaryServed s).1 = ignitable s := honly.ignitable
  refine ⟨honly.trans h1, fun hg => ?_, fun hg hr hw => ?_, fun hg hno => ?_⟩
  · rw [boundaryAdvanced, h3 g fun h => (hmem.mp h).2.2 hg, hget, if_pos hg]
  · have hm := h2 g (hmem.mpr ⟨hr, hw, hg⟩)
    rw [hlights, hget, if_neg hg] at hm
    exact hm
  · rw [boundaryAdvanced, h3 g fun h => hno ⟨(hmem.mp h).1, (hmem.mp h).2.1⟩, hget, if_neg hg]

theorem sameUse_boundary {s : State} (hn : ignitable s = true → s.lmc.ignQueue.Nodup) (g : GroupNo) :
    SameUse (s.lmc.groups.get g) ((boundaryAdvanced s).lmc.groups.get g) := by
  obtain ⟨-, hserved, hmoved, hsame⟩ := boundaryAdvanced_spec hn g
  by_cases hg : g ∈ (boundaryServed s).2
  · rw [hserved hg]
    exact sameUse_heldChange _
  · by_cases hr : (s.lmc.groups.get g).running = true ∧ (s.lmc.groups.get g).ign ≠ .waiting
    · exact sameUse_moved (hmoved hg hr.1 hr.2)
    · rw [hsame hg hr]
      exact .refl _

theorem mem_boundaryEnded {s : State} (hn : ignitable s = true → s.lmc.ignQueue.Nodup)
    (hserved : ∀ g ∈ (boundaryServed s).2, (s.lmc.groups.get g).ign = .waiting) {k : GroupNo} : k ∈ boundaryEnded s ↔
    ((s.lmc.groups.get k).running && (s.lmc.groups.get k).ign != .waiting && lastBurst (s.lmc.groups.get k)) = true := by
  obtain ⟨-, -, -, hget⟩ := boundaryServed_spec s hn
  rw [boundaryEnded, List.mem_filter, groupOf, hget k]
  simp only [allGroups, List.mem_finRange, true_and, Bool.and_eq_true, bne_iff_ne, List.contains_eq_mem, decide_eq_true_eq,
    mem_boundaryTodo hn]
  by_cases hk : k ∈ (boundaryServed s).2
  · simp [hk, hserved k hk]
  · simp [hk, and_assoc]

/-- What the boundary leaves outside the groups, with the row slot driven (R164, R165). -/
theorem driveRow_spec {u : State} (h : LampsOnly (boundaryTaken s) u) :
    (driveRow u).lmc = u.lmc ∧
    (driveRow u).out = { s.out with row := some s.lmc.scanPos, columns := (driveRow u).out.columns } ∧
    (∀ col, (driveRow u).out.columns.get col =
      match (s.lmc.cells[s.lmc.scanPos * 24 + col.val]?).join with | none => 0 | some k => shownLevel u k) ∧
    { driveRow u with lmc := s.lmc, out := s.out } = s := by
  obtain ⟨hlmc, hrest⟩ := h
  have hpos : u.lmc.scanPos = s.lmc.scanPos := (congrArg Lmc.scanPos hlmc :)
  have hcells : u.lmc.cells = s.lmc.cells := (congrArg Lmc.cells hlmc :)
  have hout : u.out = s.out := (congrArg State.out hrest :)
  refine ⟨rfl, ?_, fun col => ?_, ?_⟩
  · unfold driveRow
    rw [hpos, hout]
  · unfold driveRow rowLevels
    dsimp only
    rw [get_ofFn]
    cases h : (s.lmc.cells[s.lmc.scanPos * 24 + col.val]?).join <;> simp only [hpos, hcells, h]
  · exact (congrArg (fun t : State => { t with lmc := s.lmc, out := s.out }) hrest :)

theorem exec_boundary_none {s : State} (hr : s.power.running = true) (hd : s.lmc.boundaryDue = false) :
    exec .scanFrameBoundary s = .next s :=
  (whenRunning_running hr).trans (congrArg _ (if_neg (by rw [hd]; exact Bool.false_ne_true)))

/-- A boundary that is due, by its stages. -/
theorem exec_boundary {s : State} (hr : s.power.running = true) (hd : s.lmc.boundaryDue = true) :
    exec .scanFrameBoundary s =
      .next (driveRow (withGroups (fun _ => chainedBy (boundaryEnded s)) (boundaryAdvanced s))) :=
  (whenRunning_running hr).trans (congrArg _ ((if_pos hd).trans (advanceFrame_eq s)))

theorem withGroups_history (f : GroupNo → Group → Group) (s : State) : (withGroups f s).lmc.history = s.lmc.history := by
  simp only [withGroups]

theorem foldl_advance_history : ∀ (l : List GroupNo) (s : State), ignitable s = false →
    (l.foldl advanceGroup s).lmc.history = s.lmc.history
  | [], _, _ => rfl
  | g :: l, s, h => by
    have hone : (advanceGroup s g).lmc.history = s.lmc.history := by
      rw [advanceGroup_eq, h]
      split
      · next hno => exact absurd hno (by simp)
      · split
        · rw [stopGroup_eq]
          exact withGroups_history _ s
        · exact rfl
    rw [List.foldl_cons, foldl_advance_history l _ ((lampsOnly_advanceGroup s g).ignitable.trans h), hone]

theorem boundaryAdvanced_history {s : State} (h : ignitable s = false) : (boundaryAdvanced s).lmc.history = s.lmc.history := by
  have hserved : (boundaryServed s).1 = boundaryTaken s := by
    unfold boundaryServed
    rw [h]
    exact rfl
  rw [boundaryAdvanced, hserved]
  exact foldl_advance_history _ _ h

theorem calmGroup_full {x : Group} (h : lastBurst x = false) : calmGroup false x = (advance x).full := by
  have hign : (advance x).full.ign = x.ign := by
    rcases advance_cases x with ⟨he, -⟩ | ⟨-, -, hf⟩
    · rw [advance_ended, h] at he
      cases he
    · exact hf.ign
  rw [calmGroup, h, ← hign]
  rfl

theorem LampsOnly.lmc_eq {s u : State} (h : LampsOnly s u) (hh : u.lmc.history = s.lmc.history) :
    { u.lmc with groups := s.lmc.groups } = { s.lmc with ignQueue := u.lmc.ignQueue } := by
  have h1 := congrArg (fun l : Lmc => { l with ignQueue := u.lmc.ignQueue }) h.1
  exact (congrArg (fun x => { u.lmc with groups := s.lmc.groups, history := x }) hh :).trans h1

/-- Settles O46: each group by its own record, before the chain starts. -/
theorem boundaryAdvancesGroup : Obligations.BoundaryAdvancesGroup := by
  unfold Obligations.BoundaryAdvancesGroup
  intro endsBurst chained shows
  have hshows (s : State) (k : GroupNo) : shownLevel s k = shows s k := by
    simp only [shownLevel, shows, groupOf]
    split
    · rfl
    · split
      · rfl
      · by_cases hw : (s.lmc.groups.get k).ign = .waiting
        · simp [hw]
        · by_cases hrun : (s.lmc.groups.get k).running = true <;> simp [hrun, hw]
  have hchained {s : State} (x y : Group) (hn : ignitable s = true → s.lmc.ignQueue.Nodup)
      (hserved : ∀ g ∈ (boundaryServed s).2, (s.lmc.groups.get g).ign = .waiting) (hu : y.source = x.source) :
      chainedBy (boundaryEnded s) y = chained s x y := by
    unfold chainedBy
    rw [hu]
    simp only [chained]
    cases x.source with
    | chain k => exact if_congr (mem_boundaryEnded hn hserved) rfl rfl
    | none | stopRequest | announce _ _ | alarm => rfl
  have hdriven {s : State} (hn : ignitable s = true → s.lmc.ignQueue.Nodup) (g : GroupNo) :=
    driveRow_spec ((boundaryAdvanced_spec hn g).1.trans
      (lampsOnly_withGroups (fun _ => chainedBy (boundaryEnded s)) (boundaryAdvanced s)))
  refine ⟨fun s hr hd => exec_boundary_none hr hd, ?_, ?_⟩
  · intro s g hr hd hno x hw
    have hi : ignitable s = false := Bool.eq_false_iff.mpr fun h => hno (ignitable_iff.mp h)
    have hn : ignitable s = true → s.lmc.ignQueue.Nodup := fun h => absurd (hi.symm.trans h) (by decide)
    obtain ⟨-, -, hnone, -⟩ := boundaryServed_spec s hn
    have hserved (k : GroupNo) : k ∉ (boundaryServed s).2 := by
      rw [hnone hi]
      exact List.not_mem_nil
    obtain ⟨honly, -, hmoved, hsame⟩ := boundaryAdvanced_spec hn g
    obtain ⟨hlmc, hout, hcols, hrest⟩ := hdriven hn g
    obtain ⟨y, hy⟩ : ∃ y, y = (boundaryAdvanced s).lmc.groups.get g := ⟨_, rfl⟩
    have hcalm (hrun : x.running = true) : y = calmGroup false x := by
      have h := hmoved (hserved g) hrun hw
      rw [hi, Moved, if_neg (by simp), ← hy] at h
      exact h
    refine ⟨_, y, exec_boundary hr hd, ?_, ?_, ?_, hout, fun col => (hcols col).trans ?_, hrest⟩
    · rw [hlmc, withGroups_get, ← hy]
      exact hchained x y hn (fun k hk => absurd hk (hserved k)) (hy ▸ (sameUse_boundary hn g).1)
    · have hall := honly.trans (lampsOnly_withGroups (fun _ => chainedBy (boundaryEnded s)) (boundaryAdvanced s))
      exact hall.lmc_eq ((withGroups_history _ _).trans (boundaryAdvanced_history hi))
    · refine ⟨fun hrun => ?_, ?_⟩
      · rw [hy]
        exact hsame (hserved g) fun h => absurd (hrun.symm.trans h.1) (by decide)
      · have hfull (hrun : x.running = true) (hl : lastBurst x = false) : y = (advance x).full :=
          (hcalm hrun).trans (calmGroup_full hl)
        have hcount (hrun : x.running = true) (hl : lastBurst x = false) (hm : x.pat.mode ≠ .off) : y = (counted x).2 :=
          (hfull hrun hl).trans (advance_eq hrun hm).2
        have hflash (hm : x.pat.mode = .blink ∨ x.pat.mode = .pulses) : x.pat.mode ≠ .off := by
          rcases hm with hm | hm <;> simp [hm]
        have hfresh (hrun : x.running = true) (hst : x.stands = false) (hb : x.begun = false) (hm : x.pat.mode ≠ .off) :
            y = newPhase x := by
          rw [hfull hrun (by simp [lastBurst, hb]), ← beginPhase_eq hm]
          simp [advance, hst, hb, Advance.begin]
        refine ⟨fun hrun hst => ?_, fun hrun hst hb hon => ⟨fun hm => ?_, fun hm => ?_, fun hm => ?_⟩, fun hrun hst hb hon hm => ?_,
          fun hrun hst hb => ⟨fun hm => ?_, fun hm hl => ?_, fun hm hl hon => ?_, fun hm hl hon => ?_, fun hm hl hon hp => ?_,
            fun hm hl hon hp => ?_, fun hm hv => ?_, fun hm hv hl => ?_, fun hm hv hl => ?_⟩⟩
        · rw [hfull hrun (by simp [lastBurst, hst])]
          simp [advance, hst, Advance.to]
        · rw [hfresh hrun hst hb (hflash hm), newPhase_on hm hon]
        · simp [hfresh hrun hst hb (by simp [hm]), newPhase, hon, hm]
        · simp [hfresh hrun hst hb (by simp [hm]), newPhase, hon, hm]
        · rw [hfresh hrun hst hb (hflash hm), newPhase_off hm hon]
        · rw [hcount hrun (lastBurst_other (by simp [hm])) (by simp [hm])]
          simp [counted, hst, hb, hm, lastBurst_other]
        · obtain ⟨hno, hc⟩ := counted_within hst hb hm hl
          exact (hcount hrun hno (hflash hm)).trans hc
        · obtain ⟨hno, hc⟩ := counted_on hst hb hm hl hon
          exact (hcount hrun hno (hflash hm)).trans hc
        · obtain ⟨hno, hc⟩ := counted_off hst hb (.inl hm) hl hon
          rw [hcount hrun hno (hflash (.inl hm)), hc]
          simp [hm]
        · obtain ⟨hno, hc⟩ := counted_off hst hb (.inr ⟨hm, hp⟩) hl hon
          rw [hcount hrun hno (hflash (.inr hm)), hc]
          simp [hm]
        · have hlast : lastBurst x = true := (lastBurst_pulses hb hst hm).mpr ⟨by omega, hon, by omega⟩
          rw [hcalm hrun, calmGroup, if_pos hlast]
        · rw [hcount hrun (lastBurst_other (by simp [hm])) (by simp [hm])]
          simp [counted, hst, hb, hm, lastBurst_other, hv]
        · rw [hcount hrun (lastBurst_other (by simp [hm])) (by simp [hm])]
          simp [counted, hst, hb, hm, lastBurst_other, hv, hl]
        · rw [hcount hrun (lastBurst_other (by simp [hm])) (by simp [hm])]
          simp [counted, hst, hb, hm, lastBurst_other, hv, Nat.not_lt.mpr hl]
    · cases (s.lmc.cells[s.lmc.scanPos * 24 + col.val]?).join with
      | none => rfl
      | some k => exact hshows _ k
  · intro s g hr hd hs ho hk x
    obtain ⟨hnodup, hwaits, hwaitRuns, -, hoff, -⟩ := hk
    have hi : ignitable s = true := ignitable_iff.mpr ⟨hs, ho⟩
    have hn : ignitable s = true → s.lmc.ignQueue.Nodup := fun _ => hnodup
    have hserved (k : GroupNo) (hk : k ∈ (boundaryServed s).2) : (s.lmc.groups.get k).ign = .waiting :=
      (hwaits k).mp ((boundaryServed_spec s hn).2.1 k hk)
    obtain ⟨honly, htaken, hmoved, hsame⟩ := boundaryAdvanced_spec hn g
    obtain ⟨hlmc, hout, hcols, hrest⟩ := hdriven hn g
    obtain ⟨y, hy⟩ : ∃ y, y = (boundaryAdvanced s).lmc.groups.get g := ⟨_, rfl⟩
    have hmode (hrun : x.running = true) : x.pat.mode ≠ .off := fun h => absurd ((hoff g h).symm.trans hrun) (by decide)
    have hfree (hw : x.ign ≠ .waiting) : g ∉ (boundaryServed s).2 := fun h => hw (hserved g h)
    have hmove (hrun : x.running = true) (hw : x.ign ≠ .waiting) : Moved true x y := by
      have h := hmoved (hfree hw) hrun hw
      rwa [hi, ← hy] at h
    refine ⟨_, y, exec_boundary hr hd, ?_, ⟨fun hrun hw => ⟨fun hl => ?_, fun hl hno => ?_, fun hl h0 hup => ?_⟩,
      fun hrun hw => ?_, fun hrun => ?_⟩, ?_, hout, fun col => (hcols col).trans ?_, hrest⟩
    · rw [hlmc, withGroups_get, ← hy]
      exact hchained x y hn hserved (hy ▸ (sameUse_boundary hn g).1)
    · have h := hmove hrun hw
      rwa [Moved, if_neg (by simp [rises, hl]), calmGroup, if_pos hl] at h
    · have h := hmove hrun hw
      have hfull := (advance_eq hrun (hmode hrun)).2
      rw [Moved, if_neg (by simpa [rises, hl, hfull] using hno), calmGroup, if_neg (by simp [hl]), hfull] at h
      simpa using h
    · have h := hmove hrun hw
      obtain ⟨hheld, hfull⟩ := advance_eq hrun (hmode hrun)
      rwa [Moved, if_pos (by simp [rises, hl, h0, hfull, hup]), litGroup, queuedGroup, hheld, hfull] at h
    · by_cases hg : g ∈ (boundaryServed s).2
      · right
        rw [hy, htaken hg, servedGroup, heldChange_eq hrun (hmode hrun)]
      · left
        rw [hy]
        exact hsame hg fun h => h.2 hw
    · have hg : g ∉ (boundaryServed s).2 := fun h => by
        have hrun' := hwaitRuns g (hserved g h)
        exact absurd (hrun.symm.trans hrun') (by decide)
      rw [hy]
      exact hsame hg fun h => absurd (hrun.symm.trans h.1) (by decide)
    · exact (honly.trans (lampsOnly_withGroups (fun _ => chainedBy (boundaryEnded s)) (boundaryAdvanced s))).1
    · cases (s.lmc.cells[s.lmc.scanPos * 24 + col.val]?).join with
      | none => rfl
      | some k => exact hshows _ k

end Sys2Proof.Proofs
end

section
/-! PROOFS. The ignition budget (R182, R183): how many grants a moment has free, what each grant takes of them, and who is
granted and who waits at a boundary. -/

namespace Sys2Proof.Proofs

open Sys2Proof Sys2Proof.Machine Sys2Proof.Laws

variable {s t u : State} {g : GroupNo}

/-! ## Grants and what they leave free -/

/-- The grants of the 19 ticks before and of this one. -/
def recentGrants (l : Lmc) : Nat := (l.history.filter fun n => decide (l.ticks < n + 20)).length

/-- The grants that may still be made in this tick. -/
def freeGrants (l : Lmc) : Nat := 4 - recentGrants l

/-- The last 4 grants of a history. -/
def lastGrants (h : List Nat) : List Nat := h.drop (h.length - 4)

theorem lastGrants_append (h k : List Nat) : lastGrants (lastGrants h ++ k) = lastGrants (h ++ k) := by
  have hle : h.length - 4 ≤ h.length := Nat.sub_le _ _
  unfold lastGrants
  rw [← List.drop_append_of_le_length hle, List.drop_drop, List.length_drop, List.length_append]
  congr 1
  omega

theorem recentGrants_le (h : HistoryHeld s.lmc) : recentGrants s.lmc ≤ 4 := (List.length_filter_le _ _).trans h.1

theorem budgetLeft_iff (s : State) : budgetLeft s = true ↔ 0 < freeGrants s.lmc := by
  rw [budgetLeft, decide_eq_true_eq, freeGrants, Nat.sub_pos_iff_lt]
  rfl

/-- From `s` to `u` grants have been made, `n` of them, all at this tick. -/
def Granted (n : Nat) (s u : State) : Prop :=
  u.lmc.history = lastGrants (s.lmc.history ++ List.replicate n s.lmc.ticks) ∧
    freeGrants s.lmc = freeGrants u.lmc + n ∧ u.lmc.ticks = s.lmc.ticks

theorem Granted.none (h : HistoryHeld s.lmc) (hh : u.lmc.history = s.lmc.history) (ht : u.lmc.ticks = s.lmc.ticks) :
    Granted 0 s u := by
  refine ⟨?_, ?_, ht⟩
  · rw [List.replicate_zero, List.append_nil, lastGrants, Nat.sub_eq_zero_of_le h.1, hh, List.drop_zero]
  · rw [freeGrants, freeGrants, recentGrants, recentGrants, hh, ht, Nat.add_zero]

theorem Granted.trans {n m : Nat} (h : Granted n s t) (h' : Granted m t u) : Granted (n + m) s u := by
  obtain ⟨hh, hf, ht⟩ := h
  obtain ⟨hh', hf', ht'⟩ := h'
  refine ⟨?_, by omega, ht'.trans ht⟩
  rw [hh', hh, ht, lastGrants_append, List.append_assoc, List.replicate_append_replicate]

theorem Granted.congr {n : Nat} (h : Granted n s t) (hh : u.lmc.history = t.lmc.history) (ht : u.lmc.ticks = t.lmc.ticks) :
    Granted n s u := by
  obtain ⟨h1, h2, h3⟩ := h
  exact ⟨hh.trans h1, by rw [h2, freeGrants, freeGrants, recentGrants, recentGrants, hh, ht], ht.trans h3⟩

theorem recordGrant_history (h : HistoryHeld s.lmc) :
    (recordGrant s).lmc.history = lastGrants (s.lmc.history ++ [s.lmc.ticks]) := by
  have hlen := h.1
  simp only [recordGrant, lastGrants, List.length_append, List.length_singleton]
  split
  · next hlt =>
    have hfull : s.lmc.history.length + 1 - 4 = 1 := by
      have : Config.ignitionBudget = 4 := rfl
      omega
    rw [hfull, List.drop_one]
  · next hge =>
    have hnone : s.lmc.history.length + 1 - 4 = 0 := by
      have : Config.ignitionBudget = 4 := rfl
      omega
    rw [hnone, List.drop_zero]

/-- A full history with a grant free has its oldest grant out of the window. -/
theorem recentGrants_tail (h : HistoryHeld s.lmc) (hfree : 0 < freeGrants s.lmc) (hfull : s.lmc.history.length = 4) :
    (s.lmc.history.tail.filter fun n => decide (s.lmc.ticks < n + 20)).length = recentGrants s.lmc := by
  obtain ⟨-, hord, -⟩ := h
  unfold freeGrants recentGrants at *
  cases hist : s.lmc.history with
  | nil => rfl
  | cons a rest =>
    rw [hist] at hfree hord hfull
    have hold : ¬s.lmc.ticks < a + 20 := fun ha => by
      have hall : (a :: rest).filter (fun n => decide (s.lmc.ticks < n + 20)) = a :: rest := by
        refine List.filter_eq_self.mpr fun n hn => decide_eq_true ?_
        rcases List.mem_cons.mp hn with rfl | hn
        · exact ha
        · have := List.rel_of_pairwise_cons hord hn
          omega
      rw [hall] at hfree
      omega
    rw [List.tail_cons, List.filter_cons_of_neg (by simpa using hold)]

theorem granted_recordGrant (h : HistoryHeld s.lmc) (hfree : 0 < freeGrants s.lmc) : Granted 1 s (recordGrant s) := by
  refine ⟨recordGrant_history h, ?_, rfl⟩
  have hone : [s.lmc.ticks].filter (fun n => decide (s.lmc.ticks < n + 20)) = [s.lmc.ticks] := by simp
  have hcount : recentGrants (recordGrant s).lmc = recentGrants s.lmc + 1 := by
    have hticks : (recordGrant s).lmc.ticks = s.lmc.ticks := rfl
    rw [recentGrants, recordGrant_history h, hticks, lastGrants, List.length_append, List.length_singleton]
    by_cases hfull : s.lmc.history.length = 4
    · have hne : s.lmc.history ≠ [] := fun e => by simp [e] at hfull
      rw [hfull, List.drop_one, List.tail_append_of_ne_nil hne, List.filter_append, hone, List.length_append,
        recentGrants_tail h hfree hfull, List.length_singleton]
    · have hroom : s.lmc.history.length + 1 - 4 = 0 := by
        have := h.1
        omega
      rw [hroom, List.drop_zero, List.filter_append, hone, List.length_append, List.length_singleton, recentGrants]
  unfold freeGrants at *
  omega

/-! ## The queue served -/

/-- The queue is served from its head, as many as are free. -/
theorem serveIgnition_granted : ∀ (n : Nat) (s : State), LampsKept True s.lmc → s.lmc.ignQueue.length ≤ n →
    (serveIgnition n s).2 = s.lmc.ignQueue.take (freeGrants s.lmc) ∧
    (serveIgnition n s).1.lmc.ignQueue = s.lmc.ignQueue.drop (freeGrants s.lmc) ∧
    Granted (s.lmc.ignQueue.take (freeGrants s.lmc)).length s (serveIgnition n s).1
  | 0, s, h, hn => by
    rw [List.eq_nil_of_length_eq_zero (Nat.le_zero.mp hn)]
    simp only [List.take_nil, List.drop_nil]
    exact ⟨rfl, List.eq_nil_of_length_eq_zero (Nat.le_zero.mp hn), .none (h.history trivial) rfl rfl⟩
  | n + 1, s, h, hn => by
    cases hq : s.lmc.ignQueue with
    | nil =>
      rw [serveIgnition_nil _ hq, List.take_nil, List.drop_nil]
      exact ⟨rfl, hq, .none (h.history trivial) rfl rfl⟩
    | cons k rest =>
      rw [serveIgnition_cons n hq]
      split
      · next hb =>
        have hone : Granted 1 s (headServed k rest s) :=
          (granted_recordGrant (h.history trivial) ((budgetLeft_iff s).mp hb)).congr rfl rfl
        have hkept : LampsKept True (headServed k rest s).lmc := lampsKept_served h hq
        obtain ⟨h1, h2, h3⟩ := serveIgnition_granted n (headServed k rest s) hkept
          (by rw [hq, List.length_cons] at hn; exact Nat.le_of_succ_le_succ hn)
        have hrest : (headServed k rest s).lmc.ignQueue = rest := rfl
        rw [hrest] at h1 h2 h3
        rw [hone.2.1, List.take_succ_cons, List.drop_succ_cons]
        refine ⟨congrArg (k :: ·) h1, h2, ?_⟩
        rw [List.length_cons, Nat.add_comm]
        exact hone.trans h3
      · next hb =>
        have hzero : freeGrants s.lmc = 0 := by
          have := mt (budgetLeft_iff s).mpr hb
          omega
        rw [hzero, List.take_zero, List.drop_zero]
        exact ⟨rfl, hq, .none (h.history trivial) rfl rfl⟩

/-! ## The groups asked -/

theorem withGroups_calm_queue {f : GroupNo → Group → Group} (h : ∀ k ∈ s.lmc.ignQueue,
    (s.lmc.groups.get k).running = true → (f k (s.lmc.groups.get k)).running = true) :
    (withGroups f s).lmc.ignQueue = s.lmc.ignQueue := by
  rw [withGroups_ignQueue]
  refine List.filter_eq_self.mpr fun k hk => ?_
  cases hr : (s.lmc.groups.get k).running with
  | false => rfl
  | true => rw [h k hk hr]; rfl

/-- A group that does not ask leaves the queue and the history. -/
theorem advanceGroup_calm (h : LampsKept True s.lmc) (hw : (s.lmc.groups.get g).ign ≠ .waiting)
    (hno : rises (s.lmc.groups.get g) = false) :
    (advanceGroup s g).lmc.ignQueue = s.lmc.ignQueue ∧ Granted 0 s (advanceGroup s g) := by
  rw [advanceGroup_eq, if_neg (show ¬(ignitable s && rises (groupOf s g)) = true by simp [groupOf, hno])]
  split
  · rw [stopGroup_eq]
    refine ⟨withGroups_calm_queue fun k hk hr => ?_, .none (h.history trivial) (withGroups_history _ s) (by simp only [withGroups])⟩
    have hne : k ≠ g := fun e => hw (e ▸ (h.waiting k).mp hk)
    rw [onlyGroup, if_neg hne, hr]
  · exact ⟨rfl, .none (h.history trivial) rfl rfl⟩

/-- A group that asks with a grant free is LIT. -/
theorem advanceGroup_lit (h : LampsKept True s.lmc) (hi : ignitable s = true) (hr : rises (s.lmc.groups.get g) = true)
    (hb : 0 < freeGrants s.lmc) : (advanceGroup s g).lmc.ignQueue = s.lmc.ignQueue ∧ Granted 1 s (advanceGroup s g) ∧
      ((advanceGroup s g).lmc.groups.get g).ign = .lit := by
  rw [advanceGroup_eq, if_pos (show (ignitable s && rises (groupOf s g)) = true by simp [groupOf, hi, hr]),
    if_pos ((budgetLeft_iff s).mpr hb)]
  refine ⟨rfl, (granted_recordGrant (h.history trivial) hb).congr rfl rfl, ?_⟩
  rw [setGroup_get, if_pos rfl]
  rfl

/-- A group that asks with none free waits in the queue. -/
theorem advanceGroup_queued (h : LampsKept True s.lmc) (hi : ignitable s = true)
    (hw : (s.lmc.groups.get g).ign ≠ .waiting) (hr : rises (s.lmc.groups.get g) = true) (hb : freeGrants s.lmc = 0) :
    (advanceGroup s g).lmc.ignQueue = insertIgnition (fun k => (s.lmc.groups.get k).safety) g s.lmc.ignQueue ∧
      Granted 0 s (advanceGroup s g) ∧ ((advanceGroup s g).lmc.groups.get g).ign = .waiting := by
  have hnone : ¬budgetLeft s = true := fun hl => absurd ((budgetLeft_iff s).mp hl) (by omega)
  rw [advanceGroup_eq, if_pos (show (ignitable s && rises (groupOf s g)) = true by simp [groupOf, hi, hr]), if_neg hnone]
  refine ⟨?_, .none (h.history trivial) rfl rfl, ?_⟩
  · have hsafe : (fun k => (groupOf (setGroup g { groupOf (setGroup g (advance (groupOf s g)).held s) g with
          ign := .waiting, stands := false } (setGroup g (advance (groupOf s g)).held s)) k).safety) =
        fun k => (s.lmc.groups.get k).safety := by
      funext k
      rw [groupOf, setGroup_get, groupOf, setGroup_get, setGroup_get, if_pos rfl]
      by_cases hk : k = g
      · subst hk
        rw [if_pos rfl]
        exact (sameUse_advance (groupOf s k)).1.2
      · rw [if_neg hk, if_neg hk]
    have hnot : ¬(s.lmc.ignQueue.contains g) = true := fun hm => hw ((h.waiting g).mp (List.contains_iff_mem.mp hm))
    exact (if_neg hnot).trans (congrArg (fun p => insertIgnition p g s.lmc.ignQueue) hsafe)
  · rw [queueIgnition_get, if_pos rfl]

/-- The groups of a list that ask for light. -/
def askers (s : State) (l : List GroupNo) : List GroupNo := l.filter fun g => rises (s.lmc.groups.get g)

theorem askers_congr {l : List GroupNo} (h : ∀ g ∈ l, t.lmc.groups.get g = s.lmc.groups.get g) : askers t l = askers s l :=
  List.filter_congr fun g hg => by rw [h g hg]

/-- The groups are asked in their order: as many as are free are LIT, and the others wait. -/
theorem foldl_advance_granted (safe : GroupNo → Bool) : ∀ (l : List GroupNo) (s : State), LampsKept True s.lmc →
    ignitable s = true → l.Nodup → (∀ g ∈ l, (s.lmc.groups.get g).running = true ∧ (s.lmc.groups.get g).ign ≠ .waiting) →
    (∀ g, (s.lmc.groups.get g).safety = safe g) →
    Granted ((askers s l).take (freeGrants s.lmc)).length s (l.foldl advanceGroup s) ∧
    (l.foldl advanceGroup s).lmc.ignQueue =
      ((askers s l).drop (freeGrants s.lmc)).foldl (fun q g => insertIgnition safe g q) s.lmc.ignQueue ∧
    (∀ g ∈ (askers s l).take (freeGrants s.lmc), ((l.foldl advanceGroup s).lmc.groups.get g).ign = .lit) ∧
    ∀ g ∈ (askers s l).drop (freeGrants s.lmc), ((l.foldl advanceGroup s).lmc.groups.get g).ign = .waiting
  | [], s, h, _, _, _, _ => by
    rw [askers, List.filter_nil, List.take_nil, List.drop_nil]
    exact ⟨.none (h.history trivial) rfl rfl, rfl, nofun, nofun⟩
  | k :: l, s, h, hi, hn, hl, hs => by
    obtain ⟨hk, hln⟩ := List.nodup_cons.mp hn
    obtain ⟨hr, hw⟩ := hl k List.mem_cons_self
    have hne (g : GroupNo) (hg : g ∈ l) : g ≠ k := fun e => hk (e ▸ hg)
    have hsame (g : GroupNo) (hg : g ∈ l) := advanceGroup_get (hne g hg) s
    have hsafe (g : GroupNo) : ((advanceGroup s k).lmc.groups.get g).safety = safe g := by
      by_cases hgk : g = k
      · subst hgk
        rw [(sameUse_moved (advanceGroup_moved s g)).2, hs g]
      · rw [advanceGroup_get hgk, hs g]
    obtain ⟨hgr, hq, hlit, hwait⟩ := foldl_advance_granted safe l (advanceGroup s k) (lampsKept_advanceGroup h hr hw)
      ((lampsOnly_advanceGroup s k).ignitable.trans hi) hln (fun g hg => by rw [hsame g hg]; exact hl g (List.mem_cons_of_mem k hg))
      hsafe
    have hkeeps : (l.foldl advanceGroup (advanceGroup s k)).lmc.groups.get k = (advanceGroup s k).lmc.groups.get k :=
      (foldl_advanceGroup l _ hln).2.2 k hk
    rw [askers_congr hsame] at hgr hq hlit hwait
    rw [List.foldl_cons]
    cases hrise : rises (s.lmc.groups.get k) with
    | false =>
      obtain ⟨hq0, hg0⟩ := advanceGroup_calm h hw hrise
      have hask : askers s (k :: l) = askers s l := List.filter_cons_of_neg (by simp [hrise])
      have hfree : freeGrants (advanceGroup s k).lmc = freeGrants s.lmc := hg0.2.1.symm
      rw [hfree] at hgr hq hlit hwait
      rw [hask]
      exact ⟨by simpa using hg0.trans hgr, hq0 ▸ hq, hlit, hwait⟩
    | true =>
      have hask : askers s (k :: l) = k :: askers s l := List.filter_cons_of_pos hrise
      rw [hask]
      rcases Nat.eq_zero_or_pos (freeGrants s.lmc) with hzero | hpos
      · obtain ⟨hq0, hg0, hw0⟩ := advanceGroup_queued h hi hw hrise hzero
        have hfree : freeGrants (advanceGroup s k).lmc = 0 := hg0.2.1.symm.trans hzero
        rw [hfree, List.take_zero] at hgr
        rw [hfree, List.drop_zero] at hq hwait
        rw [hzero, List.take_zero, List.drop_zero]
        refine ⟨hg0.trans hgr, ?_, nofun, fun g hg => ?_⟩
        · rw [hq, hq0, List.foldl_cons, funext hs]
        · rcases List.mem_cons.mp hg with rfl | hg
          · rw [hkeeps, hw0]
          · exact hwait g hg
      · obtain ⟨hq0, hg0, hl0⟩ := advanceGroup_lit h hi hrise hpos
        rw [hg0.2.1, List.take_succ_cons, List.drop_succ_cons]
        refine ⟨?_, hq0 ▸ hq, fun g hg => ?_, hwait⟩
        · rw [List.length_cons, Nat.add_comm]
          exact hg0.trans hgr
        · rcases List.mem_cons.mp hg with rfl | hg
          · rw [hkeeps, hl0]
          · exact hlit g hg

/-! ## The boundary -/

theorem chainedBy_held (ended : List GroupNo) {x : Group} (h : GroupHeld x) :
    (chainedBy ended x).ign = x.ign ∧ (x.running = true → (chainedBy ended x).running = true) := by
  have hstart : (afterStart x).ign = x.ign ∧ (x.running = true → (afterStart x).running = true) := by
    unfold afterStart
    split
    · next hoff =>
      have hr : x.running = false := h.2 hoff
      rw [afterStop, if_neg (by simp [hr])]
      exact ⟨rfl, id⟩
    · exact ⟨rfl, fun _ => rfl⟩
  unfold chainedBy
  split
  · split
    · exact hstart
    · exact ⟨rfl, id⟩
  · exact ⟨rfl, id⟩

theorem lampsKept_boundaryTaken (h : LampsKept True s.lmc) : LampsKept True (boundaryTaken s).lmc :=
  ⟨⟨h.nodup, h.waiting, h.runs, h.held, fun hb => (h.history hb).congr rfl rfl⟩, h.quiet, h.lit⟩

theorem boundaryServed_granted (h : LampsKept True s.lmc) (hi : ignitable s = true) :
    (boundaryServed s).2 = s.lmc.ignQueue.take (freeGrants s.lmc) ∧
    (boundaryServed s).1.lmc.ignQueue = s.lmc.ignQueue.drop (freeGrants s.lmc) ∧
    Granted (s.lmc.ignQueue.take (freeGrants s.lmc)).length s (boundaryServed s).1 ∧
    LampsKept True (boundaryServed s).1.lmc := by
  have h0 := lampsKept_boundaryTaken h
  obtain ⟨h1, h2, h3⟩ := serveIgnition_granted s.lmc.ignQueue.length (boundaryTaken s) h0 le_rfl
  rw [boundaryServed, if_pos hi]
  exact ⟨h1, h2, h3, lampsKept_serve _ _ h0⟩

/-- A running group that does not wait asks for light: it is not at its last burst and would rise from level 0. -/
def asksLight (s : State) (g : GroupNo) : Bool :=
  (s.lmc.groups.get g).running && (s.lmc.groups.get g).ign != .waiting && !lastBurst (s.lmc.groups.get g) &&
    decide ((s.lmc.groups.get g).level = 0) && decide (0 < (counted (s.lmc.groups.get g)).2.level)

/-- The groups that ask, safety groups first. -/
def lightRequests (s : State) : List GroupNo :=
  allGroups.filter (fun g => asksLight s g && (s.lmc.groups.get g).safety) ++
    allGroups.filter (fun g => asksLight s g && !(s.lmc.groups.get g).safety)

theorem rises_running {x : Group} (hm : x.pat.mode = .off → x.running = false) (hr : x.running = true) :
    rises x = (!lastBurst x && decide (x.level = 0) && decide (0 < (counted x).2.level)) := by
  have hmode : x.pat.mode ≠ .off := fun h => absurd ((hm h).symm.trans hr) (by decide)
  rw [rises, (advance_eq hr hmode).2]

theorem askers_boundary (h : LampsKept True s.lmc) : askers (boundaryServed s).1 (boundaryTodo s) = lightRequests s := by
  obtain ⟨-, hserved, -, hget⟩ := boundaryServed_spec s fun _ => h.nodup
  have hsafe (g : GroupNo) : ((boundaryServed s).1.lmc.groups.get g).safety = (s.lmc.groups.get g).safety := by
    rw [hget g]
    split
    · exact (sameUse_heldChange _).2
    · rfl
  have hasks (g : GroupNo) : (rises ((boundaryServed s).1.lmc.groups.get g) &&
      advances (boundaryServed s).1 (boundaryServed s).2 g) = asksLight s g := by
    rw [advances, groupOf, hget g, asksLight]
    by_cases hg : g ∈ (boundaryServed s).2
    · have hw : (s.lmc.groups.get g).ign = .waiting := (h.waiting g).mp (hserved g hg)
      simp [hg, hw]
    · rw [if_neg hg]
      cases hr : (s.lmc.groups.get g).running with
      | false => simp
      | true =>
        rw [rises_running (h.held g).2 hr]
        simp [hg, Bool.and_comm, Bool.and_left_comm]
  rw [askers, boundaryTodo, List.filter_filter, requestOrder, List.filter_append, List.filter_filter, List.filter_filter,
    lightRequests]
  simp only [hasks, groupOf, hsafe]

/-- A group that comes to be LIT was served, or asked. -/
theorem boundary_lit (h : LampsKept True s.lmc) (hi : ignitable s = true) {g : GroupNo}
    (hno : (s.lmc.groups.get g).ign ≠ .lit) (hl : ((boundaryAdvanced s).lmc.groups.get g).ign = .lit) :
    g ∈ (boundaryServed s).2 ∨ g ∈ lightRequests s := by
  obtain ⟨-, -, hmoved, hsame⟩ := boundaryAdvanced_spec (fun _ => h.nodup) g
  by_cases hg : g ∈ (boundaryServed s).2
  · exact .inl hg
  right
  by_cases hrun : (s.lmc.groups.get g).running = true ∧ (s.lmc.groups.get g).ign ≠ .waiting
  · obtain ⟨hr, hw⟩ := hrun
    have hm := hmoved hg hr hw
    rw [hi, Moved] at hm
    split at hm
    · next hrise =>
      have hask : asksLight s g = true := by
        rw [Bool.true_and, rises_running (h.held g).2 hr] at hrise
        simp only [Bool.and_eq_true] at hrise
        simp [asksLight, hr, hw, hrise]
      cases hs : (s.lmc.groups.get g).safety with
      | true => exact List.mem_append_left _ (List.mem_filter.mpr ⟨List.mem_finRange g, by simp [hask, hs]⟩)
      | false => exact List.mem_append_right _ (List.mem_filter.mpr ⟨List.mem_finRange g, by simp [hask, hs]⟩)
    · rw [hm, calmGroup] at hl
      split at hl
      · rw [afterStop, if_pos hr] at hl
        cases hl
      · dsimp only at hl
        split at hl
        · cases hl
        · exact absurd hl hno
  · rw [hsame hg hrun] at hl
    exact absurd hl hno

theorem driveRow_lmc (u : State) : (driveRow u).lmc = u.lmc := rfl

/-- What the boundary ends with of the ignition, by what the advances leave. -/
theorem exec_boundary_ignition (h : LampsKept True (boundaryAdvanced s).lmc) (hr : s.power.running = true)
    (hd : s.lmc.boundaryDue = true) : ∃ t, exec .scanFrameBoundary s = .next t ∧
      (∀ g, (t.lmc.groups.get g).ign = ((boundaryAdvanced s).lmc.groups.get g).ign) ∧
      t.lmc.ignQueue = (boundaryAdvanced s).lmc.ignQueue ∧ t.lmc.history = (boundaryAdvanced s).lmc.history := by
  refine ⟨_, exec_boundary hr hd, fun g => ?_, ?_, ?_⟩
  · rw [driveRow_lmc, withGroups_get]
    exact (chainedBy_held _ (h.held g)).1
  · rw [driveRow_lmc]
    exact withGroups_calm_queue fun g _ hrun => (chainedBy_held _ (h.held g)).2 hrun
  · rw [driveRow_lmc, withGroups_history]

/-- Settles O47: the queue's head and then the groups that ask take what is free, and no other group comes to be LIT. -/
theorem ignitionBudgetHolds : Obligations.IgnitionBudgetHolds := by
  intro s hb hk hr hd hs ho record free asks requests served left safe
  have h : LampsKept True s.lmc := lampsKept_true_iff.mpr ⟨hk, hb⟩
  have hi : ignitable s = true := ignitable_iff.mpr ⟨hs, ho⟩
  have hn : ignitable s = true → s.lmc.ignQueue.Nodup := fun _ => h.nodup
  obtain ⟨hserved, hqueue, hgrant, h1⟩ := boundaryServed_granted h hi
  obtain ⟨honly, -, -, hget⟩ := boundaryServed_spec s hn
  have hmem (g : GroupNo) (hg : g ∈ boundaryTodo s) : ((boundaryServed s).1.lmc.groups.get g).running = true ∧
      ((boundaryServed s).1.lmc.groups.get g).ign ≠ .waiting := by
    obtain ⟨hrun, hw, hg⟩ := (mem_boundaryTodo hn).mp hg
    rw [hget g, if_neg hg]
    exact ⟨hrun, hw⟩
  have hsafe (g : GroupNo) : ((boundaryServed s).1.lmc.groups.get g).safety = safe g := by
    rw [hget g]
    split
    · exact (sameUse_heldChange _).2
    · rfl
  obtain ⟨hgrants, hwaits, hlit, hwait⟩ := foldl_advance_granted safe (boundaryTodo s) (boundaryServed s).1 h1
    (honly.ignitable.trans hi) (boundaryTodo_nodup s) hmem hsafe
  have hleft : freeGrants (boundaryServed s).1.lmc = left := by
    have := hgrant.2.1
    have hlen : (s.lmc.ignQueue.take (freeGrants s.lmc)).length = min (freeGrants s.lmc) s.lmc.ignQueue.length :=
      List.length_take
    show _ = freeGrants s.lmc - s.lmc.ignQueue.length
    omega
  rw [askers_boundary h, hleft] at hgrants hwaits hlit hwait
  have h2 : LampsKept True (boundaryAdvanced s).lmc := lampsKept_advanceAll _ _ h1 (boundaryTodo_nodup s) hmem
  obtain ⟨t, hexec, hign, hq, hh⟩ := exec_boundary_ignition h2 hr hd
  have hreq : requests = lightRequests s := rfl
  rw [← hreq] at hgrants hwaits hlit hwait
  have hall := hgrant.trans hgrants
  refine ⟨t, hexec, fun g hg => ?_, fun g hg => ?_, fun g hg => ?_, ?_, ?_, ?_⟩
  · exact (hign g).trans (congrArg Group.ign ((boundaryAdvanced_spec hn g).2.1 (hserved ▸ hg)))
  · exact (hign g).trans (hlit g hg)
  · refine (hign g).trans ?_
    rcases List.mem_append.mp hg with hg | hg
    · have hwg : ((boundaryServed s).1.lmc.groups.get g).ign = .waiting := (h1.waiting g).mp (hqueue ▸ hg)
      have hnot : g ∉ boundaryTodo s := fun hm => (hmem g hm).2 hwg
      rw [boundaryAdvanced, (foldl_advanceGroup _ _ (boundaryTodo_nodup s)).2.2 g hnot, hwg]
    · exact hwait g hg
  · rw [hq]
    exact hwaits.trans (congrArg (fun q => (requests.drop left).foldl (fun q g => insertIgnition safe g q) q) hqueue)
  · rw [hh]
    exact hall.1
  · have hlen := hall.2.1
    have hfree : freeGrants s.lmc + recentGrants s.lmc = 4 := by
      have := recentGrants_le (h.history trivial)
      unfold freeGrants
      omega
    have hcount : ((List.finRange 24).filter fun g => decide ((record g).ign ≠ .lit) &&
        decide ((t.lmc.groups.get g).ign = .lit)).length ≤
        (served ++ requests.take left).length := by
      refine ((List.nodup_finRange 24).filter _).subperm (fun g hg => ?_) |>.length_le
      obtain ⟨-, hg⟩ := List.mem_filter.mp hg
      rw [Bool.and_eq_true, decide_eq_true_eq, decide_eq_true_eq, hign g] at hg
      rcases boundary_lit h hi hg.1 hg.2 with hin | hin
      · exact List.mem_append_left _ (show g ∈ s.lmc.ignQueue.take (freeGrants s.lmc) from hserved ▸ hin)
      · rw [← hreq, ← List.take_append_drop left requests] at hin
        rcases List.mem_append.mp hin with hin | hin
        · exact List.mem_append_right _ hin
        · exact absurd (hg.2.symm.trans (hwait g hin)) (by decide)
    rw [List.length_append] at hcount
    have hstep : recentGrants s.lmc + (served.length + (requests.take left).length) ≤ 4 := by
      have : freeGrants s.lmc = _ + (served.length + (requests.take left).length) := hlen
      omega
    exact (Nat.add_le_add_left hcount _).trans hstep

end Sys2Proof.Proofs
end

section
/-! PROOFS. A voice that goes through its items: it starts the first one that resolves, or passes through those of its rounds
to a gap or to its finish (R133, R134, R135, R138). -/

namespace Sys2Proof.Proofs

open Sys2Proof Sys2Proof.Machine Sys2Proof.Laws

variable {s t u e : State} {v : VoiceNo} {x y : Voice} {r : RenderRec}

/-! ## What a voice that moves leaves alone -/

/-- Nothing differs but the record of one voice, the rendering record, the fetch queue and the use order. -/
structure Near (v : VoiceNo) (s t : State) : Prop where
  others : ∀ w, w ≠ v → t.vpl.voices.get w = s.vpl.voices.get w
  prev : t.vpl.prev = s.vpl.prev
  cache : { t.ccc with queue := s.ccc.queue, lru := s.ccc.lru } = s.ccc
  rest : { t with vpl := s.vpl, ccc := s.ccc } = s

theorem Near.refl (v : VoiceNo) (s : State) : Near v s s := ⟨fun _ _ => rfl, rfl, rfl, rfl⟩

theorem Near.trans (h : Near v s t) (h' : Near v t u) : Near v s u where
  others := fun w hw => (h'.others w hw).trans (h.others w hw)
  prev := h'.prev.trans h.prev
  cache := (congrArg (fun c : Ccc => { c with queue := s.ccc.queue, lru := s.ccc.lru }) h'.cache :).trans h.cache
  rest := (congrArg (fun z : State => { z with vpl := s.vpl, ccc := s.ccc }) h'.rest :).trans h.rest

theorem Near.lines (h : Near v s t) : t.ccc.lines = s.ccc.lines := (congrArg Ccc.lines h.cache :)

theorem Near.gap (h : Near v s t) : t.cth.settings.gap = s.cth.settings.gap :=
  (congrArg (fun z : State => z.cth.settings.gap) h.rest :)

theorem Near.cmp (h : Near v s t) : t.cmp = s.cmp := (congrArg State.cmp h.rest :)

theorem Near.asq (h : Near v s t) : t.asq = s.asq := (congrArg State.asq h.rest :)

theorem near_setVoice (v : VoiceNo) (x : Voice) (s : State) : Near v s (setVoice v x s) :=
  ⟨fun _ hw => get_put_ne _ _ hw, rfl, rfl, rfl⟩

theorem near_setRendering (v : VoiceNo) (r : Option RenderRec) (s : State) : Near v s (setRendering r s) :=
  ⟨fun _ _ => rfl, rfl, rfl, rfl⟩

theorem near_ceaseWait (v : VoiceNo) (s : State) : Near v s (ceaseWait v s) := ⟨fun _ _ => rfl, rfl, rfl, rfl⟩

theorem near_request (v : VoiceNo) (k u : Nat) (s : State) : Near v s (request v k u s) := by
  obtain ⟨hvpl, hccc, hrest⟩ := request_blocks v k u s
  exact ⟨fun _ _ => by rw [hvpl], by rw [hvpl], (congrArg (fun c : Ccc => { c with lru := s.ccc.lru }) hccc :), hrest⟩

theorem near_touch (v : VoiceNo) (k : Nat) (s : State) : Near v s (touch k s) := by
  unfold touch
  split <;> exact ⟨fun _ _ => rfl, rfl, rfl, rfl⟩

/-- A voice and the rendering record, as they stand. -/
structure Stands (v : VoiceNo) (x : Voice) (r : RenderRec) (s : State) : Prop where
  voice : voiceOf s v = x
  record : s.vpl.rendering = some r

/-- From `s` a voice has come to `y` with the rendering record `r`, with nothing else changed but what is `Near`. -/
structure Comes (v : VoiceNo) (s : State) (y : Voice) (r : RenderRec) (t : State) : Prop extends Near v s t, Stands v y r t

theorem voiceOf_setVoice (v : VoiceNo) (x : Voice) (s : State) : voiceOf (setVoice v x s) v = x := get_put_same _ _ _

theorem comes_setVoice (h : Stands v x r s) (y : Voice) : Comes v s y r (setVoice v y s) :=
  ⟨near_setVoice v y s, voiceOf_setVoice v y s, h.record⟩

theorem Comes.near (h : Comes v s y r t) (h' : Near v e s) : Comes v e y r t :=
  ⟨h'.trans h.toNear, h.toStands⟩

/-! ## What an item resolves to (R134) -/

theorem lookup_congr (h : t.ccc.directory = s.ccc.directory) (family language : Nat) :
    lookup t family language = lookup s family language := by
  rw [lookup, lookup, h]

theorem Near.resolves (h : Near v s t) (it : Item) (l : Lang) : resolveItem t it l = resolveItem s it l := by
  have hd : t.ccc.directory = s.ccc.directory := (congrArg Ccc.directory h.cache :)
  have hl : t.scc.languages = s.scc.languages := (congrArg (fun z : State => z.scc.languages) h.rest :)
  simp only [resolveItem, lookup_congr hd, hl]

theorem firstClip_nil (s : State) (l : Lang) : firstClip s [] l = none := rfl

theorem firstClip_cons (s : State) (it : Item) (items : List Item) (l : Lang) : firstClip s (it :: items) l =
    match resolveItem s it l with
    | some c => some (0, c)
    | none => (firstClip s items l).map fun p => (p.1 + 1, p.2) := by
  unfold firstClip
  rw [List.length_cons, List.range_succ_eq_map, List.findSome?_cons, List.findSome?_map, List.map_findSome?]
  cases h : resolveItem s it l with
  | some c => simp [h]
  | none =>
    simp only [List.getElem?_cons_zero, Option.bind_some, h, Option.map_none]
    congr 1
    funext n
    simp only [Function.comp, List.getElem?_cons_succ]
    cases hn : items[n]? with
    | none => rfl
    | some i => simp only [Option.bind_some, Option.map_map]; rfl

/-- The first of the items from a place on, by the item at that place. -/
theorem firstClip_drop {items : List Item} {k : Nat} (hk : k < items.length) (s : State) (l : Lang) :
    firstClip s (items.drop k) l = match (items[k]?).bind fun it => resolveItem s it l with
      | some c => some (0, c)
      | none => (firstClip s (items.drop (k + 1)) l).map fun p => (p.1 + 1, p.2) := by
  rw [List.drop_eq_getElem_cons hk, firstClip_cons, List.getElem?_eq_getElem hk, Option.bind_some]

theorem firstClip_some_lt {items : List Item} {k : Nat} {l : Lang} {p : Nat × Clip} (h : firstClip s (items.drop k) l = some p) :
    k < items.length := by
  by_contra hno
  rw [List.drop_eq_nil_of_le (Nat.le_of_not_lt hno), firstClip_nil] at h
  cases h

theorem firstClip_lt {items : List Item} {l : Lang} {n : Nat} {c : Clip} (h : firstClip s items l = some (n, c)) :
    n < items.length := by
  obtain ⟨m, hm, hf⟩ := List.exists_of_findSome?_eq_some h
  obtain ⟨it, -, hr⟩ := Option.bind_eq_some_iff.mp hf
  obtain ⟨d, -, hp⟩ := Option.map_eq_some_iff.mp hr
  obtain ⟨rfl, -⟩ := Prod.mk.inj hp
  exact List.mem_range.mp hm

/-! ## The speaker progress (R133) -/

theorem progressed_zero (role : Role) (p : Progress) : progressed role 0 p = p := by cases role <;> rfl

theorem progressed_add (role : Role) (n m : Nat) (p : Progress) :
    progressed role m (progressed role n p) = progressed role (n + m) p := by
  cases role with
  | headset l => rfl
  | speaker => simp only [progressed, Nat.add_assoc]

/-- A voice's item is counted. -/
theorem comes_countItem (h : Stands v x r s) : Comes v s x { r with progress := progressed x.role 1 r.progress } (countItem v s) := by
  obtain ⟨hv, hr⟩ := h
  unfold countItem
  rw [hr]
  dsimp only
  rw [hv]
  cases hrole : x.role with
  | headset l =>
    rw [if_neg (by simp)]
    exact ⟨.refl v s, hv, hr⟩
  | speaker =>
    rw [if_pos rfl]
    exact ⟨near_setRendering v _ s, hv, rfl⟩

/-! ## The start of a clip (R135) -/

theorem isValid_eq (s : State) (k : Nat) : isValid s k = sectorValid s k := by
  rw [isValid, validLine, List.isSome_find?]
  unfold sectorValid
  congr 1
  funext i
  rw [lineOf]
  cases s.ccc.lines.get i <;> rfl

theorem Near.valid (h : Near v s t) (k : Nat) : sectorValid t k = sectorValid s k := by
  unfold sectorValid
  rw [h.lines]

theorem Near.starts (h : Near v s t) (c : Clip) (x : Voice) : startsClip t c x = startsClip s c x := by
  rw [startsClip, startsClip, h.valid]

theorem comes_request (h : Stands v x r s) (k u : Nat) : Comes v s x r (request v k u s) := by
  have hvpl := (request_blocks v k u s).1
  exact ⟨near_request v k u s, by rw [voiceOf, hvpl]; exact h.voice, by rw [hvpl]; exact h.record⟩

theorem comes_enterPlaying (h : Stands v x r s) (k : Nat) : Comes v s { x with state := .playing } r (enterPlaying v k s) := by
  have hvpl (u : State) : (touch k u).vpl = u.vpl := (congrArg State.vpl (touch_frame k u) :)
  rw [enterPlaying, h.voice]
  exact ⟨(near_setVoice v _ s).trans (near_touch v k _), by rw [voiceOf, hvpl]; exact voiceOf_setVoice v _ s,
    by rw [hvpl]; exact h.record⟩

theorem comes_startClip (h : Stands v x r s) (c : Clip) : Comes v s (startsClip s c x) r (startClip r v c s) := by
  have hset := comes_setVoice h { x with
    state := .priming, clip := some c, position := 0, cur := some c.first, next := none, stall := 0 }
  have hask := (comes_request hset.toStands c.first (r.priority.val + 1)).near hset.toNear
  have hplay := (comes_enterPlaying hask.toStands c.first).near hask.toNear
  have hstate : startClip r v c s = (let t := request v c.first (r.priority.val + 1) (setVoice v { x with
      state := .priming, clip := some c, position := 0, cur := some c.first, next := none, stall := 0 } s)
      if isValid t c.first then enterPlaying v c.first t else t) := by
    rw [startClip, requestFor, h.voice]
  rw [hstate, startsClip]
  dsimp only
  rw [isValid_eq, hask.valid]
  cases sectorValid s c.first with
  | false => exact hask
  | true => exact hplay

/-- The sector is in the cache, being fetched, or queued to be. -/
def Held (k : Nat) (s : State) : Prop := (∃ i, (s.ccc.lines.get i).tag = some k) ∨ ∃ e ∈ s.ccc.queue, e.sector = k

theorem held_iff {k : Nat} : Held k s ↔ isCached s k = true ∨ isQueued s k = true := by
  simp [Held, isCached, lineFor, lineOf, isQueued, allLines]

theorem held_request (v : VoiceNo) (k u : Nat) (s : State) : Held k (request v k u s) := by
  by_cases hc : isCached s k = true
  · rw [request, if_pos hc]
    exact held_iff.mpr (.inl hc)
  · obtain ⟨e, he, hk, -⟩ := askedFor_request (v := v) (u := u) (Bool.eq_false_iff.mpr hc)
    exact .inr ⟨e, he, hk⟩

theorem held_startClip (r : RenderRec) (v : VoiceNo) (c : Clip) (s : State) : Held c.first (startClip r v c s) := by
  unfold startClip requestFor
  dsimp only
  generalize setVoice v _ s = t
  have hask := held_request v c.first (r.priority.val + 1) t
  generalize request v c.first (r.priority.val + 1) t = t at hask ⊢
  split
  · unfold enterPlaying touch
    split <;> exact hask
  · exact hask

/-- The arbiter fetches what it takes from the queue, and its victim is not a sector that a voice reads or is to read. -/
theorem held_arbiter {k : Nat} (h : Held k s) {w : VoiceNo}
    (hpin : (s.vpl.voices.get w).cur = some k ∨ (s.vpl.voices.get w).next = some k) : Held k (arbiter s) := by
  rcases arbiter_cases s with he | ⟨-, e, i, -, hi, he⟩ | ⟨-, m, -, -, ⟨-, he⟩ | ⟨-, he⟩⟩ <;> rw [he]
  · exact h
  · by_cases hk : e.sector = k
    · exact .inl ⟨i, by rw [← hk, startFetch]; simp [Line.tag]⟩
    rcases h with ⟨j, hj⟩ | ⟨d, hd, hdk⟩
    · refine .inl ⟨j, ?_⟩
      have hne : j ≠ i := by
        rintro rfl
        rcases victim_some.mp hi with ⟨hinv, -⟩ | ⟨-, -, -, -, hfree, -⟩
        · rw [hinv] at hj
          cases hj
        · rw [flushable, lineOf] at hfree
          cases hline : s.ccc.lines.get j with
          | invalid | filling k' => simp [hline] at hfree
          | valid k' data =>
            rw [hline] at hj hfree
            obtain rfl : k' = k := Option.some.inj hj
            dsimp only at hfree
            rw [pinCount_zero] at hfree
            have hany : ((List.finRange 8).any fun v =>
                (s.vpl.voices.get v).cur == some k' || (s.vpl.voices.get v).next == some k') = true :=
              List.any_eq_true.mpr ⟨w, List.mem_finRange w, by simpa using hpin⟩
            rw [hany] at hfree
            exact absurd hfree (by simp)
      exact (congrArg Line.tag (get_put_ne _ _ hne)).trans hj
    · exact .inr ⟨d, List.mem_filter.mpr ⟨hd, by simpa [hdk] using Ne.symm hk⟩, hdk⟩
  · exact h
  · exact h

/-! ## What follows an item (R138) -/

/-- A voice goes on after an item it has counted, with as many items still to look at. -/
def goesOn (stalled : Bool) (v : VoiceNo) (fuel : Nat) (s : State) : State :=
  let a := afterItem stalled v s
  if a.2 then startItem fuel v a.1 else a.1

/-- A voice at rest between rounds (R133). -/
def restVoice (s : State) (x : Voice) : Voice :=
  { x with state := .gap, clip := none, position := 0, cur := none, next := none, gap := 0, gapKept := s.cth.settings.gap }

/-- A voice that has nothing left to play. -/
def finishVoice (stalled : Bool) (v : VoiceNo) (s : State) : State := if stalled then enterEnding v s else idleVoice v s

theorem afterItem_eq (h : Stands v x r s) (stalled : Bool) : afterItem stalled v s =
    if r.softCut then (finishVoice stalled v s, false)
    else if x.item + 1 < r.items.length then (setVoice v { x with item := x.item + 1 } s, true)
    else if x.role = .speaker ∧ x.round + 1 < r.langs.length then
      if s.cth.settings.gap = 0 then (startRound v (x.round + 1) s, true) else (setVoice v (restVoice s x) s, false)
    else (finishVoice stalled v s, false) := by
  obtain ⟨hv, hr⟩ := h
  subst hv
  unfold afterItem
  rw [hr]
  rfl

theorem comes_startRound (h : Stands v x r s) (n : Nat) : Comes v s { x with round := n, item := 0 }
    { r with progress := { round := n, items := 0 } } (startRound v n s) := by
  obtain ⟨hv, hr⟩ := h
  subst hv
  unfold startRound
  rw [hr]
  exact ⟨(near_setRendering v _ s).trans (near_setVoice v _ _), get_put_same _ _ _, rfl⟩

theorem comes_idleVoice (h : Stands v x r s) : Comes v s Reset.voice r (idleVoice v s) :=
  ⟨(near_setVoice v _ s).trans (near_ceaseWait v _), get_put_same _ _ _, h.record⟩

theorem startItem_starts (h : Stands v x r s) {c : Clip} (n : Nat)
    (hc : ((r.items[x.item]?).bind fun it => resolveItem s it (roleLang x.role r.langs x.round)) = some c) :
    startItem (n + 1) v s = startClip r v c s := by
  obtain ⟨hv, hr⟩ := h
  subst hv
  have hlang : voiceLang (voiceOf s v) r = roleLang (voiceOf s v).role r.langs (voiceOf s v).round := by
    unfold voiceLang roleLang
    cases (voiceOf s v).role <;> rfl
  rw [startItem, hr]
  dsimp only
  rw [hlang, hc]

theorem startItem_passes (h : Stands v x r s) (n : Nat)
    (hc : ((r.items[x.item]?).bind fun it => resolveItem s it (roleLang x.role r.langs x.round)) = none) :
    startItem (n + 1) v s = goesOn false v n (countItem v s) := by
  obtain ⟨hv, hr⟩ := h
  subst hv
  have hlang : voiceLang (voiceOf s v) r = roleLang (voiceOf s v).role r.langs (voiceOf s v).round := by
    unfold voiceLang roleLang
    cases (voiceOf s v).role <;> rfl
  rw [startItem, hr]
  dsimp only
  rw [hlang, hc]
  rfl

theorem goesOn_true {stalled : Bool} (h : afterItem stalled v s = (t, true)) (n : Nat) :
    goesOn stalled v n s = startItem n v t := by
  simp only [goesOn, h, if_true]

theorem goesOn_false {stalled : Bool} (h : afterItem stalled v s = (t, false)) (n : Nat) : goesOn stalled v n s = t := by
  simp only [goesOn, h, Bool.false_eq_true, if_false]

/-- With a further item in the round the voice goes on to it. -/
theorem goesOn_next (h : Stands v x r s) (hcut : r.softCut = false) (hi : x.item + 1 < r.items.length) (stalled : Bool)
    (n : Nat) : goesOn stalled v n s = startItem n v (setVoice v { x with item := x.item + 1 } s) :=
  goesOn_true ((afterItem_eq h stalled).trans ((if_neg (by simp [hcut])).trans (if_pos hi))) n

/-! ## A round gone through -/

/-- The voice starts the first item that resolves, those before it passed over. -/
theorem startItem_found : ∀ (n : Nat) {fuel : Nat} {s : State} {x : Voice} {r : RenderRec} {c : Clip}, Near v e s →
    Stands v x r s → firstClip e (r.items.drop x.item) (roleLang x.role r.langs x.round) = some (n, c) →
    (0 < n → r.softCut = false) → n < fuel →
    Comes v e (startsClip e c { x with item := x.item + n }) { r with progress := progressed x.role n r.progress }
      (startItem fuel v s) ∧ Held c.first (startItem fuel v s)
  | n, fuel, s, x, r, c, hn, hs, hc, hcut, hf => by
    obtain ⟨f, rfl⟩ : ∃ f, fuel = f + 1 := ⟨fuel - 1, by omega⟩
    rw [firstClip_drop (firstClip_some_lt hc)] at hc
    simp only [← hn.resolves] at hc
    cases hb : (r.items[x.item]?).bind fun it => resolveItem s it (roleLang x.role r.langs x.round) with
    | some d =>
      rw [hb] at hc
      obtain ⟨rfl, rfl⟩ := Prod.mk.inj (Option.some.inj hc)
      rw [startItem_starts hs f hb, progressed_zero, ← hn.starts]
      exact ⟨(comes_startClip hs d).near hn, held_startClip r v d s⟩
    | none =>
      rw [hb] at hc
      obtain ⟨⟨m, d⟩, hm, hp⟩ := Option.map_eq_some_iff.mp hc
      obtain ⟨rfl, rfl⟩ := Prod.mk.inj hp
      have hno : r.softCut = false := hcut (Nat.succ_pos m)
      have hcount := comes_countItem hs
      have hnext := comes_setVoice hcount.toStands { x with item := x.item + 1 }
      rw [startItem_passes hs f hb, goesOn_next hcount.toStands hno (firstClip_some_lt hm)]
      have h := startItem_found m (hn.trans (hcount.toNear.trans hnext.toNear)) hnext.toStands hm (fun _ => hno)
        (Nat.lt_of_succ_lt_succ hf)
      simp only [progressed_add] at h
      rw [Nat.add_assoc, Nat.add_comm 1 m] at h
      exact h

/-- No item from here on resolves: the voice comes to the last one of its round, all counted. -/
theorem startItem_passed : ∀ (k : Nat) {s : State} {x : Voice} {r : RenderRec}, Near v e s → Stands v x r s →
    firstClip e (r.items.drop x.item) (roleLang x.role r.langs x.round) = none → r.softCut = false →
    x.item + k + 1 = r.items.length →
    ∃ t, Comes v e { x with item := r.items.length - 1 } { r with progress := progressed x.role (k + 1) r.progress } t ∧
      ∀ fuel, startItem (fuel + k + 1) v s = goesOn false v fuel t
  | k, s, x, r, hn, hs, hc, hcut, hk => by
    rw [firstClip_drop (by omega)] at hc
    simp only [← hn.resolves] at hc
    cases hb : (r.items[x.item]?).bind fun it => resolveItem s it (roleLang x.role r.langs x.round) with
    | some d =>
      rw [hb] at hc
      cases hc
    | none =>
      rw [hb] at hc
      have hm := Option.map_eq_none_iff.mp hc
      have hcount := comes_countItem hs
      cases k with
      | zero =>
        have hitem : r.items.length - 1 = x.item := by omega
        exact ⟨_, hitem ▸ hcount.near hn, fun fuel => startItem_passes hs _ hb⟩
      | succ k =>
        have hnext := comes_setVoice hcount.toStands { x with item := x.item + 1 }
        obtain ⟨t, ht, hgo⟩ := startItem_passed k (hn.trans (hcount.toNear.trans hnext.toNear)) hnext.toStands hm hcut
          (by dsimp only; omega)
        simp only [progressed_add] at ht
        rw [Nat.add_comm 1 (k + 1)] at ht
        refine ⟨t, ht, fun fuel => ?_⟩
        rw [startItem_passes hs _ hb, goesOn_next hcount.toStands hcut (by dsimp only; omega)]
        exact hgo fuel

/-! ## The rounds gone through -/

theorem afterRound_ge {items : List Item} : ∀ (later : List Lang) {round k : Nat},
    afterRound s items round later = .rests k ∨ afterRound s items round later = .finishes k → round ≤ k
  | [], round, k, h => by
    rcases h with h | h
    · cases h
    · cases h
      exact le_rfl
  | l :: later, round, k, h => by
    unfold afterRound at h
    split at h
    · rcases h with h | h
      · cases h
        exact le_rfl
      · cases h
    · split at h
      · rcases h with h | h <;> cases h
      · exact Nat.le_of_succ_le (afterRound_ge later h)

/-- The rounds after one gone through, by the next round. -/
theorem onwardProgress_next {items : List Item} {later : List Lang} {round : Nat} (p : Progress) :
    onwardProgress items (round + 1) { round := round + 1, items := items.length } (afterRound s items (round + 1) later) =
      onwardProgress items round p (afterRound s items (round + 1) later) := by
  have hge {k : Nat} := afterRound_ge (s := s) (items := items) later (round := round + 1) (k := k)
  cases h : afterRound s items (round + 1) later with
  | starts k n c => rfl
  | rests k | finishes k =>
    have hk : round + 1 ≤ k := hge (by simp [h])
    have hne : k ≠ round := by omega
    unfold onwardProgress
    dsimp only
    rw [if_neg hne]
    split
    · next he => rw [he]
    · rfl

theorem onwardVoice_place {items : List Item} (s : State) (x : Voice) (round item : Nat) (o : Onward) :
    onwardVoice s items { x with round := round, item := item } o = onwardVoice s items x o := by
  cases o <;> rfl

theorem laterLangs_speaker {langs : List Lang} {round : Nat} {l : Lang} {later : List Lang} {role : Role}
    (h : l :: later = laterLangs role langs round) :
    role = .speaker ∧ round + 1 < langs.length ∧ langs.getD (round + 1) 0 = l ∧ later = laterLangs .speaker langs (round + 1) := by
  cases role with
  | headset k => cases h
  | speaker =>
    have hlt : round + 1 < langs.length := by
      by_contra hno
      rw [laterLangs, List.drop_eq_nil_of_le (Nat.le_of_not_lt hno)] at h
      cases h
    rw [laterLangs, List.drop_eq_getElem_cons hlt] at h
    obtain ⟨h1, h2⟩ := List.cons.inj h
    exact ⟨rfl, hlt, by rw [h1, List.getD_eq_getElem _ _ hlt], h2⟩

theorem laterLangs_none {langs : List Lang} {round : Nat} {role : Role} (h : [] = laterLangs role langs round) :
    ¬(role = .speaker ∧ round + 1 < langs.length) := by
  rintro ⟨rfl, hlt⟩
  have := congrArg List.length h
  rw [laterLangs, List.length_drop, List.length_nil] at this
  omega

/-- After the last item of its round, counted, the voice rests, goes through the rounds that follow, or finishes. -/
theorem goesOn_onward : ∀ (later : List Lang) {stalled : Bool} {fuel : Nat} {s : State} {x : Voice} {r : RenderRec}, Near v e s →
    Stands v x r s → r.softCut = false → x.item + 1 = r.items.length → later = laterLangs x.role r.langs x.round →
    (stalled = true → later ≠ []) → later.length * r.items.length < fuel →
    Comes v e (onwardVoice e r.items x (afterRound e r.items x.round later))
      { r with progress := onwardProgress r.items x.round r.progress (afterRound e r.items x.round later) }
      (goesOn stalled v fuel s)
  | [], stalled, fuel, s, x, r, hn, hs, hcut, hi, hl, hst, _ => by
    obtain rfl : stalled = false := Bool.eq_false_iff.mpr fun h => hst h rfl
    have ha : afterItem false v s = (idleVoice v s, false) := (afterItem_eq hs false).trans
      ((if_neg (by simp [hcut])).trans ((if_neg (by omega)).trans (if_neg (laterLangs_none hl))))
    rw [goesOn_false ha]
    have h := (comes_idleVoice hs).near hn
    rwa [afterRound, onwardVoice, onwardProgress, if_pos rfl]
  | l :: later, stalled, fuel, s, x, r, hn, hs, hcut, hi, hl, _, hf => by
    obtain ⟨hrole, hlt, hlang, hlater⟩ := laterLangs_speaker hl
    have ha := (afterItem_eq hs stalled).trans
      ((if_neg (by simp [hcut])).trans ((if_neg (by omega)).trans (if_pos ⟨hrole, hlt⟩)))
    rw [afterRound]
    by_cases hgap : 0 < e.cth.settings.gap
    · rw [if_neg (by rw [hn.gap]; omega)] at ha
      rw [goesOn_false ha, if_pos hgap, onwardProgress, if_pos rfl, onwardVoice]
      have h := (comes_setVoice hs (restVoice s x)).near hn
      have hitem : r.items.length - 1 = x.item := by omega
      rw [hitem, ← hn.gap]
      exact h
    · rw [if_pos (by rw [hn.gap]; omega)] at ha
      rw [goesOn_true ha, if_neg hgap]
      have hround := (comes_startRound hs (x.round + 1)).near hn
      have hlangs : roleLang x.role r.langs (x.round + 1) = l := by rw [hrole]; exact hlang
      rw [List.length_cons, Nat.add_mul, Nat.one_mul] at hf
      cases hc : firstClip e r.items l with
      | some p =>
        obtain ⟨n, c⟩ := p
        have hn' : n < fuel := by
          have := firstClip_lt hc
          omega
        have h := (startItem_found n hround.toNear hround.toStands (c := c) (by dsimp only; rw [hlangs]; exact hc)
          (fun _ => hcut) hn').1
        dsimp only at h
        rw [hrole, progressed, Nat.zero_add] at h
        rw [← hrole] at h
        exact h
      | none =>
        have hlen : 0 < r.items.length := by omega
        obtain ⟨t, ht, hgo⟩ := startItem_passed (r.items.length - 1) hround.toNear hround.toStands
          (by dsimp only; rw [hlangs]; exact hc) hcut (by dsimp only; omega)
        have hfuel : fuel = (fuel - r.items.length) + (r.items.length - 1) + 1 := by omega
        rw [hfuel, hgo]
        have hprog : progressed x.role (r.items.length - 1 + 1) { round := x.round + 1, items := 0 } =
            { round := x.round + 1, items := r.items.length } := by
          rw [hrole, progressed]
          dsimp only
          congr 1
          omega
        dsimp only at ht
        rw [hprog] at ht
        have h := goesOn_onward later ht.toNear ht.toStands hcut (by dsimp only; omega) (by dsimp only; rw [hrole]; exact hlater)
          (stalled := false) (fun hno => absurd hno (by decide)) (fuel := fuel - r.items.length) (by dsimp only; omega)
        dsimp only at h
        rw [onwardVoice_place, onwardProgress_next r.progress] at h
        exact h

/-! ## A voice that starts, and one that has finished an item (R134, R138) -/

theorem startFrom_eq (h : Stands v x r s) : startFrom v s = startItem ((r.items.length + 1) * (r.langs.length + 1)) v s := by
  rw [startFrom, itemFuel, h.record]

theorem fuel_bound {items rounds later : Nat} (h : later ≤ rounds) : later * items + items < (items + 1) * (rounds + 1) := by
  have := Nat.mul_le_mul_right items h
  have : (items + 1) * (rounds + 1) = rounds * items + items + rounds + 1 := by ring
  omega

theorem laterLangs_le (role : Role) (langs : List Lang) (round : Nat) : (laterLangs role langs round).length ≤ langs.length := by
  cases role with
  | headset l => exact Nat.zero_le _
  | speaker => exact (List.length_drop ▸ Nat.sub_le _ _)

/-- The first item that resolves is started. -/
theorem startFrom_found {n : Nat} {c : Clip} (hn : Near v e s) (hs : Stands v x r s)
    (hc : firstClip e (r.items.drop x.item) (roleLang x.role r.langs x.round) = some (n, c)) (hcut : 0 < n → r.softCut = false) :
    Comes v e (startsClip e c { x with item := x.item + n }) { r with progress := progressed x.role n r.progress }
      (startFrom v s) ∧ Held c.first (startFrom v s) := by
  have hlt := firstClip_lt hc
  rw [List.length_drop] at hlt
  have hfuel := fuel_bound (items := r.items.length) (Nat.zero_le r.langs.length)
  rw [startFrom_eq hs]
  exact startItem_found n hn hs hc hcut (by omega)

/-- None of the items of the round resolves: what follows the round. -/
theorem startFrom_onward (hn : Near v e s) (hs : Stands v x r s) (hcut : r.softCut = false) (hi : x.item < r.items.length)
    (hc : firstClip e (r.items.drop x.item) (roleLang x.role r.langs x.round) = none) :
    let passed := afterRound e r.items x.round (laterLangs x.role r.langs x.round)
    Comes v e (onwardVoice e r.items x passed)
      { r with progress := onwardProgress r.items x.round (progressed x.role (r.items.length - x.item) r.progress) passed }
      (startFrom v s) := by
  obtain ⟨t, ht, hgo⟩ := startItem_passed (r.items.length - x.item - 1) hn hs hc hcut (by omega)
  have hfuel := fuel_bound (items := r.items.length) (laterLangs_le x.role r.langs x.round)
  generalize hf : (r.items.length + 1) * (r.langs.length + 1) = fuel at hfuel
  have hsplit : fuel = (fuel - (r.items.length - x.item)) + (r.items.length - x.item - 1) + 1 := by omega
  have hcount : r.items.length - x.item - 1 + 1 = r.items.length - x.item := by omega
  have h := goesOn_onward _ ht.toNear ht.toStands hcut (by dsimp only; omega) rfl (stalled := false)
    (fun hno => absurd hno (by decide)) (fuel := fuel - (r.items.length - x.item)) (by dsimp only; omega)
  dsimp only at h
  rw [onwardVoice_place e x x.round, hcount] at h
  rw [startFrom_eq hs, hf, hsplit, hgo]
  exact h

theorem finishItem_eq (hs : Stands v x r s) (stalled : Bool) : finishItem stalled v s =
    goesOn stalled v ((r.items.length + 1) * (r.langs.length + 1)) (countItem v s) := by
  have hcount := (comes_countItem hs).toStands
  have ha := afterItem_eq hcount stalled
  unfold finishItem goesOn
  dsimp only
  by_cases hcut : r.softCut = true
  · rw [ha.trans (if_pos hcut)]
    rfl
  · replace ha := ha.trans (if_neg hcut)
    by_cases hi : x.item + 1 < r.items.length
    · rw [ha.trans (if_pos hi)]
      have h := startFrom_eq (comes_setVoice hcount { x with item := x.item + 1 }).toStands
      exact h
    · replace ha := ha.trans (if_neg hi)
      by_cases hround : x.role = .speaker ∧ x.round + 1 < r.langs.length
      · replace ha := ha.trans (if_pos hround)
        by_cases hgap : (countItem v s).cth.settings.gap = 0
        · rw [ha.trans (if_pos hgap)]
          have h := startFrom_eq (comes_startRound hcount (x.round + 1)).toStands
          exact h
        · rw [ha.trans (if_neg hgap)]
          rfl
      · rw [ha.trans (if_neg hround)]
        rfl

/-- The voice has no more to play. -/
theorem finishItem_ends (hs : Stands v x r s) (stalled : Bool) (h : r.softCut = true ∨ (r.items.length ≤ x.item + 1 ∧
    ((∃ l, x.role = .headset l) ∨ r.langs.length ≤ x.round + 1))) :
    finishItem stalled v s = finishVoice stalled v (countItem v s) := by
  have ha := afterItem_eq (comes_countItem hs).toStands stalled
  rw [finishItem_eq hs]
  refine goesOn_false (ha.trans ?_) _
  dsimp only
  by_cases hcut : r.softCut = true
  · exact if_pos hcut
  · obtain ⟨hi, hround⟩ := h.resolve_left hcut
    have hno : ¬(x.role = .speaker ∧ x.round + 1 < r.langs.length) := by
      rintro ⟨hrole, hlt⟩
      rcases hround with ⟨l, hl⟩ | hle
      · rw [hrole] at hl
        cases hl
      · omega
    exact (if_neg hcut).trans ((if_neg (by omega)).trans (if_neg hno))

/-- The voice rests in the gap before the next round. -/
theorem finishItem_rests (hn : Near v e s) (hs : Stands v x r s) (stalled : Bool) (hcut : r.softCut = false)
    (hi : r.items.length ≤ x.item + 1) (hrole : x.role = .speaker) (hround : x.round + 1 < r.langs.length)
    (hgap : 0 < e.cth.settings.gap) :
    Comes v e (restVoice e x) { r with progress := progressed x.role 1 r.progress } (finishItem stalled v s) := by
  have hcount := (comes_countItem hs).near hn
  have hstop : ¬(countItem v s).cth.settings.gap = 0 := by rw [hcount.gap]; omega
  have ha := (afterItem_eq hcount.toStands stalled).trans ((if_neg (by simp [hcut])).trans ((if_neg (by dsimp only; omega)).trans
    ((if_pos ⟨hrole, hround⟩).trans (if_neg hstop))))
  rw [finishItem_eq hs, goesOn_false ha]
  have hvoice : restVoice (countItem v s) x = restVoice e x := by rw [restVoice, restVoice, hcount.gap]
  rw [hvoice]
  exact (comes_setVoice hcount.toStands (restVoice e x)).near hcount.toNear

/-- The voice starts the next round at its first item that resolves. -/
theorem finishItem_again {n : Nat} {c : Clip} (hn : Near v e s) (hs : Stands v x r s) (stalled : Bool) (hcut : r.softCut = false)
    (hi : r.items.length ≤ x.item + 1) (hrole : x.role = .speaker) (hround : x.round + 1 < r.langs.length)
    (hgap : e.cth.settings.gap = 0) (hc : firstClip e r.items (roleLang x.role r.langs (x.round + 1)) = some (n, c)) :
    Comes v e (startsClip e c { x with round := x.round + 1, item := n })
      { r with progress := { round := x.round + 1, items := n } } (finishItem stalled v s) := by
  have hcount := (comes_countItem hs).near hn
  have hnext := (comes_startRound hcount.toStands (x.round + 1)).near hcount.toNear
  have ha := (afterItem_eq hcount.toStands stalled).trans ((if_neg (by simp [hcut])).trans ((if_neg (by dsimp only; omega)).trans
    ((if_pos ⟨hrole, hround⟩).trans (if_pos (by rw [hcount.gap, hgap])))))
  have h := (startFrom_found hnext.toNear hnext.toStands hc fun _ => hcut).1
  rw [startFrom_eq hnext.toStands] at h
  dsimp only at h
  rw [Nat.zero_add, hrole, progressed, Nat.zero_add] at h
  rw [finishItem_eq hs, goesOn_true ha]
  rw [← hrole] at h
  exact h

/-- The voice starts the next item of its round that resolves. -/
theorem finishItem_found {n : Nat} {c : Clip} (hn : Near v e s) (hs : Stands v x r s) (stalled : Bool) (hcut : r.softCut = false)
    (hc : firstClip e (r.items.drop (x.item + 1)) (roleLang x.role r.langs x.round) = some (n, c)) :
    Comes v e (startsClip e c { x with item := x.item + 1 + n })
      { r with progress := progressed x.role (1 + n) r.progress } (finishItem stalled v s) := by
  have hcount := (comes_countItem hs).near hn
  have hnext := (comes_setVoice hcount.toStands { x with item := x.item + 1 }).near hcount.toNear
  have h := (startFrom_found hnext.toNear hnext.toStands hc fun _ => hcut).1
  rw [startFrom_eq hnext.toStands] at h
  dsimp only at h
  rw [progressed_add] at h
  rw [finishItem_eq hs, goesOn_next hcount.toStands hcut (firstClip_some_lt hc)]
  exact h

/-- No item that remains in the round resolves: what follows the round. -/
theorem finishItem_onward (hn : Near v e s) (hs : Stands v x r s) (stalled : Bool) (hcut : r.softCut = false)
    (hi : x.item < r.items.length) (hc : firstClip e (r.items.drop (x.item + 1)) (roleLang x.role r.langs x.round) = none)
    (hst : stalled = true → x.item + 1 < r.items.length ∨ laterLangs x.role r.langs x.round ≠ []) :
    let passed := afterRound e r.items x.round (laterLangs x.role r.langs x.round)
    Comes v e (onwardVoice e r.items x passed)
      { r with progress := onwardProgress r.items x.round (progressed x.role (r.items.length - x.item) r.progress) passed }
      (finishItem stalled v s) := by
  have hcount := (comes_countItem hs).near hn
  have hfuel := fuel_bound (items := r.items.length) (laterLangs_le x.role r.langs x.round)
  rw [finishItem_eq hs]
  by_cases hlast : x.item + 1 = r.items.length
  · have hone : r.items.length - x.item = 1 := by omega
    have h := goesOn_onward _ hcount.toNear hcount.toStands hcut hlast rfl (fun hs => (hst hs).resolve_left (by omega))
      (fuel := (r.items.length + 1) * (r.langs.length + 1)) (by dsimp only; omega)
    rw [hone]
    exact h
  · have hlt : x.item + 1 < r.items.length := by omega
    have hnext := (comes_setVoice hcount.toStands { x with item := x.item + 1 }).near hcount.toNear
    have h := startFrom_onward hnext.toNear hnext.toStands hcut hlt hc
    rw [startFrom_eq hnext.toStands] at h
    dsimp only at h
    rw [progressed_add, onwardVoice_place e x x.round] at h
    rw [goesOn_next hcount.toStands hcut hlt]
    have hsum : 1 + (r.items.length - (x.item + 1)) = r.items.length - x.item := by omega
    rw [hsum] at h
    exact h

end Sys2Proof.Proofs
end

section
/-! PROOFS. What each voice does and gives in a period, and what its sample brings (R128, R132, R136, R138, R139, R143). -/

namespace Sys2Proof.Proofs

open Sys2Proof Sys2Proof.Machine Sys2Proof.Laws

variable {s t u e : State} {v : VoiceNo} {x y : Voice} {r : RenderRec}

/-! ## What every move of a voice leaves -/

/-- As `Near`, with the rendering record changed in its progress alone. -/
structure NearRecord (v : VoiceNo) (s t : State) : Prop extends Near v s t where
  record : ∀ r, s.vpl.rendering = some r → ∃ p, t.vpl.rendering = some { r with progress := p }

theorem NearRecord.trans (h : NearRecord v s t) (h' : NearRecord v t u) : NearRecord v s u :=
  ⟨h.toNear.trans h'.toNear, fun r hr => by
    obtain ⟨p, hp⟩ := h.record r hr
    obtain ⟨q, hq⟩ := h'.record _ hp
    exact ⟨q, hq⟩⟩

theorem Near.withRecord (h : Near v s t) (hr : t.vpl.rendering = s.vpl.rendering) : NearRecord v s t :=
  ⟨h, fun r hs => ⟨r.progress, hr.trans hs⟩⟩

theorem nearRecord_setVoice (v : VoiceNo) (x : Voice) (s : State) : NearRecord v s (setVoice v x s) :=
  (near_setVoice v x s).withRecord rfl

theorem nearRecord_request (v : VoiceNo) (k u : Nat) (s : State) : NearRecord v s (request v k u s) :=
  (near_request v k u s).withRecord (by rw [(request_blocks v k u s).1])

theorem nearRecord_touch (v : VoiceNo) (k : Nat) (s : State) : NearRecord v s (touch k s) :=
  (near_touch v k s).withRecord (congrArg (fun t : State => t.vpl.rendering) (touch_frame k s) :)

theorem nearRecord_startClip (r : RenderRec) (v : VoiceNo) (c : Clip) (s : State) : NearRecord v s (startClip r v c s) := by
  have hset := nearRecord_setVoice v { voiceOf s v with
    state := .priming, clip := some c, position := 0, cur := some c.first, next := none, stall := 0 } s
  unfold startClip requestFor
  dsimp only
  generalize setVoice v _ s = t at hset ⊢
  have hask := hset.trans (nearRecord_request v c.first (r.priority.val + 1) t)
  generalize request v c.first (r.priority.val + 1) t = t at hask ⊢
  split
  · exact hask.trans ((nearRecord_setVoice v _ t).trans (nearRecord_touch v _ _))
  · exact hask

theorem nearRecord_countItem (v : VoiceNo) (s : State) : NearRecord v s (countItem v s) := by
  unfold countItem
  split
  · exact (Near.refl v s).withRecord rfl
  · next r hr =>
    split
    · refine ⟨near_setRendering v _ s, fun r' hr' => ?_⟩
      obtain rfl := Option.some.inj (hr.symm.trans hr')
      exact ⟨_, rfl⟩
    · exact (Near.refl v s).withRecord rfl

theorem nearRecord_startRound (v : VoiceNo) (n : Nat) (s : State) : NearRecord v s (startRound v n s) := by
  unfold startRound
  split
  · exact (Near.refl v s).withRecord rfl
  · next r hr =>
    refine ⟨(near_setRendering v _ s).trans (near_setVoice v _ _), fun r' hr' => ?_⟩
    obtain rfl := Option.some.inj (hr.symm.trans hr')
    exact ⟨_, rfl⟩

theorem nearRecord_ceaseWait (v : VoiceNo) (s : State) : NearRecord v s (ceaseWait v s) := (near_ceaseWait v s).withRecord rfl

theorem nearRecord_finishVoice (stalled : Bool) (v : VoiceNo) (s : State) : NearRecord v s (finishVoice stalled v s) := by
  cases stalled
  · exact (nearRecord_setVoice v _ s).trans (nearRecord_ceaseWait v _)
  · exact (nearRecord_setVoice v _ s).trans (nearRecord_ceaseWait v _)

theorem nearRecord_afterItem (stalled : Bool) (v : VoiceNo) (s : State) : NearRecord v s (afterItem stalled v s).1 := by
  cases hr : s.vpl.rendering with
  | none =>
    have h : afterItem stalled v s = (s, false) := by rw [afterItem, hr]
    rw [h]
    exact (Near.refl v s).withRecord rfl
  | some r =>
    rw [afterItem_eq ⟨rfl, hr⟩]
    split
    · exact nearRecord_finishVoice stalled v s
    · split
      · exact nearRecord_setVoice v _ s
      · split
        · split
          · exact nearRecord_startRound v _ s
          · exact nearRecord_setVoice v _ s
        · exact nearRecord_finishVoice stalled v s

theorem nearRecord_startItem : ∀ (n : Nat) (v : VoiceNo) (s : State), NearRecord v s (startItem n v s)
  | 0, v, s => (Near.refl v s).withRecord rfl
  | n + 1, v, s => by
    have hgo := (nearRecord_countItem v s).trans (nearRecord_afterItem false v (countItem v s))
    unfold startItem
    split
    · exact (Near.refl v s).withRecord rfl
    · dsimp only
      split
      · exact nearRecord_startClip _ v _ s
      · split
        · exact hgo.trans (nearRecord_startItem n v _)
        · exact hgo

theorem nearRecord_finishItem (stalled : Bool) (v : VoiceNo) (s : State) : NearRecord v s (finishItem stalled v s) := by
  have hgo := (nearRecord_countItem v s).trans (nearRecord_afterItem stalled v (countItem v s))
  unfold finishItem
  dsimp only
  split
  · exact hgo.trans (nearRecord_startItem _ v _)
  · exact hgo

/-! ## The end of a voice's event: the previous map, the end report and the arbiter (R132, R138) -/

theorem arbiter_vpl (u : State) : (arbiter u).vpl = u.vpl := (arbiter_leaves u).1

theorem arbiter_asq (u : State) : (arbiter u).asq = u.asq := (congrArg State.asq (arbiter_frame u).1 :)

theorem busyFor_eq (id : Nat) (x : Voice) : busyFor id x = (sounding id x || (x.state == .ending && x.claim.any fun c => c.owner == id)) := by
  unfold busyFor sounding
  cases x.claim <;> rfl

/-- A voice that plays or waits for an announcement, or is claimed for it (R138). -/
def finishedFor (id : Nat) (x : Voice) : Prop :=
  sounding id x = false ∧ (x.state == .ending && x.claim.any fun c => c.owner == id) = false

theorem reported_none (h : t.vpl.rendering = none) : reported s t ↔ t.asq.report = s.asq.report := by
  unfold reported
  rw [h]

theorem reported_done (h : t.vpl.rendering = some r) (hd : r.talk = false ∧ ∀ v, finishedFor r.owner (t.vpl.voices.get v)) :
    reported s t ↔ t.asq.report = some (r.owner, r.played) := by
  unfold reported
  rw [h]
  dsimp only
  split
  · exact Iff.rfl
  · next hno => exact absurd hd hno

theorem reported_busy (h : t.vpl.rendering = some r) (hd : ¬(r.talk = false ∧ ∀ v, finishedFor r.owner (t.vpl.voices.get v))) :
    reported s t ↔ t.asq.report = s.asq.report := by
  unfold reported
  rw [h]
  dsimp only
  split
  · next hyes => exact absurd hyes hd
  · exact Iff.rfl

/-- VPL's end report, where it is made (R138). -/
theorem reportIfDone_eq (u : State) : reportIfDone u = { u with asq := { u.asq with report := (reportIfDone u).asq.report } } ∧
    reported u (reportIfDone u) := by
  cases hr : u.vpl.rendering with
  | none =>
    have h : reportIfDone u = u := by rw [reportIfDone, hr]
    rw [h]
    exact ⟨rfl, (reported_none hr).mpr rfl⟩
  | some r =>
    have h : reportIfDone u = if r.talk || allVoices.any (fun v => busyFor r.owner (voiceOf u v)) then u
        else { u with asq := { u.asq with report := some (r.owner, r.played) } } := by rw [reportIfDone, hr]
    have hbusy : (r.talk || allVoices.any fun v => busyFor r.owner (voiceOf u v)) = false ↔
        r.talk = false ∧ ∀ v, finishedFor r.owner (u.vpl.voices.get v) := by
      simp [allVoices, busyFor_eq, voiceOf, finishedFor]
    by_cases hb : (r.talk || allVoices.any fun v => busyFor r.owner (voiceOf u v)) = true
    · rw [h, if_pos hb]
      refine ⟨rfl, (reported_busy hr fun hd => ?_).mpr rfl⟩
      rw [hbusy.mpr hd] at hb
      exact absurd hb (by decide)
    · rw [h, if_neg hb]
      refine ⟨rfl, (reported_done (r := r) ?_ ?_).mpr rfl⟩
      · exact hr
      · exact hbusy.mp (Bool.eq_false_iff.mpr hb)

theorem prunePrev_eq (u : State) :
    prunePrev u = { u with vpl := { u.vpl with prev := u.vpl.prev.filter (fades u.vpl.voices) } } := by
  unfold prunePrev
  cases hp : u.vpl.prev with
  | none =>
    exact congrArg (fun q => ({ u with vpl := { u.vpl with prev := q } } : State)) hp
  | some p =>
    have hany : (allSeats.any fun i => match p.map.get i with
        | some (.voice v) => (voiceOf u v).state == .ending && (voiceOf u v).owner == some p.owner
        | _ => false) = fades u.vpl.voices p := by
      unfold fades
      congr 1
      funext i
      cases p.map.get i with
      | none => rfl
      | some m => cases m <;> simp [voiceOf, beq_eq_decide]
    cases hf : fades u.vpl.voices p with
    | true =>
      refine (if_pos (hany.trans hf)).trans ?_
      rw [Option.filter_some, if_pos hf, ← hp]
    | false =>
      refine (if_neg fun h => absurd (hf.symm.trans (hany.symm.trans h)) (by decide)).trans ?_
      rw [Option.filter_some, if_neg (by simp [hf])]

/-- What an event of a voice comes to, after the voice's own part of it. -/
theorem reported_arbiter (hu : u.asq = s.asq) :
    (arbiter (reportIfDone u)).vpl = u.vpl ∧ reported s (arbiter (reportIfDone u)) ∧
      (arbiter (reportIfDone u)).asq = { s.asq with report := (arbiter (reportIfDone u)).asq.report } := by
  obtain ⟨he, hrep⟩ := reportIfDone_eq u
  have hvpl : (reportIfDone u).vpl = u.vpl := (congrArg State.vpl he :)
  have hasq : (reportIfDone u).asq = { u.asq with report := (reportIfDone u).asq.report } := (congrArg State.asq he :)
  rw [arbiter_vpl, arbiter_asq]
  refine ⟨hvpl, ?_, hu ▸ hasq⟩
  unfold reported at hrep ⊢
  rw [arbiter_vpl, arbiter_asq, ← hu]
  exact hrep

/-- The same with the previous map pruned. -/
theorem pruned_arbiter (hu : u.asq = s.asq) :
    (arbiter (reportIfDone (prunePrev u))).vpl = { u.vpl with prev := u.vpl.prev.filter (fades u.vpl.voices) } ∧
      reported s (arbiter (reportIfDone (prunePrev u))) := by
  have hprune := prunePrev_eq u
  obtain ⟨hvpl, hrep, -⟩ := reported_arbiter (s := s) (u := prunePrev u) (by rw [hprune]; exact hu)
  exact ⟨hvpl.trans (congrArg State.vpl hprune), hrep⟩

/-! ## What a sample brings (R136, R138, R143) -/

theorem nearRecord_markPlayed (hr : s.vpl.rendering = some r) :
    Near v s (markPlayed s) ∧ (markPlayed s).vpl.voices = s.vpl.voices ∧
      (markPlayed s).vpl.rendering = some { r with played := true } := by
  rw [markPlayed, hr]
  exact ⟨near_setRendering v _ s, rfl, rfl⟩

/-- The clip's last sample given, before what follows. -/
def playedState (v : VoiceNo) (s : State) : State :=
  ceaseWait v (setVoice v { voiceOf s v with cur := none, next := none } (markPlayed s))

theorem playedOut_eq (v : VoiceNo) (s : State) : playedOut v s = finishItem false v (playedState v s) := rfl

theorem comes_playedState (h : Stands v x r s) :
    Comes v s { x with cur := none, next := none } { r with played := true } (playedState v s) := by
  obtain ⟨hn, hv, hr⟩ := nearRecord_markPlayed (v := v) h.record
  rw [playedState, h.voice]
  exact ⟨hn.trans ((near_setVoice v _ _).trans (near_ceaseWait v _)), get_put_same _ _ _, hr⟩

theorem takeSample_idle (h1 : x.state ≠ .playing) (h2 : x.state ≠ .starved) (hv : voiceOf s v = x) : takeSample v s = s := by
  subst hv
  unfold takeSample
  dsimp only
  split
  · exact if_pos ⟨h1, h2⟩
  · rfl

theorem takeSample_sounding {c : Clip} (h : Stands v x r s) (hst : x.state = .playing ∨ x.state = .starved)
    (hc : x.clip = some c) : takeSample v s =
      if c.length ≤ x.position then playedOut v s
      else if x.position % 2048 = 1025 ∧ x.next = none ∧ (x.position / 2048 + 1) * 2048 < c.length then
        askAhead r v (c.first + x.position / 2048 + 1) s
      else s := by
  obtain ⟨hv, hr⟩ := h
  subst hv
  have hno : ¬((voiceOf s v).state ≠ .playing ∧ (voiceOf s v).state ≠ .starved) := fun hn => hst.elim hn.1 hn.2
  unfold takeSample
  dsimp only
  rw [hr, hc]
  exact if_neg hno

theorem nearRecord_takeSample (v : VoiceNo) (s : State) : Near v s (takeSample v s) ∧
    ∀ r, s.vpl.rendering = some r → ∃ b p, (takeSample v s).vpl.rendering = some { r with played := b, progress := p } := by
  have hsame : Near v s s ∧ ∀ r, s.vpl.rendering = some r → ∃ b p, s.vpl.rendering = some { r with played := b, progress := p } :=
    ⟨.refl v s, fun r hr => ⟨r.played, r.progress, hr⟩⟩
  cases hr : s.vpl.rendering with
  | none =>
    have h : takeSample v s = s := by
      unfold takeSample
      dsimp only
      rw [hr]
      split
      · next he => cases he
      · rfl
    rw [h]
    exact ⟨hsame.1, nofun⟩
  | some r =>
    rw [hr] at hsame
    cases hc : (voiceOf s v).clip with
    | none =>
      have h : takeSample v s = s := by
        unfold takeSample
        dsimp only
        rw [hc]
      rw [h, hr]
      exact hsame
    | some c =>
      by_cases hst : (voiceOf s v).state = .playing ∨ (voiceOf s v).state = .starved
      · rw [takeSample_sounding ⟨rfl, hr⟩ hst hc]
        split
        · have hplayed := comes_playedState ⟨rfl, hr⟩ (v := v)
          have hfin := nearRecord_finishItem false v (playedState v s)
          rw [playedOut_eq]
          refine ⟨hplayed.toNear.trans hfin.toNear, fun r' hr' => ?_⟩
          obtain rfl := Option.some.inj hr'
          obtain ⟨p, hp⟩ := hfin.record _ hplayed.record
          exact ⟨true, p, hp⟩
        · split
          · have hset := comes_setVoice (v := v) ⟨rfl, hr⟩ { voiceOf s v with next := some (c.first + (voiceOf s v).position / 2048 + 1) }
            have hask := (comes_request hset.toStands (c.first + (voiceOf s v).position / 2048 + 1) (r.priority.val + 1)).near hset.toNear
            exact ⟨hask.toNear, fun r' hr' => ⟨r'.played, r'.progress, hask.record.trans hr'⟩⟩
          · rw [hr]
            exact hsame
      · rw [takeSample_idle (fun h => hst (.inl h)) (fun h => hst (.inr h)) rfl, hr]
        exact hsame

/-! ## A voice's period (R128, R136, R139) -/

theorem validLine_congr (h : t.ccc.lines = s.ccc.lines) (k : Nat) : validLine t k = validLine s k := by
  unfold validLine lineOf
  rw [h]

/-- The sample at a place of a VALID sector. -/
theorem sampleIn_valid {k : Nat} {i : LineNo} {data : Memory} (hi : s.ccc.lines.get i = .valid k data)
    (hlow : ∀ j, j < i → ∀ d, s.ccc.lines.get j ≠ .valid k d) (j : Nat) :
    isValid s k = true ∧
      sampleIn s k j = (Memory.read data (2 * j + 1) ++ Memory.read data (2 * j)).toInt := by
  have hline : validLine s k = some i := validLine_some.mpr ⟨⟨data, hi⟩, hlow⟩
  rw [isValid, sampleIn, hline]
  dsimp only
  rw [lineOf, hi]
  exact ⟨rfl, rfl⟩

theorem isValid_false {k : Nat} (h : ∀ i data, s.ccc.lines.get i ≠ .valid k data) : isValid s k = false := by
  rw [isValid, validLine_none.mpr h]
  rfl

theorem sampleIn_congr (h : t.ccc.lines = s.ccc.lines) (k j : Nat) : sampleIn t k j = sampleIn s k j := by
  unfold sampleIn lineOf
  rw [validLine_congr h, h]

theorem playPeriod_eq {c : Clip} (hv : voiceOf s v = x) (hc : x.clip = some c) : playPeriod v s =
    (let k := c.first + x.position / 2048
     if x.cur = some k then giveSample v k s
     else if isValid s k then giveSample v k (touch k (setVoice v { x with cur := some k, next := none } s))
     else (setVoice v { x with state := .starved, cur := some k, next := none, stall := 0 } s, .waiting)) := by
  subst hv
  unfold playPeriod
  dsimp only
  rw [hc]
  rfl

theorem giveSample_voice (v : VoiceNo) (k : Nat) (s : State) :
    voiceOf (giveSample v k s).1 v = { voiceOf s v with position := (voiceOf s v).position + 1 } := voiceOf_setVoice v _ s

/-- A PLAYING voice whose sector is VALID gives its sample, and has crossed into that sector. -/
theorem playPeriod_gives {c : Clip} (hv : voiceOf s v = x) (hc : x.clip = some c)
    (hval : isValid s (c.first + x.position / 2048) = true) :
    (playPeriod v s).2 = .playing (sampleIn s (c.first + x.position / 2048) (x.position % 2048)) ∧
    voiceOf (playPeriod v s).1 v = { x with
      position := x.position + 1, cur := some (c.first + x.position / 2048),
      next := if x.cur = some (c.first + x.position / 2048) then x.next else none } := by
  rw [playPeriod_eq hv hc]
  generalize hk : c.first + x.position / 2048 = k at hval ⊢
  dsimp only
  by_cases hcur : x.cur = some k
  · rw [if_pos hcur, if_pos hcur, giveSample_voice, giveSample, hv, ← hcur]
    exact ⟨rfl, rfl⟩
  · rw [if_neg hcur, if_neg hcur, if_pos hval, giveSample_voice]
    have hvpl : (touch k (setVoice v { x with cur := some k, next := none } s)).vpl =
        (setVoice v { x with cur := some k, next := none } s).vpl := (congrArg State.vpl (touch_frame k _) :)
    have hvoice : voiceOf (touch k (setVoice v { x with cur := some k, next := none } s)) v = { x with cur := some k, next := none } := by
      rw [voiceOf, hvpl]
      exact get_put_same _ _ _
    have hlines : (touch k (setVoice v { x with cur := some k, next := none } s)).ccc.lines = s.ccc.lines :=
      (near_touch v k _).lines
    rw [giveSample, hvoice, sampleIn_congr hlines]
    exact ⟨rfl, rfl⟩

/-- The sample of a fading voice (R139). -/
theorem fadePeriod_sounds {c : Clip} {i : Nat} (hv : voiceOf s v = x) (hc : x.clip = some c) (hcur : x.cur = some i)
    (hloud : x.fadeSilent = false) (hpos : x.position < c.length) (hat : c.first + x.position / 2048 = i)
    (hval : isValid s i = true) :
    fadePeriod v s = (setVoice v { x with fade := min (x.fade + 1) 64, position := x.position + 1 } s,
      .fading ((sampleIn s i (x.position % 2048) * (64 - (min (x.fade + 1) 64 : Nat))).tdiv 64)) := by
  subst hv
  have hplace : c.first + (voiceOf s v).position / Config.sectorSamples = i := hat
  simp only [fadePeriod, hc, hcur, hloud, hpos, hplace, hval, Bool.not_false, decide_true, Bool.and_self, if_true]
  rfl

theorem fadePeriod_silent (hv : voiceOf s v = x) (h : x.clip = none ∨ x.cur = none ∨ x.fadeSilent = true ∨
    (∃ c, x.clip = some c ∧ (c.length ≤ x.position ∨ x.cur ≠ some (c.first + x.position / 2048))) ∨
    ∀ i, x.cur = some i → isValid s i = false) :
    fadePeriod v s = (setVoice v { x with fade := min (x.fade + 1) 64, fadeSilent := true } s, .fading 0) := by
  subst hv
  cases hc : (voiceOf s v).clip with
  | none => simp only [fadePeriod, hc]; rfl
  | some c =>
    cases hcur : (voiceOf s v).cur with
    | none => simp only [fadePeriod, hc, hcur]; rfl
    | some i =>
      have hoff : (!(voiceOf s v).fadeSilent && decide ((voiceOf s v).position < c.length) &&
          decide (c.first + (voiceOf s v).position / Config.sectorSamples = i) && isValid s i) = false := by
        rw [hc, hcur] at h
        rcases h with h | h | h | ⟨d, hd, h | h⟩ | h
        · cases h
        · cases h
        · simp [h]
        · obtain rfl := Option.some.inj hd
          simp [Nat.not_lt.mpr h]
        · obtain rfl := Option.some.inj hd
          have hne : ¬c.first + (voiceOf s v).position / Config.sectorSamples = i := fun he => h (congrArg some he.symm)
          simp [hne]
        · simp [h i rfl]
      simp only [fadePeriod, hc, hcur, hoff, Bool.false_eq_true, if_false]
      rfl

theorem nearRecord_giveSample (v : VoiceNo) (k : Nat) (s : State) : NearRecord v s (giveSample v k s).1 := nearRecord_setVoice v _ s

theorem near_voicePeriod (v : VoiceNo) (s : State) : (voicePeriod v s).1.vpl.rendering = s.vpl.rendering ∧ Near v s (voicePeriod v s).1 := by
  unfold voicePeriod
  split
  · exact ⟨rfl, .refl v s⟩
  · exact ⟨rfl, .refl v s⟩
  · exact ⟨rfl, .refl v s⟩
  · exact ⟨rfl, .refl v s⟩
  · cases hc : (voiceOf s v).clip with
    | none =>
      have h : playPeriod v s = (s, .waiting) := by
        unfold playPeriod
        dsimp only
        rw [hc]
      rw [h]
      exact ⟨rfl, .refl v s⟩
    | some c =>
      rw [playPeriod_eq rfl hc]
      dsimp only
      generalize c.first + (voiceOf s v).position / 2048 = k
      split
      · exact ⟨rfl, near_setVoice v _ s⟩
      · split
        · have hset := near_setVoice v { voiceOf s v with cur := some k, next := none } s
          have hrec : (touch k (setVoice v { voiceOf s v with cur := some k, next := none } s)).vpl.rendering = s.vpl.rendering :=
            (congrArg (fun t : State => t.vpl.rendering) (touch_frame k (setVoice v { voiceOf s v with cur := some k, next := none } s)) :)
          exact ⟨hrec, hset.trans ((near_touch v k _).trans (near_setVoice v _ _))⟩
        · exact ⟨rfl, near_setVoice v _ s⟩
  · unfold fadePeriod
    dsimp only
    split
    · exact ⟨rfl, near_setVoice v _ s⟩
    · exact ⟨rfl, near_setVoice v _ s⟩

/-- The periods of some voices leave the others. -/
theorem voicePeriods_others : ∀ (l : List VoiceNo) (s : State), v ∉ l →
    (voicePeriods l s).1.vpl.voices.get v = s.vpl.voices.get v
  | [], _, _ => rfl
  | w :: l, s, h => by
    obtain ⟨hw, hl⟩ := not_or.mp (mt List.mem_cons.mpr h)
    exact (voicePeriods_others l (voicePeriod w s).1 hl).trans ((near_voicePeriod w s).2.others v hw)

theorem voicePeriods_frame : ∀ (l : List VoiceNo) (s : State),
    (voicePeriods l s).1.vpl.rendering = s.vpl.rendering ∧ (voicePeriods l s).1.vpl.prev = s.vpl.prev ∧
      { (voicePeriods l s).1 with vpl := s.vpl, ccc := s.ccc } = s
  | [], _ => ⟨rfl, rfl, rfl⟩
  | v :: l, s => by
    obtain ⟨hrec, hone⟩ := near_voicePeriod v s
    obtain ⟨h1, h2, h3⟩ := voicePeriods_frame l (voicePeriod v s).1
    exact ⟨h1.trans hrec, h2.trans hone.prev,
      (congrArg (fun z : State => { z with vpl := s.vpl, ccc := s.ccc }) h3 :).trans hone.rest⟩

/-- A voice's period among those of all voices: it meets the cache and the voice as they stood. -/
theorem voicePeriods_at : ∀ (l : List VoiceNo) (s : State) (n : Nat), l.Nodup → l[n]? = some v →
    ∃ u, u.ccc.lines = s.ccc.lines ∧ voiceOf u v = voiceOf s v ∧ (voicePeriods l s).2[n]? = some (voicePeriod v u).2 ∧
      (voicePeriods l s).1.vpl.voices.get v = voiceOf (voicePeriod v u).1 v
  | [], s, n, _, h => by
    rw [List.getElem?_nil] at h
    cases h
  | w :: l, s, n, hnd, h => by
    obtain ⟨hw, hl⟩ := List.nodup_cons.mp hnd
    have hone := (near_voicePeriod w s).2
    cases n with
    | zero =>
      obtain rfl : w = v := Option.some.inj h
      have hrest : (voicePeriods l (voicePeriod w s).1).1.vpl.voices.get w = voiceOf (voicePeriod w s).1 w :=
        voicePeriods_others l _ hw
      exact ⟨s, rfl, rfl, rfl, hrest⟩
    | succ n =>
      rw [List.getElem?_cons_succ] at h
      obtain ⟨u, h1, h2, h3, h4⟩ := voicePeriods_at l (voicePeriod w s).1 n hl h
      have hne : v ≠ w := fun e => hw (e ▸ List.mem_of_getElem? h)
      exact ⟨u, h1.trans hone.lines, h2.trans (hone.others v hne), h3, h4⟩

/-- A voice's period among those of the eight voices. -/
theorem playVoices_at (s : State) (v : VoiceNo) : ∃ u, u.ccc.lines = s.ccc.lines ∧ voiceOf u v = s.vpl.voices.get v ∧
    (playVoices s).1.vpl.voices.get v = voiceOf (voicePeriod v u).1 v ∧
    (playVoices s).2.getD v.val .silent = (voicePeriod v u).2 := by
  have hplace : allVoices[v.val]? = some v := by simp [allVoices]
  obtain ⟨u, h1, h2, h3, h4⟩ := voicePeriods_at allVoices s v.val (List.nodup_finRange 8) hplace
  refine ⟨u, h1, h2, ?_, ?_⟩
  · have hsame : (playVoices s).1 = arbiter (voicePeriods allVoices s).1 := by simp only [playVoices]
    rw [hsame, arbiter_vpl, h4]
  · have hsame : (playVoices s).2 = (voicePeriods allVoices s).2 := by simp only [playVoices]
    rw [hsame, List.getD_eq_getElem?_getD, h3, Option.getD_some]

theorem playVoices_frame (s : State) : (playVoices s).1.vpl.rendering = s.vpl.rendering ∧ (playVoices s).1.vpl.prev = s.vpl.prev ∧
    (PortSettled s → { (playVoices s).1 with vpl := s.vpl, ccc := s.ccc, cmp := s.cmp } = s) := by
  have hp := voicePeriods_frame allVoices s
  have hsame : (playVoices s).1 = arbiter (voicePeriods allVoices s).1 := by simp only [playVoices]
  rw [hsame, arbiter_vpl]
  generalize (voicePeriods allVoices s).1 = t at hp ⊢
  obtain ⟨h1, h2, h3⟩ := hp
  refine ⟨h1, h2, fun hs => ?_⟩
  have hset : PortSettled t := settled_of_cmp hs (congrArg State.cmp h3 :)
  exact (congrArg (fun z : State => { z with vpl := s.vpl, ccc := s.ccc, cmp := s.cmp }) (arbiter_settled_frame hset) :).trans
    (congrArg (fun z : State => { z with cmp := s.cmp }) h3 :)

/-! ## What a sample brings, by the voice's record -/

/-- A voice's event and what follows it. -/
theorem followSample_vpl (v : VoiceNo) (s : State) : (followSample v s).vpl =
    { (takeSample v s).vpl with prev := (takeSample v s).vpl.prev.filter (fades (takeSample v s).vpl.voices) } :=
  (pruned_arbiter (s := s) (nearRecord_takeSample v s).1.asq).1

theorem followSample_voices (v : VoiceNo) (s : State) : (followSample v s).vpl.voices = (takeSample v s).vpl.voices :=
  (congrArg Vpl.voices (followSample_vpl v s) :)

theorem followSample_rendering (v : VoiceNo) (s : State) : (followSample v s).vpl.rendering = (takeSample v s).vpl.rendering :=
  (congrArg Vpl.rendering (followSample_vpl v s) :)

/-- Within its clip a voice asks for its next sector, where its sample is the one to ask at. -/
theorem followSample_within {c : Clip} (h : Stands v x r s) (hst : x.state = .playing ∨ x.state = .starved)
    (hc : x.clip = some c) (hpos : x.position < c.length) :
    (followSample v s).vpl.rendering = some r ∧
    (let next := c.first + x.position / 2048 + 1
     let further := x.position % 2048 = 1025 ∧ x.next = none ∧ (x.position / 2048 + 1) * 2048 < c.length
     (followSample v s).vpl.voices.get v = { x with next := if further then some next else x.next } ∧
       (further → Held next (followSample v s))) := by
  have htake := takeSample_sounding h hst hc
  rw [if_neg (Nat.not_le.mpr hpos)] at htake
  rw [followSample_rendering, followSample_voices]
  dsimp only
  by_cases hf : x.position % 2048 = 1025 ∧ x.next = none ∧ (x.position / 2048 + 1) * 2048 < c.length
  · rw [if_pos hf] at htake
    have hset := comes_setVoice h { x with next := some (c.first + x.position / 2048 + 1) }
    have hask := (comes_request hset.toStands (c.first + x.position / 2048 + 1) (r.priority.val + 1)).near hset.toNear
    have heq : takeSample v s = request v (c.first + x.position / 2048 + 1) (r.priority.val + 1)
        (setVoice v { x with next := some (c.first + x.position / 2048 + 1) } s) := by
      rw [htake, askAhead, h.voice, requestFor]
    have hheld := held_request v (c.first + x.position / 2048 + 1) (r.priority.val + 1)
      (setVoice v { x with next := some (c.first + x.position / 2048 + 1) } s)
    rw [← heq] at hask hheld
    refine ⟨hask.record, ?_, fun _ => ?_⟩
    · rw [if_pos hf]
      exact hask.voice
    · have hvoice : ((takeSample v s).vpl.voices.get v).next = some (c.first + x.position / 2048 + 1) :=
        congrArg Voice.next hask.voice
      refine held_arbiter (w := v) ?_ (.inr ?_)
      · rw [(reportIfDone_eq _).1, prunePrev_eq]
        exact hheld
      · rw [(reportIfDone_eq _).1, prunePrev_eq]
        exact hvoice
  · rw [if_neg hf] at htake
    rw [htake]
    refine ⟨h.record, ?_, fun h => absurd h hf⟩
    rw [if_neg hf]
    exact h.voice

/-- The end of a clip: the item is played, and the voice comes to what remains. -/
theorem takeSample_end {c : Clip} (h : Stands v x r s) (hst : x.state = .playing ∨ x.state = .starved)
    (hc : x.clip = some c) (hpos : c.length ≤ x.position) : takeSample v s = finishItem false v (playedState v s) := by
  rw [takeSample_sounding h hst hc, if_pos hpos, playedOut_eq]

theorem laterLangs_nil {role : Role} {langs : List Lang} {round : Nat}
    (h : (∃ l, role = .headset l) ∨ langs.length ≤ round + 1) : laterLangs role langs round = [] := by
  cases role with
  | headset l => rfl
  | speaker => exact List.drop_eq_nil_of_le (h.resolve_left fun ⟨l, hl⟩ => nomatch hl)

/-- A HEADSET voice does not move the speaker progress (R133). -/
theorem onwardProgress_headset {items : List Item} {role : Role} {langs : List Lang} {round : Nat} (h : ∃ l, role = .headset l)
    (n : Nat) (p : Progress) :
    onwardProgress items round (progressed role n p) (afterRound s items round (laterLangs role langs round)) = p := by
  obtain ⟨l, rfl⟩ := h
  exact if_pos rfl

/-- The voice and the progress at the end of a clip. -/
theorem finishItem_played (h : Stands v x r s) : ∃ y p,
    Comes v s y { r with played := true, progress := p } (finishItem false v (playedState v s)) ∧
    (let ends := r.softCut = true ∨ (r.items.length ≤ x.item + 1 ∧
        ((∃ l, x.role = .headset l) ∨ r.langs.length ≤ x.round + 1))
     let rests := r.softCut = false ∧ r.items.length ≤ x.item + 1 ∧ x.role = .speaker ∧ x.round + 1 < r.langs.length
     let further := firstClip s (r.items.drop (x.item + 1)) (roleLang x.role r.langs x.round)
     let again := firstClip s r.items (roleLang x.role r.langs (x.round + 1))
     let passed := afterRound s r.items x.round (laterLangs x.role r.langs x.round)
     (ends → y = Reset.voice ∧ p = progressed x.role 1 r.progress) ∧
     (rests → 0 < s.cth.settings.gap → y = restVoice s x ∧ p = progressed x.role 1 r.progress) ∧
     (∀ n d, rests → s.cth.settings.gap = 0 → again = some (n, d) →
       y = startsClip s d { x with round := x.round + 1, item := n } ∧ p = { round := x.round + 1, items := n }) ∧
     (r.softCut = false → further = none → x.item < r.items.length → y = onwardVoice s r.items x passed ∧
       p = onwardProgress r.items x.round (progressed x.role (r.items.length - x.item) r.progress) passed) ∧
     ∀ n d, r.softCut = false → further = some (n, d) →
       y = startsClip s d { x with item := x.item + 1 + n } ∧ p = progressed x.role (1 + n) r.progress) := by
  have hplayed := comes_playedState h
  have hfin := nearRecord_finishItem false v (playedState v s)
  obtain ⟨p, hp⟩ := hfin.record _ hplayed.record
  have heq {y' : Voice} {p' : Progress} (hc : Comes v s y' { r with played := true, progress := p' } (finishItem false v (playedState v s))) :
      voiceOf (finishItem false v (playedState v s)) v = y' ∧ p = p' :=
    ⟨hc.voice, (congrArg RenderRec.progress (Option.some.inj (hp.symm.trans hc.record)) :)⟩
  refine ⟨_, p, ⟨hplayed.toNear.trans hfin.toNear, rfl, hp⟩, fun hends => ?_, fun ⟨hcut, hi, hrole, hround⟩ hgap => ?_,
    fun n d ⟨hcut, hi, hrole, hround⟩ hgap hc => ?_, fun hcut hc hi => ?_, fun n d hcut hc => ?_⟩
  · have hfinish := finishItem_ends hplayed.toStands false hends
    have hcount := (comes_countItem hplayed.toStands).near hplayed.toNear
    have hidle := (comes_idleVoice hcount.toStands).near hcount.toNear
    exact heq (p' := progressed x.role 1 r.progress) (hfinish ▸ hidle)
  · exact heq (p' := progressed x.role 1 r.progress) (finishItem_rests hplayed.toNear hplayed.toStands false hcut hi hrole hround hgap)
  · exact heq (p' := { round := x.round + 1, items := n })
      (finishItem_again hplayed.toNear hplayed.toStands false hcut hi hrole hround hgap hc)
  · have hon := finishItem_onward hplayed.toNear hplayed.toStands false hcut hi hc (fun hno => absurd hno (by decide))
    obtain ⟨hv, hpr⟩ := heq (p' := onwardProgress r.items x.round (progressed x.role (r.items.length - x.item) r.progress)
      (afterRound s r.items x.round (laterLangs x.role r.langs x.round))) hon
    refine ⟨hv.trans ?_, hpr⟩
    cases afterRound s r.items x.round (laterLangs x.role r.langs x.round) <;> rfl
  · exact heq (p' := progressed x.role (1 + n) r.progress) (finishItem_found hplayed.toNear hplayed.toStands false hcut hc)

/-- A HEADSET voice's clip ends by its own round: the progress stands. -/
theorem headset_cases {p : Progress} (hrole : ∃ l, x.role = .headset l)
    (hends : (r.softCut = true ∨ r.items.length ≤ x.item + 1) → p = progressed x.role 1 r.progress)
    (hpass : r.softCut = false → firstClip s (r.items.drop (x.item + 1)) (roleLang x.role r.langs x.round) = none →
      x.item < r.items.length → p = r.progress)
    (hfound : ∀ n d, r.softCut = false → firstClip s (r.items.drop (x.item + 1)) (roleLang x.role r.langs x.round) = some (n, d) →
      p = progressed x.role (1 + n) r.progress) : p = r.progress := by
  have hstay (n : Nat) : progressed x.role n r.progress = r.progress := by
    obtain ⟨l, hl⟩ := hrole
    rw [hl]
    rfl
  by_cases hend : r.softCut = true ∨ r.items.length ≤ x.item + 1
  · exact (hends hend).trans (hstay 1)
  · obtain ⟨hcut, hi⟩ := not_or.mp hend
    have hcut := Bool.eq_false_iff.mpr hcut
    cases hc : firstClip s (r.items.drop (x.item + 1)) (roleLang x.role r.langs x.round) with
    | none => exact hpass hcut hc (by omega)
    | some q => exact (hfound q.1 q.2 hcut hc).trans (hstay _)

/-- Settles O53: the end of a clip by what remains for its voice, and each voice's period at the state that it meets. -/
theorem voicePeriods : Obligations.VoicePeriods := by
  refine ⟨fun s => playVoices_frame s, fun s v => ?_, fun s v => ?_⟩
  · intro x t y
    obtain ⟨hnear, hrec⟩ := nearRecord_takeSample v s
    obtain ⟨hvpl, hrep⟩ := pruned_arbiter (s := s) hnear.asq
    have hvoices : t.vpl.voices = (takeSample v s).vpl.voices := followSample_voices v s
    have hrendering : t.vpl.rendering = (takeSample v s).vpl.rendering := followSample_rendering v s
    refine ⟨hrep, ?_, fun w hw => ?_, fun hs => (keep_followSample (calm_closed s) v s (.refl hs)).frame, fun h1 h2 => ?_,
      fun c r hst hc hr => ⟨fun hpos => followSample_within ⟨rfl, hr⟩ hst hc hpos, fun hpos => ?_⟩⟩
    · rw [hvoices, ← hnear.prev]
      exact (congrArg Vpl.prev hvpl :)
    · rw [hvoices]
      exact hnear.others w hw
    · have hsame := takeSample_idle h1 h2 (rfl : voiceOf s v = x)
      rw [hsame] at hvoices hrendering
      exact ⟨congrArg (fun t : Vector Voice 8 => t.get v) hvoices, hrendering⟩
    · have hend : takeSample v s = _ := takeSample_end ⟨rfl, hr⟩ hst hc hpos
      obtain ⟨y', p, hcomes, hends, hrests, hagain, hpass, hfound⟩ := finishItem_played (v := v) ⟨rfl, hr⟩
      rw [← hend] at hcomes
      have hy : y = y' := (congrArg (fun t : Vector Voice 8 => t.get v) hvoices).trans hcomes.voice
      rw [hrendering, hy]
      refine ⟨⟨p, hcomes.record, fun hrole => ?_, fun h => ?_, fun n d hcut hc => (hfound n d hcut hc).2,
          fun n d hr hg hc => (hagain n d hr hg hc).2, fun hcut hc hi => (hpass hcut hc hi).2⟩,
        fun h => (hends h).1, fun h hg => (hrests h hg).1, fun n d h hg hc => (hagain n d h hg hc).1,
        fun hcut hc hi => (hpass hcut hc hi).1, fun n d hcut hc => (hfound n d hcut hc).1⟩
      · exact headset_cases hrole (fun h => (hends (h.imp id fun hi => ⟨hi, .inl hrole⟩)).2)
          (fun hcut hc hi => (hpass hcut hc hi).2.trans (onwardProgress_headset hrole _ _)) fun n d hcut hc => (hfound n d hcut hc).2
      · rcases h with h | ⟨h, hg⟩
        · exact (hends h).2
        · exact (hrests h hg).2
  · obtain ⟨u, hlines, hx, hy, hgave⟩ := playVoices_at s v
    generalize playVoices s = played at hy hgave ⊢
    intro x t y gave
    replace hx : voiceOf u v = x := hx
    replace hy : y = voiceOf (voicePeriod v u).1 v := hy
    replace hgave : gave = (voicePeriod v u).2 := hgave
    rw [hy, hgave]
    clear_value x
    rw [← hlines]
    refine ⟨fun hst => ?_, fun hst => ?_, fun c hst hc => ⟨fun hcur hno => ?_, fun i data hi hlow => ?_⟩,
      fun hst => ⟨fun c i line data hc hcur hloud hpos hat hi hlow => ?_, fun h => ?_⟩⟩
    · have h : voicePeriod v u = (u, .silent) := by rw [voicePeriod, hx, hst]
      rw [h]
      exact ⟨hx, rfl⟩
    · have h : voicePeriod v u = (u, .waiting) := by
        rcases hst with hst | hst | hst <;> rw [voicePeriod, hx, hst]
      rw [h]
      exact ⟨hx, rfl⟩
    · have h : voicePeriod v u = playPeriod v u := by rw [voicePeriod, hx, hst]
      rw [h, playPeriod_eq hx hc]
      dsimp only
      rw [if_neg hcur, if_neg (by rw [isValid_false hno]; decide)]
      exact ⟨voiceOf_setVoice v _ u, rfl⟩
    · have h : voicePeriod v u = playPeriod v u := by rw [voicePeriod, hx, hst]
      obtain ⟨hval, hsample⟩ := sampleIn_valid hi hlow (x.position % 2048)
      obtain ⟨h1, h2⟩ := playPeriod_gives hx hc hval
      rw [h, h1, h2, hsample]
      exact ⟨rfl, rfl⟩
    · have h : voicePeriod v u = fadePeriod v u := by rw [voicePeriod, hx, hst]
      obtain ⟨hval, hsample⟩ := sampleIn_valid hi hlow (x.position % 2048)
      rw [h, fadePeriod_sounds hx hc hcur hloud hpos hat hval, hsample]
      exact ⟨voiceOf_setVoice v _ u, rfl⟩
    · have h' : voicePeriod v u = fadePeriod v u := by rw [voicePeriod, hx, hst]
      rw [h', fadePeriod_silent hx (h.imp id (Or.imp id (Or.imp id (Or.imp id fun hno i hi => isValid_false (hno i hi)))))]
      exact ⟨voiceOf_setVoice v _ u, rfl⟩

end Sys2Proof.Proofs
end

section
/-! PROOFS. The expiries of a voice: its gap, its stall and the end of its fade (R133, R137, R138, R139). -/

namespace Sys2Proof.Proofs

open Sys2Proof Sys2Proof.Machine Sys2Proof.Laws

variable {s t u e : State} {v : VoiceNo} {x y : Voice} {r : RenderRec}

/-! ## No report while a voice sounds -/

theorem sounding_starts {c : Clip} (h : x.owner = some r.owner) (s : State) : sounding r.owner (startsClip s c x) = true := by
  unfold sounding startsClip
  cases sectorValid s c.first <;> simp [h]

/-- The frame of a calm event, in ASQ and outside it. -/
theorem calm_parts (h : Calm s t) : { t.asq with report := s.asq.report } = s.asq ∧
    { t with asq := s.asq, vpl := s.vpl, ccc := s.ccc, cmp := s.cmp } = s := by
  have hasq : { t.asq with report := s.asq.report } = s.asq := (congrArg State.asq h.frame :)
  refine ⟨hasq, ?_⟩
  have h' := h.frame
  rw [hasq] at h'
  exact h'

/-- While a voice sounds for the announcement a calm event reports nothing, and leaves ASQ. -/
theorem calm_sounding (h : Calm s t) (hrep : reported s t) (hr : t.vpl.rendering = some r)
    (hs : sounding r.owner (t.vpl.voices.get v) = true) : { t with vpl := s.vpl, ccc := s.ccc, cmp := s.cmp } = s := by
  have hno : ¬(r.talk = false ∧ ∀ v, finishedFor r.owner (t.vpl.voices.get v)) := fun ⟨_, hall⟩ => by
    have := (hall v).1
    rw [hs] at this
    cases this
  have hreport := (reported_busy hr hno).mp hrep
  have h' := h.frame
  rw [← hreport] at h'
  exact h'

/-! ## The gap (R133) -/

theorem gapExpires_early (h : (voiceOf s v).state ≠ .gap ∨ (voiceOf s v).gap < (voiceOf s v).gapKept) : gapExpires v s = s :=
  if_neg fun ⟨hst, hgap⟩ => h.elim (fun hno => hno hst) fun hlt => absurd hlt (Nat.not_lt.mpr hgap)

theorem gapExpires_over (h : (voiceOf s v).state = .gap) (hg : (voiceOf s v).gapKept ≤ (voiceOf s v).gap) :
    gapExpires v s = arbiter (reportIfDone (startFrom v (startRound v ((voiceOf s v).round + 1) s))) :=
  if_pos ⟨h, hg⟩

theorem exec_gapExpiry (h : s.power.running = true) (v : VoiceNo) : exec (.gapExpiry v) s = .next (gapExpires v s) :=
  whenRunning_running h

theorem exec_clipStall (h : s.power.running = true) (v : VoiceNo) : exec (.clipStall v) s = .next (clipStalls v s) :=
  whenRunning_running h

theorem exec_fadeEnd (h : s.power.running = true) (v : VoiceNo) : exec (.fadeEnd v) s = .next (fadeEnds v s) :=
  whenRunning_running h

/-- The gap is over: the voice starts the next round, or goes through it. -/
theorem gapExpires_round (hr : s.vpl.rendering = some r) (hst : (voiceOf s v).state = .gap)
    (hg : (voiceOf s v).gapKept ≤ (voiceOf s v).gap) (hrole : (voiceOf s v).role = .speaker) (x : Voice) (hx : voiceOf s v = x) :
    (∀ n c, firstClip s r.items (r.langs.getD (x.round + 1) 0) = some (n, c) → (0 < n → r.softCut = false) →
      ∃ u, gapExpires v s = arbiter (reportIfDone u) ∧ Held c.first u ∧
        Comes v s (startsClip s c { x with round := x.round + 1, item := n }) { r with progress := { round := x.round + 1, items := n } } u) ∧
    (firstClip s r.items (r.langs.getD (x.round + 1) 0) = none → r.items ≠ [] → r.softCut = false →
      let passed := afterRound s r.items (x.round + 1) (laterLangs .speaker r.langs (x.round + 1))
      ∃ u, gapExpires v s = arbiter (reportIfDone u) ∧
        Comes v s (onwardVoice s r.items x passed)
          { r with progress := onwardProgress r.items (x.round + 1) { round := x.round + 1, items := r.items.length } passed } u) := by
  subst hx
  have hround := comes_startRound (v := v) ⟨rfl, hr⟩ ((voiceOf s v).round + 1)
  have hexp := gapExpires_over hst hg
  refine ⟨fun n c hc hcut => ?_, ?_⟩
  · obtain ⟨h, hheld⟩ := startFrom_found hround.toNear hround.toStands (c := c) (n := n) (by dsimp only; rw [hrole]; exact hc) hcut
    dsimp only at h
    rw [Nat.zero_add, hrole, progressed, Nat.zero_add] at h
    exact ⟨_, hexp, hheld, hrole ▸ h⟩
  · intro hc hne hcut passed
    have h := startFrom_onward hround.toNear hround.toStands hcut (List.length_pos_iff.mpr hne) (by dsimp only; rw [hrole]; exact hc)
    dsimp only at h
    rw [onwardVoice_place s (voiceOf s v), hrole, progressed, Nat.sub_zero, Nat.zero_add] at h
    exact ⟨_, hexp, h⟩

/-! ## The stall (R137) -/

theorem firstClip_congr (hd : t.ccc.directory = s.ccc.directory) (hl : t.scc.languages = s.scc.languages)
    (items : List Item) (l : Lang) : firstClip t items l = firstClip s items l := by
  have hres (it : Item) : resolveItem t it l = resolveItem s it l := by simp only [resolveItem, lookup_congr hd, hl]
  simp only [firstClip, hres]

theorem afterRound_congr (hd : t.ccc.directory = s.ccc.directory) (hl : t.scc.languages = s.scc.languages)
    (hg : t.cth.settings.gap = s.cth.settings.gap) (items : List Item) : ∀ (later : List Lang) (round : Nat),
    afterRound t items round later = afterRound s items round later
  | [], _ => rfl
  | l :: later, round => by
    rw [afterRound, afterRound, firstClip_congr hd hl, hg, afterRound_congr hd hl hg items later]

theorem startsClip_congr (h : t.ccc.lines = s.ccc.lines) (c : Clip) (x : Voice) : startsClip t c x = startsClip s c x := by
  unfold startsClip sectorValid
  rw [h]

theorem onwardVoice_congr (h : t.ccc.lines = s.ccc.lines) (hg : t.cth.settings.gap = s.cth.settings.gap) (items : List Item)
    (x : Voice) (o : Onward) : onwardVoice t items x o = onwardVoice s items x o := by
  cases o with
  | starts round item c => exact startsClip_congr h c _
  | rests round => simp only [onwardVoice, hg]
  | finishes round => rfl

theorem clipStalls_early (h : ((voiceOf s v).state ≠ .priming ∧ (voiceOf s v).state ≠ .starved) ∨ (voiceOf s v).stall < 2000) :
    clipStalls v s = s :=
  if_neg fun ⟨hst, hlim⟩ => h.elim (fun hno => hst.elim hno.1 hno.2) fun hlt => absurd hlt (Nat.not_lt.mpr hlim)

/-- The state in which an abandoned item is finished: its notice queued, its pins and its waits dropped. -/
def stalledState (v : VoiceNo) (c : Clip) (x : Voice) (s : State) : State :=
  ceaseWait v (setVoice v { x with cur := none, next := none } (pushNotice (.clipStall v c.family) s))

theorem clipStalls_over {c : Clip} (hx : voiceOf s v = x) (hst : x.state = .priming ∨ x.state = .starved) (hlim : 2000 ≤ x.stall)
    (hc : x.clip = some c) : clipStalls v s = arbiter (reportIfDone (finishItem true v (stalledState v c x s))) := by
  subst hx
  have hfamily : (match (voiceOf s v).clip with | some c => c.family | none => 0) = c.family := by rw [hc]
  exact (if_pos ⟨hst, hlim⟩).trans (congrArg (fun f => arbiter (reportIfDone (finishItem true v (ceaseWait v
    (setVoice v { voiceOf s v with cur := none, next := none } (pushNotice (.clipStall v f) s)))))) hfamily)

theorem pushNotice_vpl (n : Notice) (s : State) : (pushNotice n s).vpl = s.vpl := (congrArg State.vpl (pushNotice_frame n s) :)

theorem comes_stalledState (h : Stands v x r s) (c : Clip) :
    Comes v (pushNotice (.clipStall v c.family) s) { x with cur := none, next := none } r (stalledState v c x s) :=
  ⟨(near_setVoice v _ _).trans (near_ceaseWait v _), get_put_same _ _ _,
    (congrArg Vpl.rendering (pushNotice_vpl _ s)).trans h.record⟩

theorem comes_enterEnding (h : Stands v x r s) : Comes v s { x with
    state := .ending, next := none, fade := 0, claim := none, fadeZones := some (r.mask, r.priority),
    fadeSilent := x.state != .playing } r (enterEnding v s) := by
  obtain ⟨hv, hr⟩ := h
  subst hv
  have hzones : s.vpl.rendering.map (fun r => (r.mask, r.priority)) = some (r.mask, r.priority) := by rw [hr]; rfl
  unfold enterEnding
  rw [hzones]
  exact ⟨(near_setVoice v _ s).trans (near_ceaseWait v _), get_put_same _ _ _, hr⟩

/-- The voice and the rendering record after an abandoned item. -/
theorem finishItem_stalled {c : Clip} (h : Stands v x r s) (hst : x.state = .priming ∨ x.state = .starved) : ∃ y r',
    Comes v (pushNotice (.clipStall v c.family) s) y r' (finishItem true v (stalledState v c x s)) ∧
    (let counted := fun n : Nat => { r with progress := progressed x.role n r.progress }
     let noItem := r.items.length ≤ x.item + 1
     ((r.softCut = true ∨ (noItem ∧ ((∃ l, x.role = .headset l) ∨ r.langs.length ≤ x.round + 1))) →
       y = { x with
         state := .ending, cur := none, next := none, fade := 0, claim := none,
         fadeZones := some (r.mask, r.priority), fadeSilent := true } ∧ r' = counted 1) ∧
     (r.softCut = false → noItem → x.role = .speaker → x.round + 1 < r.langs.length → 0 < s.cth.settings.gap →
       y = { x with
         state := .gap, clip := none, position := 0, cur := none, next := none, gap := 0,
         gapKept := s.cth.settings.gap } ∧ r' = counted 1) ∧
     (∀ n d, r.softCut = false → noItem → x.role = .speaker → x.round + 1 < r.langs.length → s.cth.settings.gap = 0 →
       firstClip s r.items (r.langs.getD (x.round + 1) 0) = some (n, d) →
       y = startsClip s d { x with round := x.round + 1, item := n } ∧
       r' = { r with progress := { round := x.round + 1, items := n } }) ∧
     (r.softCut = false → firstClip s (r.items.drop (x.item + 1)) (roleLang x.role r.langs x.round) = none →
       (x.item + 1 < r.items.length ∨
         (x.item + 1 = r.items.length ∧ x.role = .speaker ∧ x.round + 1 < r.langs.length)) →
       let passed := afterRound s r.items x.round (laterLangs x.role r.langs x.round)
       y = onwardVoice s r.items x passed ∧
       r' = { r with
         progress := onwardProgress r.items x.round (progressed x.role (r.items.length - x.item) r.progress) passed }) ∧
     ∀ n d, r.softCut = false →
       firstClip s (r.items.drop (x.item + 1)) (roleLang x.role r.langs x.round) = some (n, d) →
       y = startsClip s d { x with item := x.item + 1 + n } ∧ r' = counted (1 + n)) := by
  have hcome := comes_stalledState h c
  generalize hn : pushNotice (.clipStall v c.family) s = e at hcome
  have hccc : e.ccc = s.ccc := hn ▸ (congrArg State.ccc (pushNotice_frame _ s) :)
  have hscc : e.scc = s.scc := hn ▸ (congrArg State.scc (pushNotice_frame _ s) :)
  have hgap : e.cth.settings.gap = s.cth.settings.gap := hn ▸ congrArg Settings.gap (pushNotice_settings _ s)
  have hfirst := firstClip_congr (congrArg Ccc.directory hccc) (congrArg Scc.languages hscc)
  have hstarts := startsClip_congr (congrArg Ccc.lines hccc)
  have honward := onwardVoice_congr (congrArg Ccc.lines hccc) hgap
  have hround := afterRound_congr (congrArg Ccc.directory hccc) (congrArg Scc.languages hscc) hgap
  have hfin := nearRecord_finishItem true v (stalledState v c x s)
  obtain ⟨p, hp⟩ := hfin.record _ hcome.record
  have heq {y' : Voice} {r' : RenderRec} (hc : Comes v e y' r' (finishItem true v (stalledState v c x s))) :
      voiceOf (finishItem true v (stalledState v c x s)) v = y' ∧ { r with progress := p } = r' :=
    ⟨hc.voice, Option.some.inj (hp.symm.trans hc.record)⟩
  refine ⟨_, _, ⟨hcome.toNear.trans hfin.toNear, rfl, hp⟩, fun hends => ?_, fun hcut hi hrole hround hg => ?_,
    fun n d hcut hi hrole hround hg hc => ?_, ?_, fun n d hcut hc => ?_⟩
  · have hfinish := finishItem_ends hcome.toStands true hends
    have hcount := (comes_countItem hcome.toStands).near hcome.toNear
    have hend := (comes_enterEnding hcount.toStands).near hcount.toNear
    have hfin : finishItem true v (stalledState v c x s) = enterEnding v (countItem v (stalledState v c x s)) := hfinish
    rw [← hfin] at hend
    obtain ⟨hv, hr⟩ := heq hend
    refine ⟨hv.trans ?_, hr⟩
    rcases hst with hst | hst <;> simp [hst]
  · obtain ⟨hv, hr⟩ := heq (finishItem_rests hcome.toNear hcome.toStands true hcut hi hrole hround (by rw [hgap]; exact hg))
    rw [restVoice, hgap] at hv
    exact ⟨hv, hr⟩
  · obtain ⟨hv, hr⟩ := heq (finishItem_again hcome.toNear hcome.toStands true hcut hi hrole hround (hgap.trans hg)
      (by dsimp only; rw [hrole, hfirst]; exact hc))
    rw [hstarts] at hv
    exact ⟨hv, hr⟩
  · intro hcut hc hi
    have hlt : x.item < r.items.length := by rcases hi with hi | ⟨hi, -⟩ <;> omega
    have hmore : x.item + 1 < r.items.length ∨ laterLangs x.role r.langs x.round ≠ [] := hi.imp id fun ⟨_, hrole, hr⟩ => by
      rw [hrole, laterLangs]
      exact fun he => absurd (List.drop_eq_nil_iff.mp he) (by omega)
    obtain ⟨hv, hr⟩ := heq (finishItem_onward hcome.toNear hcome.toStands true hcut hlt (by rw [hfirst]; exact hc) fun _ => hmore)
    rw [hround] at hv hr
    rw [honward] at hv
    refine ⟨hv.trans ?_, hr⟩
    cases afterRound s r.items x.round (laterLangs x.role r.langs x.round) <;> rfl
  · obtain ⟨hv, hr⟩ := heq (finishItem_found hcome.toNear hcome.toStands true hcut (by rw [hfirst]; exact hc))
    rw [hstarts] at hv
    exact ⟨hv, hr⟩

/-! ## The end of a fade (R139) -/

theorem fadeEnds_early (h : (voiceOf s v).state ≠ .ending ∨ (voiceOf s v).fade < 64) : fadeEnds v s = s :=
  if_neg fun ⟨hst, hlim⟩ => h.elim (fun hno => hno hst) fun hlt => absurd hlt (Nat.not_lt.mpr hlim)

theorem fadeEnds_free (hst : (voiceOf s v).state = .ending) (hlim : 64 ≤ (voiceOf s v).fade) (hc : (voiceOf s v).claim = none) :
    fadeEnds v s = arbiter (reportIfDone (prunePrev (setVoice v Reset.voice s))) := by
  refine (if_pos ⟨hst, hlim⟩).trans ?_
  rw [hc]

/-- The voice that a claim makes. -/
def claimedVoice (k : Claim) : Voice :=
  { Reset.voice with state := .priming, owner := some k.owner, role := k.role, round := k.round }

theorem fadeEnds_claimed {k : Claim} (hst : (voiceOf s v).state = .ending) (hlim : 64 ≤ (voiceOf s v).fade)
    (hc : (voiceOf s v).claim = some k) :
    fadeEnds v s = arbiter (reportIfDone (prunePrev (startFrom v (setVoice v (claimedVoice k) s)))) := by
  refine (if_pos ⟨hst, hlim⟩).trans ?_
  rw [hc, claimedVoice]

/-- What a claim comes to at the end of the fade. -/
theorem startFrom_claimed (hr : s.vpl.rendering = some r) (k : Claim) :
    (∀ n c, firstClip s r.items (roleLang k.role r.langs k.round) = some (n, c) → (0 < n → r.softCut = false) →
      Comes v s (startsClip s c { Reset.voice with owner := some k.owner, role := k.role, round := k.round, item := n })
        { r with progress := progressed k.role n r.progress } (startFrom v (setVoice v (claimedVoice k) s))) ∧
    (firstClip s r.items (roleLang k.role r.langs k.round) = none → r.items ≠ [] → r.softCut = false →
      let passed := afterRound s r.items k.round (laterLangs k.role r.langs k.round)
      Comes v s (onwardVoice s r.items { Reset.voice with owner := some k.owner, role := k.role, round := k.round } passed)
        { r with progress := onwardProgress r.items k.round (progressed k.role r.items.length r.progress) passed }
        (startFrom v (setVoice v (claimedVoice k) s))) := by
  have hset := comes_setVoice (v := v) ⟨rfl, hr⟩ (claimedVoice k)
  refine ⟨fun n c hc hcut => ?_, ?_⟩
  · have h := (startFrom_found hset.toNear hset.toStands (n := n) (c := c) hc hcut).1
    have hitem : (claimedVoice k).item + n = n := Nat.zero_add n
    rw [hitem] at h
    exact h
  · intro hc hne hcut passed
    have h := startFrom_onward hset.toNear hset.toStands hcut (List.length_pos_iff.mpr hne) hc
    have hvoice : onwardVoice s r.items (claimedVoice k) passed =
        onwardVoice s r.items { Reset.voice with owner := some k.owner, role := k.role, round := k.round } passed := by
      cases passed <;> rfl
    rw [← hvoice]
    exact h

/-- Settles O54: each expiry by the state that its voice is in, and what the voice comes to. -/
theorem voiceExpiriesAct : Obligations.VoiceExpiriesAct := by
  refine ⟨fun v r n c s hrun hs => ?_, fun v r c s hrun hs => ?_, fun v s hrun hs => ?_⟩
  · intro x
    rw [exec_gapExpiry hrun]
    have hcalm := keep_gapExpires (calm_closed s) v s (.refl hs)
    refine ⟨fun h => congrArg _ (gapExpires_early h), fun hst hg hrole howner hr hc hcut => ?_,
      fun hst hg hrole howner hr hc hne hcut => ?_, fun hst hg => ?_⟩
    · obtain ⟨hround, -⟩ := gapExpires_round hr hst hg hrole x rfl
      obtain ⟨u, hu, hheld, hcome⟩ := hround n c hc hcut
      have hvoice : u.vpl.voices.get v = _ := hcome.voice
      obtain ⟨hvpl, hrep, -⟩ := reported_arbiter (s := s) hcome.asq
      rw [← hu] at hvpl hrep
      have hframe := calm_sounding (v := v) hcalm hrep (r := { r with progress := { round := x.round + 1, items := n } })
        (by rw [hvpl]; exact hcome.record) (by rw [hvpl, hvoice]; exact sounding_starts howner s)
      refine ⟨_, rfl, ?_, fun w hw => ?_, ?_, fun _ => ?_, ?_, hframe⟩
      · rw [hvpl, hvoice]
      · rw [hvpl]
        exact hcome.others w hw
      · rw [hvpl, hcome.record]
      · rw [hu, (reportIfDone_eq u).1]
        exact held_arbiter (w := v) hheld (.inl (congrArg Voice.cur hvoice))
      · rw [hvpl]
        exact hcome.prev
    · obtain ⟨-, hround⟩ := gapExpires_round hr hst hg hrole x rfl
      obtain ⟨u, hu, hcome⟩ := hround hc hne hcut
      obtain ⟨hvpl, -, -⟩ := reported_arbiter (s := s) hcome.asq
      obtain ⟨hasq, hframe⟩ := calm_parts hcalm
      refine ⟨_, rfl, ?_, fun w hw => ?_, ?_, ?_, hasq, hframe⟩
      · rw [hu, hvpl]
        exact hcome.voice
      · rw [hu, hvpl]
        exact hcome.others w hw
      · rw [hu, hvpl]
        exact hcome.record
      · rw [hu, hvpl]
        exact hcome.prev
    · have hnear : NearRecord v s (startFrom v (startRound v (x.round + 1) s)) :=
        (nearRecord_startRound v (x.round + 1) s).trans (nearRecord_startItem _ v _)
      obtain ⟨-, hrep, -⟩ := reported_arbiter (s := s) hnear.asq
      refine ⟨_, rfl, ?_⟩
      rw [gapExpires_over hst hg]
      exact hrep
  · intro x
    rw [exec_clipStall hrun]
    refine ⟨fun h => congrArg _ (clipStalls_early h), fun hst hlim hc hr => ?_⟩
    obtain ⟨y, r', hcome, hends, hrests, hagain, hpass, hfound⟩ := finishItem_stalled (c := c) (v := v) ⟨rfl, hr⟩ hst
    have hover := clipStalls_over (v := v) rfl hst hlim hc
    have hnotice := pushNotice_frame (.clipStall v c.family) s
    have hset : PortSettled (pushNotice (.clipStall v c.family) s) := settled_of_cmp hs (congrArg State.cmp hnotice :)
    have hcalm : Calm (pushNotice (.clipStall v c.family) s) (clipStalls v s) := by
      rw [hover]
      have hc := calm_closed (pushNotice (.clipStall v c.family) s)
      exact hc.arbiter _ (keep_reportIfDone hc _ (keep_finishItem hc true v _ (hc.ceaseWait v _ (hc.vpl _ _ (.refl hset)))))
    obtain ⟨hvpl, hrep, -⟩ := reported_arbiter (s := s) (hcome.asq.trans (congrArg State.asq hnotice :))
    have hvoices : (pushNotice (.clipStall v c.family) s).vpl = s.vpl := pushNotice_vpl _ s
    obtain ⟨hasq, hframe⟩ := calm_parts hcalm
    rw [← hover] at hvpl hrep
    have hy : (clipStalls v s).vpl.voices.get v = y := (congrArg (fun p : Vpl => p.voices.get v) hvpl).trans hcome.voice
    have hr' : (clipStalls v s).vpl.rendering = some r' := (congrArg Vpl.rendering hvpl).trans hcome.record
    refine ⟨_, rfl, (congrArg State.cth hframe :), fun w hw => ?_, ⟨fun h => ?_, fun hcut hi hrole hround hg => ?_,
      fun n d hcut hi hrole hround hg hc => ?_, ?_, fun n d hcut hc => ?_⟩, hrep, ?_, ?_, ?_⟩
    · rw [hvpl, hcome.others w hw, hvoices]
    · rw [hy, hr', (hends h).1, (hends h).2]
      exact ⟨rfl, rfl⟩
    · obtain ⟨h1, h2⟩ := hrests hcut hi hrole hround hg
      rw [hy, hr', h1, h2]
      exact ⟨rfl, rfl⟩
    · obtain ⟨h1, h2⟩ := hagain n d hcut hi hrole hround hg hc
      rw [hy, hr', h1, h2]
      exact ⟨rfl, rfl⟩
    · intro hcut hc hi
      obtain ⟨h1, h2⟩ := hpass hcut hc hi
      rw [hy, hr', h1, h2]
      exact ⟨rfl, rfl⟩
    · obtain ⟨h1, h2⟩ := hfound n d hcut hc
      rw [hy, hr', h1, h2]
      exact ⟨rfl, rfl⟩
    · rw [hvpl, hcome.prev, hvoices]
    · rw [← (congrArg State.asq hnotice : _ = s.asq)]
      exact hasq
    · exact (congrArg (fun z : State => { z with cth := s.cth, asq := s.asq, vpl := s.vpl, ccc := s.ccc, cmp := s.cmp }) hframe :).trans
        (congrArg (fun z : State => { z with asq := s.asq, vpl := s.vpl, ccc := s.ccc, cmp := s.cmp }) hnotice :)
  · intro x
    rw [exec_fadeEnd hrun]
    have hcalm := keep_fadeEnds (calm_closed s) v s (.refl hs)
    refine ⟨fun h => congrArg _ (fadeEnds_early h), fun hst hlim hc => ?_, fun k r c n hst hlim hc hr howner hf hcut => ?_,
      fun k r hst hlim hc hr howner hf hne hcut => ?_⟩
    · have hover := fadeEnds_free hst hlim hc
      obtain ⟨hvpl, hrep⟩ := pruned_arbiter (s := s) (u := setVoice v Reset.voice s) rfl
      rw [← hover] at hvpl hrep
      refine ⟨_, rfl, ?_, ?_, hrep, ?_, calm_parts hcalm⟩
      · rw [hvpl]
        rfl
      · rw [hvpl]
        rfl
      · rw [hvpl]
        rfl
    · have hover := fadeEnds_claimed hst hlim hc
      have hcome := (startFrom_claimed (v := v) hr k).1 n c hf hcut
      obtain ⟨hvpl, hrep⟩ := pruned_arbiter (s := s) hcome.asq
      rw [← hover] at hvpl hrep
      have hvoice : (fadeEnds v s).vpl.voices.get v = _ := (congrArg (fun p : Vpl => p.voices.get v) hvpl).trans hcome.voice
      have hframe := calm_sounding (v := v) hcalm hrep (r := { r with progress := progressed k.role n r.progress })
        (by rw [hvpl]; exact hcome.record) (by rw [hvoice]; exact sounding_starts (congrArg some howner) s)
      refine ⟨_, rfl, hvoice, ?_, fun w hw => ?_, ?_, hframe⟩
      · rw [hvpl]
        exact hcome.record
      · rw [hvpl]
        exact hcome.others w hw
      · rw [hvpl, ← hcome.prev]
    · have hover := fadeEnds_claimed hst hlim hc
      have hcome := (startFrom_claimed (v := v) hr k).2 hf hne hcut
      obtain ⟨hvpl, hrep⟩ := pruned_arbiter (s := s) hcome.asq
      rw [← hover] at hvpl hrep
      refine ⟨_, rfl, ?_, ?_, fun w hw => ?_, hrep, ?_, calm_parts hcalm⟩
      · rw [hvpl]
        exact hcome.voice
      · rw [hvpl]
        exact hcome.record
      · rw [hvpl]
        exact hcome.others w hw
      · rw [hvpl, ← hcome.prev]

end Sys2Proof.Proofs
end

section
/-! PROOFS. The voices that an announcement takes and the seat map it makes (R130, R131). -/

namespace Sys2Proof.Proofs

open Sys2Proof Sys2Proof.Machine Sys2Proof.Laws

variable {s t u e : State} {v : VoiceNo} {x y : Voice} {r : RenderRec} {a : Announcement}

/-! ## The other languages in their order (R130) -/

/-- The order of languages: by number, and within a number by language. -/
def LangOrder (n : Lang → Nat) (k l : Lang) : Prop := n l < n k ∨ (n k = n l ∧ k < l)

theorem insertByCount_perm (n : Lang → Nat) (l : Lang) : ∀ ks : List Lang, (insertByCount n l ks).Perm (l :: ks)
  | [] => .refl _
  | k :: ks => by
    unfold insertByCount
    split
    · exact .refl _
    · exact ((insertByCount_perm n l ks).cons k).trans (.swap l k ks)

theorem insertByCount_order {n : Lang → Nat} {l : Lang} : ∀ {ks : List Lang}, ks.Pairwise (LangOrder n) → (∀ k ∈ ks, k < l) →
    (insertByCount n l ks).Pairwise (LangOrder n)
  | [], _, _ => List.pairwise_singleton _ _
  | k :: ks, h, hl => by
    obtain ⟨hk, hks⟩ := List.pairwise_cons.mp h
    unfold insertByCount
    split
    · next hlt =>
      refine List.pairwise_cons.mpr ⟨fun m hm => .inl ?_, h⟩
      rcases List.mem_cons.mp hm with rfl | hm
      · exact hlt
      · rcases hk m hm with hm | ⟨hm, -⟩ <;> omega
    · next hge =>
      refine List.pairwise_cons.mpr ⟨fun m hm => ?_, insertByCount_order hks fun m hm => hl m (List.mem_cons_of_mem k hm)⟩
      rcases List.mem_cons.mp ((insertByCount_perm n l ks).mem_iff.mp hm) with rfl | hm
      · rcases Nat.lt_or_ge (n m) (n k) with hlt | hle
        · exact .inl hlt
        · exact .inr ⟨by omega, hl k List.mem_cons_self⟩
      · exact hk m hm

theorem foldl_insertByCount {n : Lang → Nat} : ∀ (ls acc : List Lang), acc.Pairwise (LangOrder n) → ls.Pairwise (· < ·) →
    (∀ k ∈ acc, ∀ l ∈ ls, k < l) →
    (ls.foldl (fun acc l => insertByCount n l acc) acc).Pairwise (LangOrder n) ∧
      (ls.foldl (fun acc l => insertByCount n l acc) acc).Perm (ls ++ acc)
  | [], acc, h, _, _ => ⟨h, .refl _⟩
  | l :: ls, acc, h, hs, hlt => by
    obtain ⟨hl, hls⟩ := List.pairwise_cons.mp hs
    have hperm := insertByCount_perm n l acc
    obtain ⟨h1, h2⟩ := foldl_insertByCount ls (insertByCount n l acc)
      (insertByCount_order h fun k hk => hlt k hk l List.mem_cons_self) hls fun k hk m hm => by
        rcases List.mem_cons.mp (hperm.mem_iff.mp hk) with rfl | hk
        · exact hl m hm
        · exact hlt k hk m (List.mem_cons_of_mem l hm)
    exact ⟨h1, h2.trans ((hperm.append_left ls).trans List.perm_middle)⟩

/-- The other languages: those that seats that count use, in their order (R130). -/
theorem otherLangs_spec (s : State) (mask : ZoneMask) (primary : Option Lang) :
    (otherLangs s mask primary).Nodup ∧ (∀ l, l ∈ otherLangs s mask primary ↔ 0 < langCount s mask l ∧ primary ≠ some l) ∧
      (otherLangs s mask primary).Pairwise (LangOrder (langCount s mask)) := by
  obtain ⟨h1, h2⟩ := foldl_insertByCount (n := langCount s mask)
    (allLangs.filter fun l => some l != primary && decide (0 < langCount s mask l)) [] List.Pairwise.nil
    ((List.pairwise_lt_finRange 12).filter _) nofun
  rw [List.append_nil] at h2
  refine ⟨h2.nodup_iff.mpr ((List.nodup_finRange 12).filter _), fun l => h2.mem_iff.trans ?_, h1⟩
  rw [List.mem_filter]
  simp only [allLangs, List.mem_finRange, true_and, Bool.and_eq_true, bne_iff_ne, decide_eq_true_eq]
  exact and_comm.trans (and_congr_right' ⟨Ne.symm, Ne.symm⟩)

/-! ## The roles and the voices (R119, R130) -/

/-- The primary language of an announcement for seats. -/
def primaryOf (a : Announcement) : Option Lang := if a.rendering = .speakers then none else a.langs.head?

/-- Its other languages. -/
def othersOf (s : State) (a : Announcement) : List Lang :=
  if a.rendering = .speakers then [] else otherLangs s a.mask a.langs.head?

theorem wantedRoles_eq (s : State) (a : Announcement) (round : Option Nat) : wantedRoles s a round.isSome =
    round.toList.map (fun _ => Role.speaker) ++ (primaryOf a).toList.map Role.headset ++ (othersOf s a).map Role.headset := by
  have hspeaker : (if round.isSome then [Role.speaker] else []) = round.toList.map (fun _ => Role.speaker) := by
    cases round <;> rfl
  unfold wantedRoles primaryOf othersOf
  rw [hspeaker]
  by_cases h : a.rendering = .speakers
  · simp [h]
  · simp [h]

theorem othersOf_spec (s : State) (a : Announcement) :
    if a.rendering = .speakers then othersOf s a = []
    else (othersOf s a).Nodup ∧ (∀ l, l ∈ othersOf s a ↔ 0 < langCount s a.mask l ∧ a.langs.head? ≠ some l) ∧
      (othersOf s a).Pairwise (LangOrder (langCount s a.mask)) := by
  unfold othersOf
  by_cases h : a.rendering = .speakers
  · rw [if_pos h, if_pos h]
  · rw [if_neg h, if_neg h]
    exact otherLangs_spec s a.mask a.langs.head?

theorem dropClaims_voice (s : State) (v : VoiceNo) :
    (dropClaims s).vpl.voices.get v = { s.vpl.voices.get v with claim := none } := get_mapTable _ _ _

/-- The voices that may be taken: the IDLE ones and then those in ENDING, lowest number first. -/
theorem freeVoices_dropClaims (s : State) : freeVoices (dropClaims s) =
    (List.finRange 8).filter (fun v => decide ((s.vpl.voices.get v).state = .idle)) ++
      (List.finRange 8).filter (fun v => decide ((s.vpl.voices.get v).state = .ending)) := by
  have hstate (v : VoiceNo) : (voiceOf (dropClaims s) v).state = (s.vpl.voices.get v).state :=
    (congrArg Voice.state (dropClaims_voice s v) :)
  simp only [freeVoices, hstate]
  rfl

theorem mem_freeVoices {v : VoiceNo} (h : v ∈ freeVoices s) : (voiceOf s v).state = .idle ∨ (voiceOf s v).state = .ending := by
  rcases List.mem_append.mp h with h | h
  · exact .inl (beq_iff_eq.mp (List.mem_filter.mp h).2)
  · exact .inr (beq_iff_eq.mp (List.mem_filter.mp h).2)

theorem freeVoices_nodup (s : State) : (freeVoices s).Nodup := by
  refine List.nodup_append.mpr ⟨(List.nodup_finRange 8).filter _, (List.nodup_finRange 8).filter _, fun v hv w hw e => ?_⟩
  subst e
  have h1 := beq_iff_eq.mp (List.mem_filter.mp hv).2
  have h2 := beq_iff_eq.mp (List.mem_filter.mp hw).2
  rw [h1] at h2
  cases h2

/-- No voice is taken twice. -/
theorem zip_nodup {α β : Type} : ∀ {l : List α} (m : List β), l.Nodup → ((l.zip m).map Prod.fst).Nodup
  | [], _, _ => List.nodup_nil
  | _ :: _, [], _ => List.nodup_nil
  | x :: l, _ :: m, h => by
    obtain ⟨hx, hl⟩ := List.nodup_cons.mp h
    refine List.nodup_cons.mpr ⟨fun hm => hx ?_, zip_nodup m hl⟩
    obtain ⟨q, hq, rfl⟩ := List.mem_map.mp hm
    exact (List.of_mem_zip hq).1

/-- A voice as it is taken for a role (R130). -/
def takenVoice (id round : Nat) (role : Role) (x : Voice) : Voice :=
  let n := if role = .speaker then round else 0
  if x.state = .ending then { x with claim := some { owner := id, role := role, round := n } }
  else { Reset.voice with state := .priming, owner := some id, role := role, round := n }

theorem takeVoice_eq (id round : Nat) (s : State) (q : VoiceNo × Role) :
    takeVoice id round s q = setVoice q.1 (takenVoice id round q.2 (voiceOf s q.1)) s := by
  unfold takeVoice takenVoice
  dsimp only
  split <;> rfl

theorem foldl_takeVoice (id round : Nat) : ∀ (taken : List (VoiceNo × Role)) (s : State), (taken.map Prod.fst).Nodup →
    (∀ q ∈ taken, (taken.foldl (takeVoice id round) s).vpl.voices.get q.1 = takenVoice id round q.2 (s.vpl.voices.get q.1)) ∧
    (∀ v, v ∉ taken.map Prod.fst → (taken.foldl (takeVoice id round) s).vpl.voices.get v = s.vpl.voices.get v) ∧
    (taken.foldl (takeVoice id round) s).vpl.prev = s.vpl.prev ∧ { taken.foldl (takeVoice id round) s with vpl := s.vpl } = s
  | [], s, _ => ⟨nofun, fun _ _ => rfl, rfl, rfl⟩
  | q :: taken, s, h => by
    obtain ⟨hq, hrest⟩ := List.nodup_cons.mp h
    have hone := near_setVoice q.1 (takenVoice id round q.2 (voiceOf s q.1)) s
    obtain ⟨h1, h2, h3, h4⟩ := foldl_takeVoice id round taken (setVoice q.1 (takenVoice id round q.2 (voiceOf s q.1)) s) hrest
    rw [List.foldl_cons, takeVoice_eq]
    refine ⟨fun p hp => ?_, fun v hv => ?_, h3, (congrArg (fun z : State => { z with vpl := s.vpl }) h4 :)⟩
    · rcases List.mem_cons.mp hp with rfl | hp
      · rw [h2 p.1 hq]
        exact voiceOf_setVoice p.1 _ s
      · have hne : p.1 ≠ q.1 := fun e => hq (e ▸ List.mem_map_of_mem hp)
        rw [h1 p hp, hone.others p.1 hne]
    · obtain ⟨hne, hv⟩ := not_or.mp (mt List.mem_cons.mpr hv)
      rw [h2 v hv, hone.others v hne]

/-! ## The seat map (R131) -/

/-- The entry of a seat, by the voice of its own language, the SPEAKER voice and the primary language's voice. -/
def mapEntry (own speaker primary : Option VoiceNo) : MapEntry :=
  match own, speaker, primary with
  | some v, _, _ | none, some v, _ | none, none, some v => .voice v
  | none, none, none => .silent

theorem mapEntry_own (own speaker primary : Option VoiceNo) :
    mapEntry own speaker primary = (own.map MapEntry.voice).getD (mapEntry none speaker primary) := by
  cases own <;> rfl

theorem mapEntry_shared (speaker primary : Option VoiceNo) : mapEntry none speaker primary =
    (speaker.map MapEntry.voice).getD ((primary.map MapEntry.voice).getD .silent) := by
  cases speaker <;> cases primary <;> rfl

theorem voiceFor_eq (taken : List (VoiceNo × Role)) (role : Role) :
    voiceFor taken role = ((taken.find? fun q => decide (q.2 = role)).map Prod.fst).map MapEntry.voice := by
  rw [Option.map_map]
  rfl

theorem seatMap_phrase {p : Fin 128} (hp : a.source = .phrase p) (s : State) (taken : List (VoiceNo × Role)) (i : SeatNo) :
    let served := fun role : Role => (taken.find? fun q => decide (q.2 = role)).map Prod.fst
    (seatMap s a taken).get i = if a.mask.getLsbD (s.scc.seats.get i).zone.val then
      some (mapEntry (if a.rendering ≠ .speakers ∧ counts s a.mask i = true then served (.headset (s.scc.seats.get i).lang) else none)
        (served .speaker) ((primaryOf a).bind fun l => served (.headset l)))
    else none := by
  intro served
  have hserved (role : Role) : voiceFor taken role = (served role).map MapEntry.voice := voiceFor_eq taken role
  have hsource : ¬a.source = .talk := by rw [hp]; exact nofun
  rw [seatMap, get_ofFn]
  dsimp only
  cases hm : inMask a.mask (s.scc.seats.get i).zone with
  | false =>
    rw [if_neg (show ¬a.mask.getLsbD (s.scc.seats.get i).zone.val = true from Bool.eq_false_iff.mp hm)]
    rfl
  | true =>
    rw [if_pos (show a.mask.getLsbD (s.scc.seats.get i).zone.val = true from hm), if_neg (by decide), if_neg hsource]
    simp only [hserved]
    rw [mapEntry_own, mapEntry_shared]
    cases hr : a.rendering with
    | speakers =>
      have hprimary : primaryOf a = none := by rw [primaryOf, if_pos hr]
      rw [hprimary]
      cases served .speaker <;> rfl
    | headsets | both =>
      have hprimary : primaryOf a = a.langs.head? := by rw [primaryOf, if_neg (by rw [hr]; decide)]
      rw [hprimary]
      cases counts s a.mask i <;> cases served .speaker <;> cases a.langs.head? <;> rfl

/-! ## The IDLE voices started (R134, R138) -/

/-- What an item's clip, its place in the cache and the gap between rounds depend on. -/
structure Env (e s : State) : Prop where
  directory : s.ccc.directory = e.ccc.directory
  lines : s.ccc.lines = e.ccc.lines
  languages : s.scc.languages = e.scc.languages
  gap : s.cth.settings.gap = e.cth.settings.gap

theorem Env.near (h : Env e s) (hn : Near v s t) : Env e t where
  directory := (congrArg Ccc.directory hn.cache :).trans h.directory
  lines := hn.lines.trans h.lines
  languages := (congrArg (fun z : State => z.scc.languages) hn.rest :).trans h.languages
  gap := hn.gap.trans h.gap

theorem Env.firstClip (h : Env e s) (items : List Item) (l : Lang) : firstClip s items l = Machine.firstClip e items l :=
  firstClip_congr h.directory h.languages items l

/-- What a voice comes to that starts at an item, by its record there. -/
def Started (e : State) (items : List Item) (langs : List Lang) (x y : Voice) : Prop :=
  (∀ n c, firstClip e (items.drop x.item) (roleLang x.role langs x.round) = some (n, c) →
    y = startsClip e c { x with item := x.item + n }) ∧
  (firstClip e (items.drop x.item) (roleLang x.role langs x.round) = none → x.item < items.length →
    y = onwardVoice e items x (afterRound e items x.round (laterLangs x.role langs x.round)))

theorem startFrom_started (he : Env e s) (hs : Stands v x r s) (hcut : r.softCut = false) :
    Started e r.items r.langs x (voiceOf (startFrom v s) v) := by
  refine ⟨fun n c hc => ?_, fun hc hi => ?_⟩
  · rw [← he.firstClip] at hc
    rw [(startFrom_found (.refl v s) hs hc fun _ => hcut).1.voice, startsClip_congr he.lines]
  · rw [← he.firstClip] at hc
    rw [(startFrom_onward (.refl v s) hs hcut hi hc).voice, afterRound_congr he.directory he.languages he.gap,
      onwardVoice_congr he.lines he.gap]

/-- Only some voices, the progress, the fetch queue and the use order differ. -/
structure NearAll (l : List VoiceNo) (s t : State) : Prop where
  others : ∀ w, w ∉ l → t.vpl.voices.get w = s.vpl.voices.get w
  prev : t.vpl.prev = s.vpl.prev
  cache : { t.ccc with queue := s.ccc.queue, lru := s.ccc.lru } = s.ccc
  rest : { t with vpl := s.vpl, ccc := s.ccc } = s
  record : ∀ r, s.vpl.rendering = some r → ∃ p, t.vpl.rendering = some { r with progress := p }

theorem foldl_startFrom (e : State) : ∀ (idle : List (VoiceNo × Role)) {s : State} {r : RenderRec}, Env e s →
    s.vpl.rendering = some r → r.softCut = false → (idle.map Prod.fst).Nodup →
    NearAll (idle.map Prod.fst) s (idle.foldl (fun s p => startFrom p.1 s) s) ∧
    ∀ q ∈ idle, Started e r.items r.langs (s.vpl.voices.get q.1) ((idle.foldl (fun s p => startFrom p.1 s) s).vpl.voices.get q.1)
  | [], s, r, _, _, _, _ => ⟨⟨fun _ _ => rfl, rfl, rfl, rfl, fun r hr => ⟨r.progress, hr⟩⟩, nofun⟩
  | q :: idle, s, r, he, hr, hcut, hnd => by
    obtain ⟨hq, hrest⟩ := List.nodup_cons.mp hnd
    have hone : NearRecord q.1 s (startFrom q.1 s) := nearRecord_startItem _ q.1 s
    obtain ⟨p, hp⟩ := hone.record r hr
    obtain ⟨hnear, hstart⟩ := foldl_startFrom e idle (he.near hone.toNear) hp hcut hrest
    rw [List.foldl_cons]
    refine ⟨⟨fun w hw => ?_, hnear.prev.trans hone.prev, ?_, ?_, fun r' hr' => ?_⟩, fun k hk => ?_⟩
    · obtain ⟨hne, hw⟩ := not_or.mp (mt List.mem_cons.mpr hw)
      exact (hnear.others w hw).trans (hone.others w hne)
    · exact (congrArg (fun c : Ccc => { c with queue := s.ccc.queue, lru := s.ccc.lru }) hnear.cache :).trans hone.cache
    · exact (congrArg (fun z : State => { z with vpl := s.vpl, ccc := s.ccc }) hnear.rest :).trans hone.rest
    · obtain ⟨p', hp'⟩ := hone.record r' hr'
      obtain ⟨p'', hp''⟩ := hnear.record _ hp'
      exact ⟨p'', hp''⟩
    · rcases List.mem_cons.mp hk with rfl | hk
      · rw [hnear.others k.1 hq]
        exact startFrom_started he ⟨rfl, hr⟩ hcut
      · have hne : k.1 ≠ q.1 := fun e => hq (e ▸ List.mem_map_of_mem hk)
        have h := hstart k hk
        rw [hone.others k.1 hne] at h
        exact h

/-- A HEADSET voice leaves the speaker progress (R133). -/
theorem startItem_headset {l : Lang} : ∀ (n : Nat) {s : State}, (voiceOf s v).role = .headset l →
    (startItem n v s).vpl.rendering = s.vpl.rendering
  | 0, _, _ => rfl
  | n + 1, s, hl => by
    cases hr : s.vpl.rendering with
    | none =>
      rw [startItem, hr]
      exact hr
    | some r =>
      have hcount : countItem v s = s := by
        unfold countItem
        rw [hr]
        exact if_neg (by rw [hl]; exact nofun)
      have hgo : (goesOn false v n s).vpl.rendering = some r := by
        have ha := afterItem_eq (v := v) (x := voiceOf s v) ⟨rfl, hr⟩ false
        by_cases hcut : r.softCut = true
        · rw [goesOn_false (ha.trans (if_pos hcut))]
          exact hr
        · replace ha := ha.trans (if_neg hcut)
          by_cases hi : (voiceOf s v).item + 1 < r.items.length
          · rw [goesOn_true (ha.trans (if_pos hi)), startItem_headset n (by rw [voiceOf_setVoice]; exact hl)]
            exact hr
          · have hno : ¬((voiceOf s v).role = .speaker ∧ (voiceOf s v).round + 1 < r.langs.length) := by
              rw [hl]
              exact nofun
            rw [goesOn_false (ha.trans ((if_neg hi).trans (if_neg hno)))]
            exact hr
      cases hc : (r.items[(voiceOf s v).item]?).bind fun it =>
          resolveItem s it (roleLang (voiceOf s v).role r.langs (voiceOf s v).round) with
      | some c => rw [startItem_starts ⟨rfl, hr⟩ n hc, (comes_startClip ⟨rfl, hr⟩ c).record]
      | none => rw [startItem_passes ⟨rfl, hr⟩ n hc, hcount, hgo]

theorem foldl_startFrom_headset : ∀ (idle : List (VoiceNo × Role)) {s : State}, (idle.map Prod.fst).Nodup →
    (∀ q ∈ idle, (s.vpl.voices.get q.1).role ≠ .speaker) →
    (idle.foldl (fun s p => startFrom p.1 s) s).vpl.rendering = s.vpl.rendering
  | [], _, _, _ => rfl
  | q :: idle, s, hnd, h => by
    obtain ⟨hq, hrest⟩ := List.nodup_cons.mp hnd
    have hone : NearRecord q.1 s (startFrom q.1 s) := nearRecord_startItem _ q.1 s
    rw [List.foldl_cons, foldl_startFrom_headset idle hrest fun k hk => by
      rw [hone.others k.1 fun e => hq (e ▸ List.mem_map_of_mem hk)]
      exact h k (List.mem_cons_of_mem q hk)]
    cases hrole : (voiceOf s q.1).role with
    | speaker => exact absurd hrole (h q List.mem_cons_self)
    | headset l => exact startItem_headset _ hrole

end Sys2Proof.Proofs
end

section
/-! PROOFS. The start and the resume of a rendering (R119, R130, R131, R140). -/

namespace Sys2Proof.Proofs

open Sys2Proof Sys2Proof.Machine Sys2Proof.Laws

variable {s t u e : State} {v : VoiceNo} {x y : Voice} {r : RenderRec} {a : Announcement} {items : List Item} {resumed : Bool}

/-! ## The stages of a start -/

/-- The voices that are taken, each with its role. -/
def takenRoles (a : Announcement) (round : Option Nat) (s : State) : List (VoiceNo × Role) :=
  (freeVoices (dropClaims s)).zip (wantedRoles (dropClaims s) a round.isSome)

/-- The rendering record as it is made. -/
def newRecord (a : Announcement) (items : List Item) (round : Option Nat) (s : State) : RenderRec :=
  { owner := a.id, priority := a.priority, mask := a.mask, rendering := a.rendering, items := items, langs := a.langs,
    progress := match round with | some n => { round := n, items := 0 } | none => a.resume,
    played := a.played, softCut := false, map := seatMap (dropClaims s) a (takenRoles a round s), talk := false }

/-- The state with every voice taken and the record made. -/
def voicesTaken (a : Announcement) (items : List Item) (round : Option Nat) (s : State) : State :=
  setRendering (some (newRecord a items round s)) ((takenRoles a round s).foldl (takeVoice a.id (round.getD 0)) (dropClaims s))

/-- The voices taken that were IDLE. -/
def idleTaken (a : Announcement) (round : Option Nat) (s : State) : List (VoiceNo × Role) :=
  (takenRoles a round s).filter fun q => (voiceOf (dropClaims s) q.1).state == .idle

/-- The state with the IDLE voices started. -/
def voicesStarted (a : Announcement) (items : List Item) (round : Option Nat) (s : State) : State :=
  (idleTaken a round s).foldl (fun s q => startFrom q.1 s) (voicesTaken a items round s)

theorem startVoices_eq (a : Announcement) (items : List Item) (resumed : Bool) (s : State) :
    startVoices a items resumed s = arbiter (reportIfDone (voicesStarted a items (speakerRound a items.length resumed) s)) := rfl

theorem dropClaims_frame (s : State) : { dropClaims s with vpl := s.vpl } = s := rfl

theorem takenRoles_nodup (a : Announcement) (round : Option Nat) (s : State) : ((takenRoles a round s).map Prod.fst).Nodup :=
  zip_nodup _ (freeVoices_nodup _)

/-- A voice taken was IDLE or in ENDING. -/
theorem takenRoles_state {round : Option Nat} {q : VoiceNo × Role} (h : q ∈ takenRoles a round s) :
    (s.vpl.voices.get q.1).state = .idle ∨ (s.vpl.voices.get q.1).state = .ending := by
  have hstate : (voiceOf (dropClaims s) q.1).state = (s.vpl.voices.get q.1).state :=
    (congrArg Voice.state (dropClaims_voice s q.1) :)
  rw [← hstate]
  exact mem_freeVoices (List.of_mem_zip h).1

theorem idleTaken_state {round : Option Nat} {q : VoiceNo × Role} :
    q ∈ idleTaken a round s ↔ q ∈ takenRoles a round s ∧ (s.vpl.voices.get q.1).state = .idle := by
  have hstate : (voiceOf (dropClaims s) q.1).state = (s.vpl.voices.get q.1).state :=
    (congrArg Voice.state (dropClaims_voice s q.1) :)
  rw [idleTaken, List.mem_filter, hstate, beq_iff_eq]

theorem idleTaken_nodup (a : Announcement) (round : Option Nat) (s : State) : ((idleTaken a round s).map Prod.fst).Nodup :=
  (takenRoles_nodup a round s).sublist (List.filter_sublist.map Prod.fst)

theorem setRendering_voices (q : Option RenderRec) (s : State) : (setRendering q s).vpl.voices = s.vpl.voices := rfl

theorem setRendering_prev (q : Option RenderRec) (s : State) : (setRendering q s).vpl.prev = s.vpl.prev := rfl

theorem setRendering_frame (q : Option RenderRec) (s u : State) : { setRendering q s with vpl := u.vpl } = { s with vpl := u.vpl } := rfl

/-- The voices taken before the first is started. -/
theorem voicesTaken_spec (a : Announcement) (items : List Item) (round : Option Nat) (s : State) :
    (∀ q ∈ takenRoles a round s, (voicesTaken a items round s).vpl.voices.get q.1 =
      takenVoice a.id (round.getD 0) q.2 { s.vpl.voices.get q.1 with claim := none }) ∧
    (∀ v, v ∉ (takenRoles a round s).map Prod.fst →
      (voicesTaken a items round s).vpl.voices.get v = { s.vpl.voices.get v with claim := none }) ∧
    (voicesTaken a items round s).vpl.prev = s.vpl.prev ∧ { voicesTaken a items round s with vpl := s.vpl } = s := by
  obtain ⟨h1, h2, h3, h4⟩ := foldl_takeVoice a.id (round.getD 0) (takenRoles a round s) (dropClaims s) (takenRoles_nodup a round s)
  rw [voicesTaken, setRendering_voices, setRendering_prev, setRendering_frame]
  generalize (takenRoles a round s).foldl (takeVoice a.id (round.getD 0)) (dropClaims s) = t at h1 h2 h3 h4 ⊢
  refine ⟨fun q hq => ?_, fun v hv => ?_, h3, (congrArg (fun z : State => { z with vpl := s.vpl }) h4 :)⟩
  · rw [h1 q hq, dropClaims_voice]
  · rw [h2 v hv, dropClaims_voice]

theorem voicesTaken_env (a : Announcement) (items : List Item) (round : Option Nat) (s : State) :
    Env s (voicesTaken a items round s) := by
  have h := (voicesTaken_spec a items round s).2.2.2
  exact ⟨(congrArg (fun z : State => z.ccc.directory) h :), (congrArg (fun z : State => z.ccc.lines) h :),
    (congrArg (fun z : State => z.scc.languages) h :), (congrArg (fun z : State => z.cth.settings.gap) h :)⟩

/-- A voice taken in IDLE: it has the role and its round, at item 0. -/
theorem takenVoice_idle {id round : Nat} {role : Role} (h : x.state = .idle) : takenVoice id round role x =
    { Reset.voice with state := .priming, owner := some id, role := role, round := if role = .speaker then round else 0 } := by
  rw [takenVoice, if_neg (by rw [h]; decide)]

theorem takenVoice_ending {id round : Nat} {role : Role} (h : x.state = .ending) : takenVoice id round role x =
    { x with claim := some { owner := id, role := role, round := if role = .speaker then round else 0 } } := by
  rw [takenVoice, if_pos h]

/-- What is left outside VPL, CCC and CMP by a start. -/
theorem voicesStarted_spec (a : Announcement) (items : List Item) (round : Option Nat) (s : State) :
    NearAll ((idleTaken a round s).map Prod.fst) (voicesTaken a items round s) (voicesStarted a items round s) ∧
    ∀ q ∈ idleTaken a round s, Started s items a.langs ((voicesTaken a items round s).vpl.voices.get q.1)
      ((voicesStarted a items round s).vpl.voices.get q.1) :=
  foldl_startFrom s (idleTaken a round s) (r := newRecord a items round s) (voicesTaken_env a items round s) rfl rfl
    (idleTaken_nodup a round s)

/-- The roles taken: a speaker at most first, with voices for seats after it. -/
theorem takenRoles_speaker (a : Announcement) (round : Option Nat) (s : State) :
    (round = none → ∀ q ∈ takenRoles a round s, q.2 ≠ .speaker) ∧
    (round ≠ none → takenRoles a round s = [] ∨ ∃ v rest, takenRoles a round s = (v, .speaker) :: rest ∧ ∀ q ∈ rest, q.2 ≠ .speaker) := by
  have hheads (l : List VoiceNo) (m n : List Lang) : ∀ q ∈ l.zip (m.map Role.headset ++ n.map Role.headset), q.2 ≠ .speaker := by
    intro q hq
    rcases List.mem_append.mp (List.of_mem_zip hq).2 with h | h
    · obtain ⟨k, -, hk⟩ := List.mem_map.mp h
      rw [← hk]
      exact nofun
    · obtain ⟨k, -, hk⟩ := List.mem_map.mp h
      rw [← hk]
      exact nofun
  unfold takenRoles
  rw [wantedRoles_eq]
  constructor
  · rintro rfl
    exact hheads _ _ _
  · intro hne
    cases round with
    | none => exact absurd rfl hne
    | some k =>
      cases hfree : freeVoices (dropClaims s) with
      | nil => exact .inl rfl
      | cons v l => exact .inr ⟨v, _, rfl, hheads l _ _⟩

/-- A voice taken in IDLE has its role. -/
theorem idleTaken_role {items : List Item} {round : Option Nat} {q : VoiceNo × Role} (hq : q ∈ idleTaken a round s) :
    (voicesTaken a items round s).vpl.voices.get q.1 =
      { Reset.voice with state := .priming, owner := some a.id, role := q.2, round := if q.2 = .speaker then round.getD 0 else 0 } := by
  obtain ⟨htaken, hstate⟩ := idleTaken_state.mp hq
  rw [(voicesTaken_spec a items round s).1 q htaken, takenVoice_idle (show ({ s.vpl.voices.get q.1 with claim := none } : Voice).state = .idle from hstate)]

/-- Only voices for seats started: the record is as it was made. -/
theorem voicesStarted_seats (items : List Item) (round : Option Nat) (h : ∀ q ∈ idleTaken a round s, q.2 ≠ .speaker) :
    (voicesStarted a items round s).vpl.rendering = some (newRecord a items round s) := by
  refine (foldl_startFrom_headset (idleTaken a round s) (idleTaken_nodup a round s) fun q hq => ?_).trans rfl
  rw [idleTaken_role hq]
  exact h q hq

/-- The SPEAKER voice where it was IDLE is the first that is started. -/
theorem idleTaken_speaker {round : Option Nat} (h : ∃ q ∈ idleTaken a round s, q.2 = .speaker) :
    ∃ v rest, idleTaken a round s = (v, .speaker) :: rest ∧ ∀ q ∈ rest, q.2 ≠ .speaker := by
  obtain ⟨q, hq, hrole⟩ := h
  obtain ⟨hnone, hsome⟩ := takenRoles_speaker a round s
  obtain ⟨htaken, -⟩ := idleTaken_state.mp hq
  have hround : round ≠ none := fun h => hnone h q htaken hrole
  rcases hsome hround with hnil | ⟨v, rest, hrest, hseats⟩
  · rw [hnil] at htaken
    exact absurd htaken List.not_mem_nil
  · rw [idleTaken, hrest, List.mem_filter] at hq
    obtain ⟨hmem, hidle⟩ := hq
    obtain rfl : q = (v, .speaker) := (List.mem_cons.mp hmem).resolve_right fun h => hseats q h hrole
    refine ⟨v, rest.filter fun q => (voiceOf (dropClaims s) q.1).state == .idle, ?_, fun q hq => hseats q (List.mem_filter.mp hq).1⟩
    rw [idleTaken, hrest]
    exact List.filter_cons_of_pos hidle

/-- With the SPEAKER voice started first, the record is as that voice leaves it. -/
theorem voicesStarted_speaker (items : List Item) {round : Option Nat} {rest : List (VoiceNo × Role)}
    (h : idleTaken a round s = (v, .speaker) :: rest) (hseats : ∀ q ∈ rest, q.2 ≠ .speaker) :
    (voicesStarted a items round s).vpl.rendering = (startFrom v (voicesTaken a items round s)).vpl.rendering := by
  have hnd := idleTaken_nodup a round s
  rw [h] at hnd
  obtain ⟨hv, hrest⟩ := List.nodup_cons.mp hnd
  have hone : NearRecord v (voicesTaken a items round s) (startFrom v (voicesTaken a items round s)) := nearRecord_startItem _ v _
  rw [voicesStarted, h, List.foldl_cons]
  refine foldl_startFrom_headset rest hrest fun q hq => ?_
  have hne : q.1 ≠ v := fun e => hv (List.mem_map.mpr ⟨q, hq, e⟩)
  have hrole := idleTaken_role (items := items) (h ▸ List.mem_cons_of_mem (v, Role.speaker) hq)
  have hother := hone.others q.1 hne
  dsimp only
  rw [hother, hrole]
  exact hseats q hq

/-- The progress of the record once the IDLE voices are started. -/
theorem voicesStarted_progress (a : Announcement) (items : List Item) (round : Option Nat) (s : State) {p : Progress}
    (hp : (voicesStarted a items round s).vpl.rendering = some { newRecord a items round s with progress := p }) :
    (round = none → p = a.resume) ∧
    ∀ k, round = some k →
      ((∀ q ∈ idleTaken a round s, q.2 ≠ .speaker) → p = { round := k, items := 0 }) ∧
      ((∃ q ∈ idleTaken a round s, q.2 = .speaker) →
        (∀ n c, firstClip s items (a.langs.getD k 0) = some (n, c) → p = { round := k, items := n }) ∧
        (firstClip s items (a.langs.getD k 0) = none → items ≠ [] →
          p = onwardProgress items k { round := k, items := items.length } (afterRound s items k (laterLangs .speaker a.langs k)))) := by
  have hseats (h : ∀ q ∈ idleTaken a round s, q.2 ≠ .speaker) : p = (newRecord a items round s).progress := by
    have hrec := hp.symm.trans (voicesStarted_seats items round h)
    exact (congrArg RenderRec.progress (Option.some.inj hrec) :)
  refine ⟨?_, ?_⟩
  · rintro rfl
    exact hseats fun q hq => (takenRoles_speaker a none s).1 rfl q (idleTaken_state.mp hq).1
  · rintro k rfl
    refine ⟨fun h => hseats h, fun h => ?_⟩
    obtain ⟨v, rest, hidle, hrest⟩ := idleTaken_speaker h
    have henv := voicesTaken_env a items (some k) s
    have hv := idleTaken_role (items := items) (hidle ▸ List.mem_cons_self)
    have hstands : Stands v { Reset.voice with state := .priming, owner := some a.id, role := .speaker, round := k }
        (newRecord a items (some k) s) (voicesTaken a items (some k) s) := ⟨hv, rfl⟩
    rw [voicesStarted_speaker items hidle hrest] at hp
    refine ⟨fun n c hc => ?_, fun hc hne => ?_⟩
    · rw [← henv.firstClip] at hc
      have hrec := hp.symm.trans (startFrom_found (.refl v _) hstands hc fun _ => rfl).1.record
      have hprog := (congrArg RenderRec.progress (Option.some.inj hrec) :)
      exact hprog.trans (congrArg (Progress.mk k) (Nat.zero_add n))
    · rw [← henv.firstClip] at hc
      have hrec := hp.symm.trans (startFrom_onward (.refl v _) hstands rfl (List.length_pos_iff.mpr hne) hc).record
      have hprog := (congrArg RenderRec.progress (Option.some.inj hrec) :)
      rw [← afterRound_congr henv.directory henv.languages henv.gap]
      exact hprog.trans (congrArg (fun j => onwardProgress items k { round := k, items := j } _) (Nat.zero_add _))

theorem speakerRound_eq (a : Announcement) (n : Nat) (resumed : Bool) : speakerRound a n resumed =
    (if a.rendering = .headsets then none
     else if resumed = false then some 0
     else if a.resume.items < n then some a.resume.round
     else if a.resume.round + 1 < a.langs.length then some (a.resume.round + 1)
     else none) := by
  cases resumed <;> rfl

/-! ## The voices once the IDLE ones are started -/

/-- A voice taken in ENDING has its claim. -/
theorem voicesStarted_ending {q : VoiceNo × Role} (items : List Item) {round : Option Nat} (hq : q ∈ takenRoles a round s)
    (hend : (s.vpl.voices.get q.1).state = .ending) : (voicesStarted a items round s).vpl.voices.get q.1 =
      { s.vpl.voices.get q.1 with
        claim := some { owner := a.id, role := q.2, round := if q.2 = .speaker then round.getD 0 else 0 } } := by
  have hnot : q.1 ∉ (idleTaken a round s).map Prod.fst := fun hm => by
    obtain ⟨k, hk, he⟩ := List.mem_map.mp hm
    have hidle := (idleTaken_state.mp hk).2
    rw [he, hend] at hidle
    cases hidle
  rw [(voicesStarted_spec a items round s).1.others q.1 hnot, (voicesTaken_spec a items round s).1 q hq,
    takenVoice_ending (show ({ s.vpl.voices.get q.1 with claim := none } : Voice).state = .ending from hend)]

/-- A voice taken in IDLE starts its first item that resolves. -/
theorem voicesStarted_found {q : VoiceNo × Role} {items : List Item} {round : Option Nat} (hq : q ∈ takenRoles a round s)
    (hidle : (s.vpl.voices.get q.1).state = .idle) {n : Nat} {c : Clip}
    (hc : firstClip s items (roleLang q.2 a.langs (round.getD 0)) = some (n, c)) :
    (voicesStarted a items round s).vpl.voices.get q.1 = startsClip s c
      { Reset.voice with
        owner := some a.id, role := q.2, round := if q.2 = .speaker then round.getD 0 else 0, item := n } := by
  have hmem := idleTaken_state.mpr ⟨hq, hidle⟩
  have h := (voicesStarted_spec a items round s).2 q hmem
  rw [idleTaken_role hmem] at h
  have hlang : roleLang q.2 a.langs (if q.2 = .speaker then round.getD 0 else 0) = roleLang q.2 a.langs (round.getD 0) := by
    cases q.2 <;> rfl
  have hy := h.1 n c (by rw [← hlang] at hc; exact hc)
  rw [hy]
  dsimp only
  rw [show Reset.voice.item + n = n from Nat.zero_add n]
  rfl

/-- With none in its round, what follows. -/
theorem voicesStarted_onward {q : VoiceNo × Role} {items : List Item} {round : Option Nat} (hq : q ∈ takenRoles a round s)
    (hidle : (s.vpl.voices.get q.1).state = .idle) (hc : firstClip s items (roleLang q.2 a.langs (round.getD 0)) = none)
    (hne : items ≠ []) :
    let n := if q.2 = .speaker then round.getD 0 else 0
    (voicesStarted a items round s).vpl.voices.get q.1 = onwardVoice s items
      { Reset.voice with owner := some a.id, role := q.2, round := n } (afterRound s items n (laterLangs q.2 a.langs n)) := by
  intro n
  have hmem := idleTaken_state.mpr ⟨hq, hidle⟩
  have h := (voicesStarted_spec a items round s).2 q hmem
  rw [idleTaken_role hmem] at h
  have hlang : roleLang q.2 a.langs (if q.2 = .speaker then round.getD 0 else 0) = roleLang q.2 a.langs (round.getD 0) := by
    cases q.2 <;> rfl
  have hy := h.2 (by rw [← hlang] at hc; exact hc) (List.length_pos_iff.mpr hne)
  rw [hy]
  cases afterRound s items n (laterLangs q.2 a.langs n) <;> rfl

/-- Every other voice loses its claim and no more. -/
theorem voicesStarted_left {v : VoiceNo} (items : List Item) {round : Option Nat} (hv : ∀ q ∈ takenRoles a round s, q.1 ≠ v) :
    (voicesStarted a items round s).vpl.voices.get v = { s.vpl.voices.get v with claim := none } := by
  have hnot : v ∉ (takenRoles a round s).map Prod.fst := fun hm => by
    obtain ⟨q, hq, he⟩ := List.mem_map.mp hm
    exact hv q hq he
  have hidle : v ∉ (idleTaken a round s).map Prod.fst := fun hm => by
    obtain ⟨q, hq, he⟩ := List.mem_map.mp hm
    exact hv q (idleTaken_state.mp hq).1 he
  rw [(voicesStarted_spec a items round s).1.others v hidle, (voicesTaken_spec a items round s).2.1 v hnot]

theorem idleTaken_starts (round : Option Nat) : ((takenRoles a round s).any fun q =>
    decide (q.2 = .speaker) && decide ((s.vpl.voices.get q.1).state = .idle)) = true ↔ ∃ q ∈ idleTaken a round s, q.2 = .speaker := by
  rw [List.any_eq_true]
  refine exists_congr fun q => ?_
  rw [idleTaken_state, Bool.and_eq_true, decide_eq_true_eq, decide_eq_true_eq]
  exact ⟨fun ⟨h1, h2, h3⟩ => ⟨⟨h1, h3⟩, h2⟩, fun ⟨⟨h1, h3⟩, h2⟩ => ⟨h1, h2, h3⟩⟩

/-- The voices and the progress that a start comes to (R130, R134, R138), in the words of the stages above. -/
structure Begun (a : Announcement) (items : List Item) (round : Option Nat) (p : Progress) (s t : State) : Prop where
  ending : ∀ q ∈ takenRoles a round s, (s.vpl.voices.get q.1).state = .ending → t.vpl.voices.get q.1 =
    { s.vpl.voices.get q.1 with
      claim := some { owner := a.id, role := q.2, round := if q.2 = .speaker then round.getD 0 else 0 } }
  found : ∀ q ∈ takenRoles a round s, ∀ n c, (s.vpl.voices.get q.1).state = .idle →
    firstClip s items (roleLang q.2 a.langs (round.getD 0)) = some (n, c) → t.vpl.voices.get q.1 = startsClip s c
      { Reset.voice with
        owner := some a.id, role := q.2, round := if q.2 = .speaker then round.getD 0 else 0, item := n }
  onward : ∀ q ∈ takenRoles a round s, (s.vpl.voices.get q.1).state = .idle →
    firstClip s items (roleLang q.2 a.langs (round.getD 0)) = none → items ≠ [] →
    t.vpl.voices.get q.1 = onwardVoice s items
      { Reset.voice with owner := some a.id, role := q.2, round := if q.2 = .speaker then round.getD 0 else 0 }
      (afterRound s items (if q.2 = .speaker then round.getD 0 else 0)
        (laterLangs q.2 a.langs (if q.2 = .speaker then round.getD 0 else 0)))
  left : ∀ v, (∀ q ∈ takenRoles a round s, q.1 ≠ v) → t.vpl.voices.get v = { s.vpl.voices.get v with claim := none }
  noRound : round = none → p = a.resume
  aRound : ∀ k, round = some k →
    ((takenRoles a round s).any (fun q =>
      decide (q.2 = .speaker) && decide ((s.vpl.voices.get q.1).state = .idle)) = false → p = { round := k, items := 0 }) ∧
    ((takenRoles a round s).any (fun q =>
      decide (q.2 = .speaker) && decide ((s.vpl.voices.get q.1).state = .idle)) = true →
      (∀ n c, firstClip s items (roleLang .speaker a.langs (round.getD 0)) = some (n, c) → p = { round := k, items := n }) ∧
      (firstClip s items (roleLang .speaker a.langs (round.getD 0)) = none → items ≠ [] →
        p = onwardProgress items k { round := k, items := items.length }
          (afterRound s items (round.getD 0) (laterLangs .speaker a.langs (round.getD 0)))))
  record : t.vpl.rendering = some { newRecord a items round s with progress := p }

theorem voicesStarted_begun (a : Announcement) (items : List Item) (round : Option Nat) (s : State) :
    ∃ p, Begun a items round p s (voicesStarted a items round s) := by
  obtain ⟨p, hp⟩ := (voicesStarted_spec a items round s).1.record _ rfl
  obtain ⟨hnone, hsome⟩ := voicesStarted_progress a items round s hp
  refine ⟨p, fun q hq => voicesStarted_ending items hq, fun q hq n c hidle hc => voicesStarted_found hq hidle hc,
    fun q hq hidle hc hne => voicesStarted_onward hq hidle hc hne, fun v hv => voicesStarted_left items hv, hnone, ?_, hp⟩
  rintro k rfl
  refine ⟨fun h => ?_, fun h => (hsome k rfl).2 ((idleTaken_starts _).mp h)⟩
  refine (hsome k rfl).1 fun q hq hrole => ?_
  rw [(idleTaken_starts (some k)).mpr ⟨q, hq, hrole⟩] at h
  cases h

/-- The roles as `rendered` gives them. -/
theorem takenRoles_eq (a : Announcement) (round : Option Nat) (s : State) : takenRoles a round s =
    ((List.finRange 8).filter (fun v => decide ((s.vpl.voices.get v).state = .idle)) ++
      (List.finRange 8).filter (fun v => decide ((s.vpl.voices.get v).state = .ending))).zip
      (round.toList.map (fun _ => Role.speaker) ++ (primaryOf a).toList.map Role.headset ++
        (othersOf (dropClaims s) a).map Role.headset) := by
  rw [takenRoles, freeVoices_dropClaims, wantedRoles_eq]

theorem newRecord_map {p : Fin 128} (hp : a.source = .phrase p) (items : List Item) (round : Option Nat) (s : State) :
    (newRecord a items round s).map = Vector.ofFn fun i =>
      if a.mask.getLsbD (s.scc.seats.get i).zone.val then
        some (mapEntry
          (if a.rendering ≠ .speakers ∧ ((s.scc.seats.get i).present && (s.scc.seats.get i).enabled &&
              a.mask.getLsbD (s.scc.seats.get i).zone.val) = true then
            ((takenRoles a round s).find? fun q => decide (q.2 = .headset (s.scc.seats.get i).lang)).map Prod.fst else none)
          (((takenRoles a round s).find? fun q => decide (q.2 = .speaker)).map Prod.fst)
          ((primaryOf a).bind fun l => ((takenRoles a round s).find? fun q => decide (q.2 = .headset l)).map Prod.fst))
      else none := by
  refine table_ext fun i => ?_
  rw [get_ofFn]
  exact seatMap_phrase hp (dropClaims s) (takenRoles a round s) i

theorem startVoices_rendered {p : Fin 128} (hp : a.source = .phrase p) (resumed : Bool) (s : State) :
    rendered a resumed s (startVoices a (s.asq.phrases.get p) resumed s) := by
  obtain ⟨hnear, -⟩ := voicesStarted_spec a (s.asq.phrases.get p) (speakerRound a (s.asq.phrases.get p).length resumed) s
  obtain ⟨-, -, hprev, hrest⟩ := voicesTaken_spec a (s.asq.phrases.get p) (speakerRound a (s.asq.phrases.get p).length resumed) s
  obtain ⟨pr, hbegun⟩ := voicesStarted_begun a (s.asq.phrases.get p) (speakerRound a (s.asq.phrases.get p).length resumed) s
  have hasq : (voicesStarted a (s.asq.phrases.get p) (speakerRound a (s.asq.phrases.get p).length resumed) s).asq = s.asq :=
    (congrArg State.asq hnear.rest :).trans (congrArg State.asq hrest :)
  obtain ⟨hvpl, hrep, -⟩ := reported_arbiter (s := s) hasq
  rw [← startVoices_eq] at hvpl hrep
  generalize startVoices a (s.asq.phrases.get p) resumed s = t at hvpl hrep ⊢
  unfold rendered
  refine ⟨by rw [hvpl, hnear.prev, hprev], ?_⟩
  rw [hp]
  dsimp -zeta only
  intro items primary round counts number free first
  have hround : speakerRound a (s.asq.phrases.get p).length resumed = round := speakerRound_eq a _ resumed
  rw [hround] at hbegun hvpl
  have hmap := newRecord_map hp items round s
  have hroles := takenRoles_eq a round s
  obtain ⟨hending, hfound, honward, hleft, hnoround, haround, hrecord⟩ := hbegun
  rw [← hvpl] at hending hfound honward hleft hrecord
  refine ⟨othersOf (dropClaims s) a, { newRecord a items round s with progress := pr }, othersOf_spec (dropClaims s) a, ?_⟩
  rw [hroles] at hending hfound honward hleft haround hmap
  have hnew : { newRecord a items round s with progress := a.resume } = _ := congrArg (fun m : Vector (Option MapEntry) 64 =>
    ({ owner := a.id, priority := a.priority, mask := a.mask, rendering := a.rendering, items := items, langs := a.langs,
       progress := a.resume, played := a.played, softCut := false, map := m, talk := false } : RenderRec)) hmap
  exact ⟨hending, hfound, honward, hleft, hrecord, hrep, ⟨hnoround, haround⟩, hnew⟩

end Sys2Proof.Proofs
end

section
/-! PROOFS. A rendering that starts or resumes, what it looks at and what it leaves; an announcement that becomes current. -/

namespace Sys2Proof.Proofs

open Sys2Proof Sys2Proof.Machine Sys2Proof.Laws

variable {s t u w e : State} {v : VoiceNo} {a c x : Announcement} {resumed : Bool}

/-! ## The rendering of an announcement (R119, R130, R131) -/

theorem startTalk_rendered (h : a.source = .talk) (resumed : Bool) (s : State) : rendered a resumed s (startTalk a s) := by
  unfold rendered
  refine ⟨rfl, ?_⟩
  rw [h]
  refine ⟨rfl, rfl, ?_⟩
  have hmap : seatMap (dropClaims s) a [] = Vector.ofFn fun i =>
      if a.mask.getLsbD (s.scc.seats.get i).zone.val then some MapEntry.talk else none := by
    refine table_ext fun i => ?_
    rw [get_ofFn, seatMap, get_ofFn]
    dsimp only
    rw [if_pos h]
    cases hm : inMask a.mask (s.scc.seats.get i).zone with
    | false =>
      have hm' : ¬a.mask.getLsbD (s.scc.seats.get i).zone.val = true := Bool.eq_false_iff.mp hm
      exact (if_pos (by rw [show inMask a.mask ((dropClaims s).scc.seats.get i).zone = false from hm]; rfl)).trans (if_neg hm').symm
    | true =>
      have hm' : a.mask.getLsbD (s.scc.seats.get i).zone.val = true := hm
      exact (if_neg (by rw [show inMask a.mask ((dropClaims s).scc.seats.get i).zone = true from hm]; decide)).trans (if_pos hm').symm
  rw [← hmap]
  rfl

theorem itemsOf_phrase {p : Fin 128} (h : a.source = .phrase p) (s : State) : itemsOf s a = s.asq.phrases.get p := by
  rw [itemsOf, h]

theorem startRendering_rendered (a : Announcement) (resumed : Bool) (s : State) :
    rendered a resumed s (startRendering a resumed s) := by
  unfold startRendering
  cases h : a.source with
  | talk => exact startTalk_rendered h resumed s
  | phrase p =>
    rw [if_neg nofun, itemsOf_phrase h]
    exact startVoices_rendered h resumed s

theorem keep_rendering {P : State → Prop} (c : VoiceClosed P) (a : Announcement) (resumed : Bool) (s : State) (h : P s) :
    P (startRendering a resumed s) :=
  keep_ite (keep_startTalk c a s h) (keep_startVoices c a _ resumed s h)

theorem NearAll.asq {l : List VoiceNo} (h : NearAll l s t) : t.asq = s.asq := (congrArg State.asq h.rest :)

theorem NearAll.tables {l : List VoiceNo} (h : NearAll l s t) :
    t.ccc.directory = s.ccc.directory ∧ t.ccc.locks = s.ccc.locks :=
  ⟨(congrArg Ccc.directory h.cache :), (congrArg Ccc.locks h.cache :)⟩

theorem voicesTaken_frame (a : Announcement) (items : List Item) (round : Option Nat) (s : State) :
    (voicesTaken a items round s).asq = s.asq ∧ (voicesTaken a items round s).ccc = s.ccc := by
  have h := (voicesTaken_spec a items round s).2.2.2
  generalize voicesTaken a items round s = w at h
  exact ⟨(congrArg State.asq h :), (congrArg State.ccc h :)⟩

theorem reported_frame (hw : w.asq = s.asq) (hd : w.ccc.directory = s.ccc.directory) (hl : w.ccc.locks = s.ccc.locks) :
    { (arbiter (reportIfDone w)).asq with report := s.asq.report } = s.asq ∧
    (arbiter (reportIfDone w)).ccc.directory = s.ccc.directory ∧ (arbiter (reportIfDone w)).ccc.locks = s.ccc.locks := by
  have he : (reportIfDone w).ccc = w.ccc := (congrArg State.ccc (reportIfDone_eq w).1 :)
  obtain ⟨hdir, hlocks⟩ := arbiter_tables (reportIfDone w)
  rw [hdir, hlocks, he]
  exact ⟨(congrArg (fun q : Asq => { q with report := s.asq.report }) (reported_arbiter hw).2.2 :), hd, hl⟩

theorem startVoices_frame (a : Announcement) (items : List Item) (resumed : Bool) (s : State) :
    { (startVoices a items resumed s).asq with report := s.asq.report } = s.asq ∧
    (startVoices a items resumed s).ccc.directory = s.ccc.directory ∧ (startVoices a items resumed s).ccc.locks = s.ccc.locks := by
  have hnear := (voicesStarted_spec a items (speakerRound a items.length resumed) s).1
  obtain ⟨hasq, hccc⟩ := voicesTaken_frame a items (speakerRound a items.length resumed) s
  rw [startVoices_eq]
  exact reported_frame (hnear.asq.trans hasq) (hnear.tables.1.trans (congrArg Ccc.directory hccc))
    (hnear.tables.2.trans (congrArg Ccc.locks hccc))

theorem startRendering_frame (a : Announcement) (resumed : Bool) (s : State) :
    { (startRendering a resumed s).asq with report := s.asq.report } = s.asq ∧
    (startRendering a resumed s).ccc.directory = s.ccc.directory ∧ (startRendering a resumed s).ccc.locks = s.ccc.locks := by
  unfold startRendering
  split
  · exact ⟨rfl, rfl, rfl⟩
  · exact startVoices_frame a _ resumed s

theorem startRendering_calm (h : PortSettled s) (a : Announcement) (resumed : Bool) : Calm s (startRendering a resumed s) :=
  keep_rendering (calm_closed s) a resumed s (.refl h)

/-! ## What a rendering looks at -/

/-- What a rendering that starts looks at is equal. -/
structure Sees (e s : State) : Prop extends Env e s where
  vpl : s.vpl = e.vpl
  seats : s.scc.seats = e.scc.seats
  phrases : s.asq.phrases = e.asq.phrases
  report : s.asq.report = e.asq.report

theorem rendered_congr (h : Sees u e) (hv : t.vpl = w.vpl) (hr : t.asq.report = w.asq.report) (hw : rendered a resumed e w) :
    rendered a resumed u t := by
  have h1 : firstClip e = firstClip u := by
    funext items l
    exact firstClip_congr h.directory h.languages items l
  have h2 : afterRound e = afterRound u := by
    funext items n later
    exact afterRound_congr h.directory h.languages h.gap items later n
  have h3 : startsClip e = startsClip u := by
    funext c x
    exact startsClip_congr h.lines c x
  have h4 : onwardVoice e = onwardVoice u := by
    funext items x o
    exact onwardVoice_congr h.lines h.gap items x o
  unfold rendered reported at hw ⊢
  rw [hv, hr]
  rw [h1, h2, h3, h4, h.vpl, h.seats, h.phrases, h.report] at hw
  exact hw

/-! ## An announcement becomes current (R78, R125, R174) -/

theorem lampAnnounceStart_withGroups (a : Announcement) (s : State) : lampAnnounceStart a s = withGroups (lampStarts a) s := by
  rw [lampAnnounceStart_eq]
  congr 1
  funext g x
  unfold lampStarts qualifies
  cases x.source <;> simp

theorem lampAnnounceEnd_withGroups (a : Announcement) (s : State) : lampAnnounceEnd a s = withGroups (lampEnds a) s := by
  rw [lampAnnounceEnd_eq]
  congr 1
  funext g x
  unfold lampEnds qualifies
  cases x.source <;> simp [and_assoc]

/-- A state's lamps replaced by another's. -/
theorem withGroups_lmc {f : GroupNo → Group → Group} (h : t.lmc = s.lmc) : (withGroups f t).lmc = (withGroups f s).lmc := by
  simp only [withGroups, h]

/-- ZOU's part of a change of the current announcement (R78). -/
def ducked (next : Option Announcement) (s : State) (t : Zou) : Prop :=
  { t with zones := s.zou.zones } = { s.zou with summary := next.map fun a =>
    { mask := a.mask, priority := a.priority, talk := decide (a.source = .talk) } } ∧
  ∀ z, t.zones.get z = { s.zou.zones.get z with duck := match next with
    | none => 0
    | some a => if a.mask.getLsbD z.val then s.cth.settings.duck.get a.priority else 0 }

theorem duckChange_ducked (next : Option Announcement) (s : State) : ducked next s (duckChange (next.map summaryOf) s).zou := by
  refine ⟨?_, fun z => ?_⟩
  · cases next with
    | none => rfl
    | some a => cases h : a.source <;> simp [duckChange, summaryOf, h]
  · unfold duckChange
    dsimp only
    rw [get_ofFn]
    cases next <;> rfl

/-- The state that a rendering starts from. -/
def readied (a : Announcement) (s : State) : State :=
  duckChange (some (summaryOf a)) (setAsq { s.asq with current := some a, softCut := false } s)

theorem makeCurrent_eq (a : Announcement) (resumed : Bool) (s : State) :
    makeCurrent a resumed s = withGroups (lampStarts a) (startRendering a resumed (readied a s)) :=
  lampAnnounceStart_withGroups a _

theorem readied_sees (a : Announcement) (s : State) : Sees s (readied a s) := ⟨⟨rfl, rfl, rfl, rfl⟩, rfl, rfl, rfl, rfl⟩

theorem makeCurrent_rendered (a : Announcement) (resumed : Bool) (s : State) : rendered a resumed s (makeCurrent a resumed s) := by
  have h := startRendering_rendered a resumed (readied a s)
  rw [makeCurrent_eq]
  generalize startRendering a resumed (readied a s) = t at h
  exact rendered_congr (readied_sees a s) withGroups_vpl (congrArg Asq.report withGroups_asq) h

theorem readied_frame (a : Announcement) (s : State) : { readied a s with asq := s.asq, zou := s.zou } = s := rfl

theorem readied_zou (a : Announcement) (s : State) : (readied a s).zou = (duckChange (some (summaryOf a)) s).zou := by
  simp only [readied, duckChange, setAsq]

theorem makeCurrent_asq (a : Announcement) (resumed : Bool) (s : State) :
    { (makeCurrent a resumed s).asq with report := none } =
      { s.asq with current := some a, softCut := false, report := none } := by
  have h := (startRendering_frame a resumed (readied a s)).1
  rw [makeCurrent_eq]
  generalize startRendering a resumed (readied a s) = t at h
  exact (congrArg (fun q : Asq => { q with report := none }) h :)

/-- What an announcement that becomes current changes outside ASQ, with the port settled. -/
theorem makeCurrent_frame (h : PortSettled s) (a : Announcement) (resumed : Bool) :
    ducked (some a) s (makeCurrent a resumed s).zou ∧
    (makeCurrent a resumed s).lmc = (withGroups (lampStarts a) s).lmc ∧
    { makeCurrent a resumed s with asq := s.asq, zou := s.zou, vpl := s.vpl, ccc := s.ccc, cmp := s.cmp, lmc := s.lmc } = s ∧
    PortSettled (makeCurrent a resumed s) := by
  have hcalm := startRendering_calm (s := readied a s) (settled_of_cmp h rfl) a resumed
  have hzou := readied_zou a s
  have hready := readied_frame a s
  rw [makeCurrent_eq]
  generalize startRendering a resumed (readied a s) = t at hcalm
  have hf := (calm_parts hcalm).2
  generalize readied a s = r at hf hzou hready
  have hlmc : t.lmc = s.lmc := (congrArg State.lmc hf :).trans (congrArg State.lmc hready :)
  have hzou : t.zou = (duckChange (some (summaryOf a)) s).zou := (congrArg State.zou hf :).trans hzou
  refine ⟨?_, withGroups_lmc hlmc, ?_, settled_of_cmp hcalm.settled withGroups_cmp⟩
  · rw [withGroups_zou, hzou]
    exact duckChange_ducked (some a) s
  · exact (congrArg (fun z : State =>
      { z with asq := s.asq, zou := s.zou, vpl := s.vpl, ccc := s.ccc, cmp := s.cmp, lmc := s.lmc }) hf :).trans
      (congrArg (fun z : State => { z with vpl := s.vpl, ccc := s.ccc, cmp := s.cmp, lmc := s.lmc }) hready :)

/-! ## A new announcement is placed (R110, R111, R114) -/

theorem isStale_eq (s : State) (a : Announcement) : isStale s a = passedLimit s a := by
  unfold isStale passedLimit
  cases a.stale with
  | none => rfl
  | some l => cases s.rce.state <;> rfl

/-- The state with an id and an arrival issued. -/
def issued (id : Nat) (s : State) : State :=
  { s with asq := { s.asq with lastId := id, nextArrival := s.asq.nextArrival + 1 } }

theorem passedLimit_never (h : a.stale = none) : passedLimit s a = false := by
  rw [passedLimit, h]
  rfl

theorem passedLimit_iff {l : Nat} (h : a.stale = some l) :
    passedLimit s a = true ↔ (s.rce.state = .running ∨ s.rce.state = .complete) ∧ l < s.rce.lastOdo := by
  rw [passedLimit, h]
  simp

theorem passedLimit_not (h : ∀ l, a.stale = some l → (s.rce.state = .running ∨ s.rce.state = .complete) → s.rce.lastOdo ≤ l) :
    passedLimit s a = false := by
  cases hl : a.stale with
  | none => exact passedLimit_never hl
  | some l =>
    refine Bool.eq_false_iff.mpr fun hp => ?_
    obtain ⟨hst, hlt⟩ := (passedLimit_iff hl).mp hp
    exact absurd (h l hl hst) (by omega)

theorem placeNew_leads (hc : s.asq.current = none) (hl : passedLimit s x = false) :
    placeNew x s = (makeCurrent x false (issued x.id s), true) := by
  have hc' : (issued x.id s).asq.current = none := hc
  have hl' : isStale (issued x.id s) x = false := (isStale_eq _ x).trans hl
  show place x (issued x.id s) = _
  rw [place, hc']
  dsimp only
  rw [if_neg (by rw [hl']; decide)]

theorem placeNew_leads_state (hc : s.asq.current = none) (hl : passedLimit s x = false) :
    (placeNew x s).1 = makeCurrent x false (issued x.id s) := by
  rw [placeNew_leads hc hl]

theorem issued_sees (id : Nat) (s : State) : Sees s (issued id s) := ⟨⟨rfl, rfl, rfl, rfl⟩, rfl, rfl, rfl, rfl⟩

/-- The record of a request by its parameters (R109). -/
def requestRecord (s : State) (source : Source) (priority : Fin 4) (mask : ZoneMask) (rendering : Rendering) (langs : List Lang)
    (stale : Option Nat) (origin : Origin) : Announcement :=
  { id := nextId s, source := source, priority := priority, mask := mask, rendering := rendering,
    langs := if langs = [] then s.cth.settings.speakers else langs, stale := stale, origin := origin,
    arrival := s.asq.nextArrival, resume := { round := 0, items := 0 }, played := false, hang := .pressed }

theorem newAnnouncement_eq (s : State) (p : Fin 128) (priority : Fin 4) (mask : ZoneMask) (rendering : Rendering)
    (langs : List Lang) (stale : Option Nat) (origin : Origin) :
    newAnnouncement s p priority mask rendering langs stale origin =
      requestRecord s (.phrase p) priority mask rendering langs stale origin := by
  cases langs <;> rfl

/-- An accepted ANNOUNCE: its record is placed, and the reply says whether it was (R111, R114, R115). -/
theorem exec_announce {bc : Bool} {params : List Byte} {p : AnnounceParams} (ht : takes bc s) (hp : decodeAnnounce params = some p)
    (hne : s.asq.phrases.get p.phrase ≠ []) :
    let r := placeNew (requestRecord s (.phrase p.phrase) p.priority p.mask p.rendering p.langs p.stale .command) s
    exec (.announce bc params) s =
      .next (withReply bc 0x83 [if r.2 then 0 else 6, BitVec.ofNat 8 (nextId s)] r.1) := by
  intro r
  have hop : announceOp params s = (r.1, .reply [if r.2 then 0 else 6, BitVec.ofNat 8 (nextId s)]) := by
    have hcode : answerWith (if r.2 then .done else .full) [byte (nextId s)] =
        .reply [if r.2 then 0 else 6, BitVec.ofNat 8 (nextId s)] := by
      cases r.2 <;> rfl
    rw [← hcode, announceOp, hp]
    dsimp only
    rw [if_neg (by rw [List.isEmpty_iff]; exact hne), newAnnouncement_eq]
    rfl
  exact action_takes ht hop

theorem requestRecord_id (s : State) (source : Source) (priority : Fin 4) (mask : ZoneMask) (rendering : Rendering)
    (langs : List Lang) (stale : Option Nat) (origin : Origin) :
    (requestRecord s source priority mask rendering langs stale origin).id = nextId s := by
  rw [requestRecord]

theorem exec_announce_leads {bc : Bool} {params : List Byte} {p : AnnounceParams} (ht : takes bc s) (hp : decodeAnnounce params = some p)
    (hne : s.asq.phrases.get p.phrase ≠ []) (hc : s.asq.current = none)
    (hl : ∀ l, p.stale = some l → (s.rce.state = .running ∨ s.rce.state = .complete) → s.rce.lastOdo ≤ l) :
    let x := requestRecord s (.phrase p.phrase) p.priority p.mask p.rendering p.langs p.stale .command
    exec (.announce bc params) s =
      .next (withReply bc 0x83 [0, BitVec.ofNat 8 (nextId s)] (makeCurrent x false (issued x.id s))) := by
  intro x
  have hplace : placeNew x s = _ := placeNew_leads hc (passedLimit_not hl)
  refine (exec_announce ht hp hne).trans ?_
  rw [hplace, if_pos rfl]

theorem withReply_frame (bc : Bool) (kind : Byte) (p : List Byte) (s : State) : { withReply bc kind p s with cth := s.cth } = s := by
  cases bc <;> rfl

theorem withReply_asq (bc : Bool) (kind : Byte) (p : List Byte) (s : State) : (withReply bc kind p s).asq = s.asq := by
  cases bc <;> rfl

theorem withReply_vpl (bc : Bool) (kind : Byte) (p : List Byte) (s : State) : (withReply bc kind p s).vpl = s.vpl := by
  cases bc <;> rfl

/-! ## Talk, and the items (R113, R134) -/

theorem talkLive_iff (s : State) : talkLive s = true ↔ ∃ a ∈ liveAnnouncements s, a.source = .talk := by
  rw [talkLive, List.any_eq_true]
  exact exists_congr fun a => and_congr_right' beq_iff_eq

theorem talkRise_none (h : ∀ a ∈ liveAnnouncements s, a.source ≠ .talk) : talkRise s =
    (placeNew (requestRecord s .talk 2 0xF .both [] none .talk) s).1 := by
  have hno : ¬talkLive s = true := fun hl => by
    obtain ⟨a, ha, hs⟩ := (talkLive_iff s).mp hl
    exact h a ha hs
  rw [talkRise, if_neg hno]
  rfl

theorem lookup_findSome (s : State) (family language : Nat) : lookup s family language =
    (List.finRange 512).findSome? fun i => (s.ccc.directory.get i).bind fun c =>
      if c.family = family ∧ c.language = language then some c else none := by
  rw [lookup_eq, Fin.findSome?_eq_findSome?_finRange]
  congr 1
  funext i
  cases s.ccc.directory.get i <;> rfl

/-- Settles O52: every stage of a start is named and what it leaves is proved (`Begun`); an announcement that starts with none
current, and a TALK that a rise makes, is rendered from the state in which its id has been issued. -/
theorem voicesAllocated : Obligations.VoicesAllocated := by
  unfold Obligations.VoicesAllocated
  refine ⟨fun s it l => ?_, fun a resumed s => ?_, fun bc params p s ht hp hne hc hl => ?_, fun s hno hc => ?_⟩
  · simp only [← lookup_findSome]
    unfold resolveItem
    by_cases hn : it.neutral = true
    · rw [if_pos hn, if_pos hn, List.findSome?_singleton]
    · rw [if_neg hn, if_neg hn]
      cases hf : (s.scc.languages.get l).fallback with
      | none => cases h1 : lookup s it.family l.val <;> simp [h1]
      | some f => cases h1 : lookup s it.family l.val <;> cases h2 : lookup s it.family f.val <;> simp [h1, h2]
  · obtain ⟨hasq, hdir, hlocks⟩ := startRendering_frame a resumed s
    exact ⟨startRendering_rendered a resumed s, hasq, hdir, hlocks, fun hs => (calm_parts (startRendering_calm hs a resumed)).2⟩
  · have hexec := exec_announce_leads ht hp hne hc hl
    have hid := requestRecord_id s (.phrase p.phrase) p.priority p.mask p.rendering p.langs p.stale .command
    have hsource : (requestRecord s (.phrase p.phrase) p.priority p.mask p.rendering p.langs p.stale .command).source = .phrase p.phrase := by
      rw [requestRecord]
    dsimp only at hexec
    generalize requestRecord s (.phrase p.phrase) p.priority p.mask p.rendering p.langs p.stale .command = x at hid hsource hexec
    have hrendered := makeCurrent_rendered x false (issued x.id s)
    have hasq := makeCurrent_asq x false (issued x.id s)
    refine ⟨_, x, hexec, ?_, hid, hsource, ?_⟩
    · have hcurrent := congrArg Asq.current hasq
      dsimp only at hcurrent
      rw [withReply_asq, hcurrent]
    · exact rendered_congr (issued_sees x.id s) (withReply_vpl _ _ _ _)
        (congrArg Asq.report (withReply_asq _ _ _ _)) hrendered
  · intro t
    have ht : t = makeCurrent (requestRecord s .talk 2 0xF .both [] none .talk) false
        (issued (requestRecord s .talk 2 0xF .both [] none .talk).id s) := by
      rw [← placeNew_leads_state hc (passedLimit_never (by rw [requestRecord]))]
      exact talkRise_none hno
    have hid := requestRecord_id s .talk 2 0xF .both [] none .talk
    have hsource : (requestRecord s .talk 2 0xF .both [] none .talk).source = .talk := by rw [requestRecord]
    have hmask : (requestRecord s .talk 2 0xF .both [] none .talk).mask = 0xF := by rw [requestRecord]
    generalize requestRecord s .talk 2 0xF .both [] none .talk = x at ht hid hsource hmask
    have hrendered := makeCurrent_rendered x false (issued x.id s)
    rw [← ht] at hrendered
    obtain ⟨-, hrendered⟩ := hrendered
    rw [hsource] at hrendered
    obtain ⟨-, hvoices, hrec⟩ := hrendered
    refine ⟨hvoices, _, hrec, rfl, hid, fun i => ?_⟩
    dsimp only
    rw [get_ofFn, hmask]
    generalize ((issued x.id s).scc.seats.get i).zone = z
    exact if_pos (by decide +revert)

end Sys2Proof.Proofs
end

section
/-! PROOFS. ANNOUNCE with nothing current (R109, R111, R114). -/

namespace Sys2Proof.Proofs

open Sys2Proof Sys2Proof.Machine Sys2Proof.Laws

variable {s t : State} {a c x : Announcement} {bc : Bool} {params : List Byte}

/-! ## The parameters (R111) -/

theorem asFin_some_iff {n k : Nat} {x : Fin n} : asFin n k = some x ↔ x.val = k := by
  unfold asFin
  split
  · exact Option.some_inj.trans (Fin.ext_iff.trans eq_comm)
  · next h => exact ⟨nofun, fun he => absurd (he ▸ x.isLt) h⟩

theorem decodeMask_some_iff {b : Byte} {m : ZoneMask} : decodeMask b = some m ↔ m.toNat = b.toNat := by
  unfold decodeMask
  split
  · next h =>
    rw [Option.some_inj, ← BitVec.toNat_inj, BitVec.toNat_ofNat, Nat.mod_eq_of_lt h]
    exact eq_comm
  · next h => exact ⟨nofun, fun he => absurd (he ▸ m.isLt) h⟩

theorem decodeRendering_some_iff {b : Byte} {r : Rendering} : decodeRendering b = some r ↔ r.code.toNat = b.toNat := by
  refine ⟨fun h => ?_, decodeRendering_of_code⟩
  unfold decodeRendering at h
  split at h
  case h_4 => cases h
  all_goals
    next hb =>
      cases h
      rw [hb]
      rfl

theorem mapM_asFin_iff {n : Nat} : ∀ {bs : List Byte} {xs : List (Fin n)},
    (bs.mapM fun b => asFin n b.toNat) = some xs ↔ xs.map Fin.val = bs.map BitVec.toNat
  | [], xs => by cases xs <;> simp
  | b :: bs, [] => by
    cases hb : asFin n b.toNat with
    | none => simp [List.mapM_cons, hb]
    | some y => cases hl : bs.mapM fun b => asFin n b.toNat <;> simp [List.mapM_cons, hb, hl]
  | b :: bs, x :: xs => by
    have ih := mapM_asFin_iff (bs := bs) (xs := xs)
    rw [List.map_cons, List.map_cons, List.cons.injEq, ← ih, ← asFin_some_iff, List.mapM_cons]
    cases hb : asFin n b.toNat with
    | none => simp
    | some y => cases hl : bs.mapM fun b => asFin n b.toNat <;> simp

theorem decodeAnnounce_some_iff {p pr m r n a b c d sp s1 s0 : Byte} {x : AnnounceParams} :
    decodeAnnounce [p, pr, m, r, n, a, b, c, d, sp, s1, s0] = some x ↔
      asFin 128 p.toNat = some x.phrase ∧ asFin 4 pr.toNat = some x.priority ∧ decodeMask m = some x.mask ∧
      decodeRendering r = some x.rendering ∧ n.toNat ≤ 4 ∧ decodeLangs n.toNat [a, b, c, d] = some x.langs ∧
      x.stale = if yes sp then some (be16 s1 s0) else none := by
  unfold decodeAnnounce
  dsimp only
  by_cases hn : 4 < n.toNat
  · rw [if_pos hn]
    exact ⟨nofun, fun ⟨_, _, _, _, hle, _⟩ => absurd hn (Nat.not_lt.mpr hle)⟩
  · rw [if_neg hn]
    have hle : n.toNat ≤ 4 := Nat.not_lt.mp hn
    refine ⟨fun h => ?_, fun ⟨h1, h2, h3, h4, _, h5, h6⟩ => ?_⟩
    · split at h
      · next h1 h2 h3 h4 h5 =>
        cases h
        exact ⟨h1, h2, h3, h4, hle, h5, rfl⟩
      · cases h
    · rw [h1, h2, h3, h4, h5]
      dsimp only
      rw [← h6]

theorem decodeAnnounce_length (h : params.length ≠ 12) : decodeAnnounce params = none := by
  unfold decodeAnnounce
  split
  · exact absurd rfl h
  · rfl

/-- A field out of its range. -/
theorem decodeAnnounce_refused {p pr m r n a b c d sp s1 s0 : Byte}
    (h : 127 < p.toNat ∨ 3 < pr.toNat ∨ 15 < m.toNat ∨ 2 < r.toNat ∨ 4 < n.toNat ∨ ∃ k ∈ [a, b, c, d].take n.toNat, 11 < k.toNat) :
    decodeAnnounce [p, pr, m, r, n, a, b, c, d, sp, s1, s0] = none := by
  refine Option.eq_none_iff_forall_ne_some.mpr fun x hx => ?_
  obtain ⟨h1, h2, h3, h4, h5, h6, -⟩ := decodeAnnounce_some_iff.mp hx
  rcases h with h | h | h | h | h | h
  · rw [asFin_ge h] at h1
    cases h1
  · rw [asFin_ge h] at h2
    cases h2
  · rw [decodeMask_refused h] at h3
    cases h3
  · rw [decodeRendering_refused h] at h4
    cases h4
  · omega
  · rw [decodeLangs_refused h] at h6
    cases h6

/-! ## Its placement -/

theorem exec_announce_refused (ht : takes bc s)
    (h : ∀ x, decodeAnnounce params = some x → s.asq.phrases.get x.phrase = []) :
    exec (.announce bc params) s = .next (withReply bc 0x83 [4] s) := by
  refine exec_action_badValue ht rfl ?_
  unfold announceOp
  cases hd : decodeAnnounce params with
  | none => rfl
  | some x => exact if_pos (List.isEmpty_iff.mpr (h x hd))

/-- What is said of an announcement made current does not look at CTH. -/
theorem madeCurrent_cth {o : Option Announcement} {u : State} (h : madeCurrent x o s t) (hu : { u with cth := t.cth } = t) :
    madeCurrent x o s u := by
  rw [← hu] at h
  cases o with
  | none => exact h
  | some c => exact h

theorem withReply_cth {kind : Byte} {p : List Byte} (h : t.cth = s.cth) : (withReply bc kind p t).cth = (withReply bc kind p s).cth := by
  cases bc with
  | true => exact h
  | false =>
    simp only [withReply, h]
    rfl

theorem madeCurrent_leads (h : PortSettled s) (x : Announcement) :
    madeCurrent x none s (makeCurrent x false (issued x.id s)) ∧ (makeCurrent x false (issued x.id s)).cth = s.cth := by
  obtain ⟨⟨hsum, hzones⟩, hlmc, hframe, -⟩ := makeCurrent_frame (s := issued x.id s) (settled_of_cmp h rfl) x false
  have hasq := makeCurrent_asq x false (issued x.id s)
  have hrendered := makeCurrent_rendered x false (issued x.id s)
  generalize makeCurrent x false (issued x.id s) = t at hsum hzones hlmc hframe hasq hrendered
  have hlmc : t.lmc = (withGroups (lampStarts x) s).lmc := hlmc.trans (withGroups_lmc rfl)
  refine ⟨⟨hasq, hsum, hzones, rendered_congr (issued_sees x.id s) rfl rfl hrendered, hlmc, ?_⟩, (congrArg State.cth hframe :)⟩
  exact (congrArg (fun z : State => { z with cth := s.cth, asq := s.asq }) hframe :)

theorem placeNew_stale (hc : s.asq.current = none ∨ ∃ c, s.asq.current = some c ∧ c.priority < x.priority)
    (hl : passedLimit s x = true) :
    placeNew x s = (pushNotice (.announceEnd x.id .stale) (issued x.id s), true) := by
  have hl' : isStale (issued x.id s) x = true := (isStale_eq _ x).trans hl
  show place x (issued x.id s) = _
  unfold place
  rcases hc with hc | ⟨c, hc, hp⟩
  · rw [show (issued x.id s).asq.current = none from hc]
    exact if_pos hl'
  · rw [show (issued x.id s).asq.current = some c from hc]
    exact (if_pos hp).trans (if_pos hl')

theorem exec_announce_stale {p : AnnounceParams} (ht : takes bc s) (hp : decodeAnnounce params = some p)
    (hne : s.asq.phrases.get p.phrase ≠ [])
    (hc : s.asq.current = none ∨ ∃ c, s.asq.current = some c ∧ c.priority < p.priority)
    {l : Nat} (hl : p.stale = some l) (hst : s.rce.state = .running ∨ s.rce.state = .complete) (hlt : l < s.rce.lastOdo) :
    exec (.announce bc params) s = .next (withReply bc 0x83 [0, BitVec.ofNat 8 (nextId s)]
      (pushNotice (.announceEnd (nextId s) .stale) (issued (nextId s) s))) := by
  have hid := requestRecord_id s (.phrase p.phrase) p.priority p.mask p.rendering p.langs p.stale .command
  have hpr : (requestRecord s (.phrase p.phrase) p.priority p.mask p.rendering p.langs p.stale .command).priority = p.priority := by
    rw [requestRecord]
  have hstale : (requestRecord s (.phrase p.phrase) p.priority p.mask p.rendering p.langs p.stale .command).stale = some l := by
    rw [requestRecord, hl]
  refine (exec_announce ht hp hne).trans ?_
  generalize requestRecord s (.phrase p.phrase) p.priority p.mask p.rendering p.langs p.stale .command = x at hid hpr hstale
  rw [← hpr] at hc
  rw [placeNew_stale hc ((passedLimit_iff hstale).mpr ⟨hst, hlt⟩), if_pos rfl, hid]

/-- Settles O27: the record of the request is placed with nothing current, STALE by the test of the limit, and the decoding
answers exactly the parameters in their ranges. -/
theorem announceStarts : Obligations.AnnounceStarts := by
  unfold Obligations.AnnounceStarts
  refine ⟨fun bc params p s ht hs hp hne hc hl => ?_, fun bc params p l s ht hp hne hc hl hst hlt =>
    exec_announce_stale ht hp hne (.inl hc) hl hst hlt, fun bc params s ht => ⟨fun hlen => ?_, ?_, ?_⟩⟩
  · obtain ⟨hmade, hcth⟩ := madeCurrent_leads hs
      (requestRecord s (.phrase p.phrase) p.priority p.mask p.rendering p.langs p.stale .command)
    have hexec := exec_announce_leads ht hp hne hc hl
    refine ⟨_, hexec, madeCurrent_cth hmade (withReply_frame _ _ _ _), ?_⟩
    exact withReply_cth hcth
  · exact exec_announce_refused ht fun x hx => by
      rw [decodeAnnounce_length hlen] at hx
      cases hx
  · rintro p pr m r n a b c d sp s1 s0 rfl h
    refine exec_announce_refused ht fun x hx => ?_
    have hno (h : 127 < p.toNat ∨ 3 < pr.toNat ∨ 15 < m.toNat ∨ 2 < r.toNat ∨ 4 < n.toNat ∨
        ∃ k ∈ [a, b, c, d].take n.toNat, 11 < k.toNat) : False := by
      rw [decodeAnnounce_refused h] at hx
      cases hx
    rcases h with h | h | h | h | h | h | ⟨hlt, hempty⟩
    · exact (hno (.inl h)).elim
    · exact (hno (.inr (.inl h))).elim
    · exact (hno (.inr (.inr (.inl h)))).elim
    · exact (hno (.inr (.inr (.inr (.inl h))))).elim
    · exact (hno (.inr (.inr (.inr (.inr (.inl h)))))).elim
    · exact (hno (.inr (.inr (.inr (.inr (.inr h)))))).elim
    · have hphrase := (decodeAnnounce_some_iff.mp hx).1
      rw [asFin_lt hlt] at hphrase
      rw [← Option.some.inj hphrase]
      exact hempty
  · rintro p pr m r n a b c d sp s1 s0 x rfl
    have hdecode := decodeAnnounce_some_iff (p := p) (pr := pr) (m := m) (r := r) (n := n) (a := a) (b := b) (c := c) (d := d)
      (sp := sp) (s1 := s1) (s0 := s0) (x := x)
    rw [asFin_some_iff, asFin_some_iff, decodeMask_some_iff, decodeRendering_some_iff] at hdecode
    have hlangs : decodeLangs n.toNat [a, b, c, d] = some x.langs ↔
      x.langs.map Fin.val = ([a, b, c, d].take n.toNat).map BitVec.toNat := mapM_asFin_iff
    have hcode : x.rendering.code.toNat = match x.rendering with | .speakers => 0 | .headsets => 1 | .both => 2 := by
      cases x.rendering <;> rfl
    have hstale : (if yes sp = true then some (be16 s1 s0) else none) = if sp = 0 then none else some (s1.toNat * 256 + s0.toNat) := by
      by_cases h : sp = 0
      · rw [if_pos h, h]
        rfl
      · rw [if_neg h, if_pos (yes_eq_true h)]
        rfl
    rw [hlangs, hcode, hstale] at hdecode
    exact hdecode

end Sys2Proof.Proofs
end

section
/-! PROOFS. An announcement that joins the queue (R115). -/

namespace Sys2Proof.Proofs

open Sys2Proof Sys2Proof.Machine Sys2Proof.Laws

variable {s t : State} {a c x y : Announcement} {bc : Bool} {params : List Byte} {q rest : List Announcement}

/-- A joining announcement stands behind every entry that it does not go before. -/
theorem insertQueue_queuedIn (x : Announcement) : ∀ q : List Announcement, insertQueue x q = queuedIn x q
  | [] => rfl
  | y :: q => by
    have ih := insertQueue_queuedIn x q
    have hy : ahead x y = goesBefore x y := (goesBefore_eq x y).symm
    unfold insertQueue queuedIn
    rw [List.takeWhile_cons, List.dropWhile_cons, hy]
    cases goesBefore x y with
    | true => rfl
    | false =>
      rw [if_neg (by decide), ih]
      rfl

theorem queuedIn_stays (x : Announcement) (q : List Announcement) :
    let stays := fun y : Announcement => decide (x.priority < y.priority ∨ (y.priority = x.priority ∧ y.arrival ≤ x.arrival))
    queuedIn x q = q.takeWhile stays ++ x :: q.dropWhile stays := by
  intro stays
  have h : (fun y => !goesBefore x y) = stays := by
    funext y
    rw [goesBefore_eq, Bool.eq_iff_iff]
    simp only [stays, ahead, Bool.not_eq_true', Bool.or_eq_false_iff, decide_eq_false_iff_not, Bool.and_eq_false_iff,
      beq_eq_false_iff_ne, decide_eq_true_eq]
    omega
  rw [queuedIn, h]

/-- The queue of a state replaced. -/
def queueing (q : List Announcement) (s : State) : State := { s with asq := { s.asq with queue := q } }

theorem enterQueue_room (o : AnnOutcome) (h : s.asq.queue.length < 16) :
    enterQueue x o s = (queueing (queuedIn x s.asq.queue) s, true) := by
  have hj : joinQueue x s.asq.queue = some (queuedIn x s.asq.queue, none) :=
    (if_pos h).trans (by rw [insertQueue_queuedIn])
  rw [enterQueue, hj]
  rfl

theorem joinQueue_full (hq : q = rest ++ [y]) (h : 16 ≤ q.length) :
    joinQueue x q = if y.priority < x.priority then some (queuedIn x rest, some y) else none := by
  rw [joinQueue, if_neg (show ¬q.length < Config.queuePlaces from Nat.not_lt.mpr h), hq, List.getLast?_concat]
  dsimp only
  rw [List.dropLast_concat, insertQueue_queuedIn]

theorem enterQueue_displaces (o : AnnOutcome) (hq : s.asq.queue = rest ++ [y]) (h : 16 ≤ s.asq.queue.length)
    (hp : y.priority < x.priority) :
    enterQueue x o s = (pushNotice (.announceEnd y.id .displaced) (queueing (queuedIn x rest) s), true) := by
  rw [enterQueue, joinQueue_full hq h, if_pos hp]
  rfl

theorem enterQueue_refuses (o : AnnOutcome) (hq : s.asq.queue = rest ++ [y]) (h : 16 ≤ s.asq.queue.length)
    (hp : ¬y.priority < x.priority) : enterQueue x o s = (pushNotice (.announceEnd x.id o) s, false) := by
  rw [enterQueue, joinQueue_full hq h, if_neg hp]
  rfl

/-- A new announcement against a current one of its priority or a higher one. -/
theorem placeNew_queues (hc : s.asq.current = some c) (hp : ¬c.priority < x.priority) :
    placeNew x s = enterQueue x .refused (issued x.id s) := by
  show place x (issued x.id s) = _
  rw [place, show (issued x.id s).asq.current = some c from hc]
  exact if_neg hp

/-- A queue that is full has a last entry. -/
theorem full_concat (h : 16 ≤ q.length) : ∃ rest y, q = rest ++ [y] := by
  rcases List.eq_nil_or_concat q with rfl | ⟨rest, y, he⟩
  · exact absurd h (by decide)
  · exact ⟨rest, y, he.trans List.concat_eq_append⟩

theorem issued_frame (id : Nat) (s : State) : { issued id s with asq := s.asq } = s := rfl

theorem issued_cth (id : Nat) (s : State) : (issued id s).cth = s.cth := rfl

theorem pushNotice_cth_congr (n : Notice) (h : t.cth = s.cth) : (pushNotice n t).cth = (pushNotice n s).cth := by
  unfold pushNotice
  rw [h]
  split
  · rfl
  · rfl

/-- A reply over a state that differs in CTH and ASQ alone. -/
theorem replied_frame {kind : Byte} {p : List Byte} (h : { t with cth := s.cth, asq := s.asq } = s) :
    { withReply bc kind p t with cth := s.cth, asq := s.asq } = s := by
  cases bc with
  | true => exact h
  | false => exact h

/-- The answer of a request that was placed, and of one that the full queue refused. -/
theorem exec_announce_of {p : AnnounceParams} (ht : takes bc s) (hp : decodeAnnounce params = some p)
    (hne : s.asq.phrases.get p.phrase ≠ []) {placed : Bool}
    (h : placeNew (requestRecord s (.phrase p.phrase) p.priority p.mask p.rendering p.langs p.stale .command) s = (t, placed)) :
    exec (.announce bc params) s = .next (withReply bc 0x83 [if placed then 0 else 6, BitVec.ofNat 8 (nextId s)] t) := by
  refine (exec_announce ht hp hne).trans ?_
  rw [h]

/-- Settles O28: the record is placed behind the current announcement, and the full rule has its three cases, room, an entry
displaced, and a refusal. -/
theorem announceQueues : Obligations.AnnounceQueues := by
  unfold Obligations.AnnounceQueues
  intro bc params p c s ht hp hne hc hle id x stays
  have hexec {t : State} {placed : Bool} := exec_announce_of (t := t) (placed := placed) ht hp hne
  have hx : requestRecord s (.phrase p.phrase) p.priority p.mask p.rendering p.langs p.stale .command = x := rfl
  rw [hx] at hexec
  have hid : x.id = nextId s := by rw [← hx, requestRecord_id]
  have hpr : x.priority = p.priority := by rw [← hx, requestRecord]
  have hstays : ∀ q, queuedIn x q = q.takeWhile stays ++ x :: q.dropWhile stays := queuedIn_stays x
  clear_value x
  have hplace := placeNew_queues hc (show ¬c.priority < x.priority by rw [hpr]; exact not_lt.mpr hle)
  rcases Nat.lt_or_ge s.asq.queue.length 16 with hroom | hfull
  · rw [enterQueue_room .refused (show (issued x.id s).asq.queue.length < 16 from hroom)] at hplace
    refine ⟨_, hexec hplace, ?_, replied_frame rfl, fun _ => ⟨?_, withReply_cth rfl⟩, fun _ _ _ h => absurd h (by omega)⟩
    · rw [withReply_asq, ← hid]
      rfl
    · rw [withReply_asq, ← hstays]
      rfl
  · obtain ⟨rest, y, hq⟩ := full_concat hfull
    have hlast {rest' : List Announcement} {y' : Announcement} (h : s.asq.queue = rest' ++ [y']) : rest' = rest ∧ y' = y := by
      rw [hq] at h
      obtain ⟨h1, h2⟩ := List.append_inj' h rfl
      exact ⟨h1.symm, (List.cons.inj h2).1.symm⟩
    by_cases hlow : y.priority < p.priority
    · rw [enterQueue_displaces .refused (s := issued x.id s) hq hfull (by rw [hpr]; exact hlow)] at hplace
      refine ⟨_, hexec hplace, ?_, replied_frame ?_, fun h => absurd h (by omega), fun rest' y' h _ => ?_⟩
      · rw [withReply_asq, pushNotice_asq, ← hid]
        rfl
      · exact (congrArg (fun z : State => { z with cth := s.cth, asq := s.asq }) (pushNotice_frame _ _) :)
      · obtain ⟨rfl, rfl⟩ := hlast h
        refine ⟨fun _ => ⟨?_, withReply_cth (pushNotice_cth_congr _ rfl)⟩, fun h => absurd hlow (not_lt.mpr h)⟩
        rw [withReply_asq, pushNotice_asq, ← hstays]
        rfl
    · rw [enterQueue_refuses .refused (s := issued x.id s) hq hfull (by rw [hpr]; exact hlow), hid] at hplace
      refine ⟨_, hexec hplace, ?_, replied_frame ?_, fun h => absurd h (by omega), fun rest' y' h _ => ?_⟩
      · rw [withReply_asq, pushNotice_asq]
        rfl
      · exact (congrArg (fun z : State => { z with cth := s.cth, asq := s.asq }) (pushNotice_frame _ _) :)
      · obtain ⟨rfl, rfl⟩ := hlast h
        refine ⟨fun h => absurd h hlow, fun _ => ⟨?_, withReply_cth (pushNotice_cth_congr _ rfl)⟩⟩
        rw [withReply_asq, pushNotice_asq]
        rfl

end Sys2Proof.Proofs
end

section
/-! PROOFS. The rendering of an announcement that stops (R132, R139, R140). -/

namespace Sys2Proof.Proofs

open Sys2Proof Sys2Proof.Machine Sys2Proof.Laws

variable {s t u w : State} {v : VoiceNo} {x y : Voice} {r : RenderRec}

/-- A voice that a stop sends to ENDING (R139). -/
def stoppedVoice (r : RenderRec) (x : Voice) : Voice :=
  { x with state := .ending, next := none, fade := 0, claim := none, fadeZones := some (r.mask, r.priority),
           fadeSilent := decide (x.state ≠ .playing) }

theorem stoppable_eq (id : Nat) (x : Voice) : stoppable id x = sounding id x := rfl

/-- Only the voices of a list differ, and the fetch queue, which stays empty where it was. -/
structure Stopped (l : List VoiceNo) (s t : State) : Prop where
  others : ∀ w, w ∉ l → t.vpl.voices.get w = s.vpl.voices.get w
  prev : t.vpl.prev = s.vpl.prev
  rendering : t.vpl.rendering = s.vpl.rendering
  asq : t.asq = s.asq
  cache : { t.ccc with queue := s.ccc.queue } = s.ccc
  empty : s.ccc.queue = [] → t.ccc.queue = []

theorem playing_bne (x : Voice) : (x.state != .playing) = decide (x.state ≠ .playing) := by
  cases x.state <;> rfl

theorem stopped_enterEnding (v : VoiceNo) (s : State) (hr : s.vpl.rendering = some r) :
    Stopped [v] s (enterEnding v s) ∧ (enterEnding v s).vpl.voices.get v = stoppedVoice r (s.vpl.voices.get v) := by
  obtain ⟨hnear, hv, hrec⟩ := comes_enterEnding (v := v) ⟨rfl, hr⟩
  refine ⟨⟨fun w hw => hnear.others w (by simpa using hw), hnear.prev, hrec.trans hr.symm, rfl, rfl, fun hq => ?_⟩, ?_⟩
  · unfold enterEnding ceaseWait
    dsimp only
    rw [show (setVoice v _ s).ccc.queue = s.ccc.queue from rfl, hq]
    rfl
  · refine hv.trans ?_
    rw [playing_bne]
    rfl

theorem foldl_enterEnding : ∀ (l : List VoiceNo) (s : State), l.Nodup → s.vpl.rendering = some r →
    Stopped l s (l.foldl (fun s v => enterEnding v s) s) ∧
    ∀ v ∈ l, (l.foldl (fun s v => enterEnding v s) s).vpl.voices.get v = stoppedVoice r (s.vpl.voices.get v)
  | [], s, _, _ => ⟨⟨fun _ _ => rfl, rfl, rfl, rfl, rfl, id⟩, nofun⟩
  | v :: l, s, hnd, hr => by
    obtain ⟨hv, hl⟩ := List.nodup_cons.mp hnd
    obtain ⟨hone, hvoice⟩ := stopped_enterEnding v s hr
    obtain ⟨hrest, hvoices⟩ := foldl_enterEnding l (enterEnding v s) hl (hone.rendering.trans hr)
    rw [List.foldl_cons]
    refine ⟨⟨fun w hw => ?_, hrest.prev.trans hone.prev, hrest.rendering.trans hone.rendering, hrest.asq.trans hone.asq, ?_,
      fun hq => hrest.empty (hone.empty hq)⟩, fun w hw => ?_⟩
    · obtain ⟨hne, hw⟩ := not_or.mp (mt List.mem_cons.mpr hw)
      exact (hrest.others w hw).trans (hone.others w (by simpa using hne))
    · exact (congrArg (fun c : Ccc => { c with queue := s.ccc.queue }) hrest.cache :).trans hone.cache
    · rcases List.mem_cons.mp hw with rfl | hw
      · exact (hrest.others w hv).trans hvoice
      · rw [hvoices w hw, hone.others w (by rw [List.mem_singleton]; exact fun e => hv (e ▸ hw))]

/-- The arbiter fills a sector only where a fetch waits, and leaves all but the sectors, their order and the queue. -/
theorem arbiter_cache (s : State) : { (arbiter s).ccc with lines := s.ccc.lines, lru := s.ccc.lru, queue := s.ccc.queue } = s.ccc ∧
    (s.ccc.queue = [] → (arbiter s).ccc.lines = s.ccc.lines) := by
  rcases arbiter_cases s with h | ⟨_, e, i, he, -, h⟩ | ⟨-, m, -, -, ⟨-, h⟩ | ⟨-, h⟩⟩
  · rw [h]
    exact ⟨rfl, fun _ => rfl⟩
  · rw [h]
    refine ⟨rfl, fun hq => ?_⟩
    rw [hq] at he
    cases he
  · rw [h]
    exact ⟨rfl, fun _ => rfl⟩
  · rw [h]
    exact ⟨rfl, fun _ => rfl⟩

/-- The voices that a stop sends to ENDING. -/
def stops (r : RenderRec) (s : State) : List VoiceNo := allVoices.filter fun v => stoppable r.owner (voiceOf s v)

theorem mem_stops : v ∈ stops r s ↔ sounding r.owner (s.vpl.voices.get v) = true := by
  rw [stops, List.mem_filter]
  exact and_iff_right (List.mem_finRange v)

theorem stops_nodup (r : RenderRec) (s : State) : (stops r s).Nodup := (List.nodup_finRange 8).filter _

/-- The record discarded and the map kept as the previous one. -/
def endedRecord (r : RenderRec) (s t : State) : State :=
  { t with vpl := { t.vpl with
    prev := if (stops r s).isEmpty then t.vpl.prev else some { owner := r.owner, map := r.map }, rendering := none } }

theorem stopVoices_eq (hr : s.vpl.rendering = some r) : stopVoices s =
    arbiter (prunePrev (endedRecord r s (dropClaims ((stops r s).foldl (fun s v => enterEnding v s) s)))) := by
  rw [stopVoices, hr]
  rfl

theorem stopVoices_none (hr : s.vpl.rendering = none) : stopVoices s = s := by
  rw [stopVoices, hr]

/-- What a stop leaves of VPL and CCC (R132, R139, R140). -/
def quietened (p q : Vpl) (c d : Ccc) : Prop :=
  (match p.rendering with
   | none => q = p
   | some r =>
     (∀ v, q.voices.get v =
       if sounding r.owner (p.voices.get v) then stoppedVoice r (p.voices.get v) else { p.voices.get v with claim := none }) ∧
     q.rendering = none ∧
     q.prev = ((if ∃ v, sounding r.owner (p.voices.get v) = true then some { owner := r.owner, map := r.map }
       else p.prev).filter (fades q.voices))) ∧
  (c.queue = [] → d.lines = c.lines) ∧ { d with lines := c.lines, lru := c.lru, queue := c.queue } = c

theorem stops_isEmpty (r : RenderRec) (s : State) : (stops r s).isEmpty = true ↔
    ¬∃ v, sounding r.owner (s.vpl.voices.get v) = true := by
  rw [List.isEmpty_iff, List.eq_nil_iff_forall_not_mem, not_exists]
  exact forall_congr' fun v => not_congr mem_stops

theorem stopVoices_quietened (s : State) : quietened s.vpl (stopVoices s).vpl s.ccc (stopVoices s).ccc := by
  unfold quietened
  cases hr : s.vpl.rendering with
  | none =>
    rw [stopVoices_none hr]
    exact ⟨rfl, fun _ => rfl, rfl⟩
  | some r =>
    obtain ⟨hstop, hvoices⟩ := foldl_enterEnding (stops r s) s (stops_nodup r s) hr
    rw [stopVoices_eq hr]
    generalize (stops r s).foldl (fun s v => enterEnding v s) s = w at hstop hvoices
    obtain ⟨hcache, hlines⟩ := arbiter_cache (prunePrev (endedRecord r s (dropClaims w)))
    have hvpl := arbiter_vpl (prunePrev (endedRecord r s (dropClaims w)))
    have hccc : (prunePrev (endedRecord r s (dropClaims w))).ccc = w.ccc := by rw [prunePrev_eq]; rfl
    have hprune : (prunePrev (endedRecord r s (dropClaims w))).vpl = { (endedRecord r s (dropClaims w)).vpl with
        prev := (endedRecord r s (dropClaims w)).vpl.prev.filter (fades (dropClaims w).vpl.voices) } := by
      rw [prunePrev_eq]
      rfl
    rw [hprune] at hvpl
    rw [hccc] at hcache hlines
    generalize arbiter (prunePrev (endedRecord r s (dropClaims w))) = u at hcache hlines hvpl
    have hprev : (endedRecord r s (dropClaims w)).vpl.prev =
        if ∃ v, sounding r.owner (s.vpl.voices.get v) = true then some { owner := r.owner, map := r.map } else s.vpl.prev := by
      by_cases h : ∃ v, sounding r.owner (s.vpl.voices.get v) = true
      · rw [if_pos h]
        exact if_neg fun he => (stops_isEmpty r s).mp he h
      · rw [if_neg h]
        exact (if_pos ((stops_isEmpty r s).mpr h)).trans hstop.prev
    refine ⟨⟨fun v => ?_, (congrArg Vpl.rendering hvpl :), ?_⟩, fun hq => ?_, ?_⟩
    · have hv : u.vpl.voices.get v = { w.vpl.voices.get v with claim := none } :=
        (congrArg (fun p : Vpl => p.voices.get v) hvpl :).trans (dropClaims_voice w v)
      rw [hv]
      by_cases hs : sounding r.owner (s.vpl.voices.get v) = true
      · rw [if_pos hs, hvoices v (mem_stops.mpr hs)]
        rfl
      · rw [if_neg hs, hstop.others v (mt mem_stops.mp hs)]
    · have hp : u.vpl.prev = (endedRecord r s (dropClaims w)).vpl.prev.filter (fades u.vpl.voices) := by
        rw [hvpl]
        rfl
      rw [hp, hprev]
    · exact (hlines (hstop.empty hq)).trans (congrArg Ccc.lines hstop.cache :)
    · exact (congrArg (fun c : Ccc => { c with lines := s.ccc.lines, lru := s.ccc.lru, queue := s.ccc.queue }) hcache :).trans
        (congrArg (fun c : Ccc => { c with lines := s.ccc.lines, lru := s.ccc.lru }) hstop.cache :)

theorem stopVoices_asq (s : State) : (stopVoices s).asq = s.asq := by
  cases hr : s.vpl.rendering with
  | none => rw [stopVoices_none hr]
  | some r =>
    have hstop := (foldl_enterEnding (stops r s) s (stops_nodup r s) hr).1
    rw [stopVoices_eq hr, arbiter_asq, prunePrev_eq]
    exact hstop.asq

/-- The state as a stop leaves it, with no more of it changed. -/
def silencedState (s w : State) : State :=
  { s with asq := { s.asq with report := none }, vpl := w.vpl, ccc := w.ccc, cmp := w.cmp }

theorem stopVoices_silenced (hv : t.vpl = s.vpl) (hc : t.ccc = s.ccc) : silenced s (silencedState s (stopVoices t)) := by
  have h := stopVoices_quietened t
  rw [hv, hc] at h
  obtain ⟨hvpl, hlines, hcache⟩ := h
  exact ⟨hvpl, hlines, hcache, rfl, rfl⟩

end Sys2Proof.Proofs
end

section
/-! PROOFS. A new announcement is placed, and one that preempts (R114, R116, R117, R125). -/

namespace Sys2Proof.Proofs

open Sys2Proof Sys2Proof.Machine Sys2Proof.Laws

variable {s t u w e : State} {a c x y : Announcement} {bc : Bool} {params : List Byte}

/-! ## The current announcement leaves its place (R116, R117) -/

/-- ASQ with nothing current, the stack and queue as given. -/
def vacated (stack queue : List Announcement) (s : State) : State :=
  { s with asq := { s.asq with current := none, softCut := false, report := none, stack := stack, queue := queue } }

theorem suspended_eq (s : State) (c : Announcement) : suspended s c = { c with
    resume := if c.rendering = .headsets then { round := 0, items := 0 }
      else match s.vpl.rendering with | some r => r.progress | none => { round := 0, items := 0 },
    played := match s.vpl.rendering with | some r => r.played | none => false } := by
  unfold suspended handBack
  cases s.vpl.rendering <;> rfl

theorem leaveCurrent_eq (c : Announcement) (s : State) :
    leaveCurrent c s = told (givesWay c s).2.2 (vacated (givesWay c s).1 (givesWay c s).2.1 s) := by
  unfold leaveCurrent givesWay
  dsimp only
  by_cases hcut : s.asq.softCut = true
  · rw [if_pos hcut, if_pos hcut]
    rfl
  · rw [if_neg hcut, if_neg hcut]
    by_cases htalk : c.source = .talk
    · rw [if_pos htalk, if_pos htalk]
      rcases Nat.lt_or_ge s.asq.queue.length 16 with hroom | hfull
      · rw [if_pos hroom, enterQueue_room .displaced (by exact hroom)]
        rfl
      · obtain ⟨rest, y, hq⟩ := full_concat hfull
        have hlast : s.asq.queue.getLast? = some y := by rw [hq, List.getLast?_concat]
        have hdrop : s.asq.queue.dropLast = rest := by rw [hq, List.dropLast_concat]
        rw [if_neg (Nat.not_lt.mpr hfull), hlast, hdrop]
        dsimp only
        by_cases hp : y.priority < c.priority
        · rw [if_pos hp, enterQueue_displaces (rest := rest) (y := y) .displaced (by exact hq) (by exact hfull) hp]
          rfl
        · rw [if_neg hp, enterQueue_refuses (rest := rest) (y := y) .displaced (by exact hq) (by exact hfull) hp]
          rfl
    · rw [if_neg htalk, if_neg htalk, suspended_eq]
      rfl

theorem told_frame (n : Option Notice) (s : State) : { told n s with cth := s.cth } = s := by
  cases n with
  | none => rfl
  | some n => exact pushNotice_frame n s

theorem told_settings (n : Option Notice) (s : State) : (told n s).cth.settings = s.cth.settings := by
  cases n with
  | none => rfl
  | some n => exact pushNotice_settings n s

theorem told_cth_congr (n : Option Notice) (h : t.cth = s.cth) : (told n t).cth = (told n s).cth := by
  cases n with
  | none => exact h
  | some n => exact pushNotice_cth_congr n h

/-! ## Its voices and lamps stop (R125, R139, R174) -/

/-- The voices of the announcement that was current stop, and its lamps. -/
def muted (c : Announcement) (s : State) : State := withGroups (lampEnds c) (stopVoices s)

theorem muted_eq (c : Announcement) (s : State) : lampAnnounceEnd c (stopVoices s) = muted c s := lampAnnounceEnd_withGroups c _

theorem muted_asq (c : Announcement) (s : State) : (muted c s).asq = s.asq := withGroups_asq.trans (stopVoices_asq s)

theorem muted_frame (h : PortSettled s) (c : Announcement) :
    (muted c s).lmc = (withGroups (lampEnds c) s).lmc ∧ PortSettled (muted c s) ∧
    { muted c s with vpl := s.vpl, ccc := s.ccc, cmp := s.cmp, lmc := s.lmc } = s := by
  have hcalm := keep_stopVoices (calm_closed s) s (.refl h)
  have hasq := stopVoices_asq s
  unfold muted
  generalize stopVoices s = t at hcalm hasq
  have hf := (calm_parts hcalm).2
  refine ⟨withGroups_lmc (congrArg State.lmc hf :), settled_of_cmp hcalm.settled withGroups_cmp, ?_⟩
  rw [← hasq] at hf
  exact (congrArg (fun z : State => { z with vpl := s.vpl, ccc := s.ccc, cmp := s.cmp, lmc := s.lmc }) hf :)

/-- What a rendering that starts after a stop looks at. -/
theorem muted_sees (h : PortSettled t) (c : Announcement) (hreport : t.asq.report = none) (hphrases : t.asq.phrases = s.asq.phrases)
    (hscc : t.scc = s.scc) (hset : t.cth.settings = s.cth.settings) : Sees (silencedState s (stopVoices t)) (muted c t) := by
  obtain ⟨-, -, hf⟩ := muted_frame h c
  have hasq := muted_asq c t
  have hvpl : (muted c t).vpl = (stopVoices t).vpl := withGroups_vpl
  have hccc : (muted c t).ccc = (stopVoices t).ccc := withGroups_ccc
  generalize stopVoices t = w at hvpl hccc
  generalize muted c t = e at hf hasq hvpl hccc
  have hscc' : e.scc = s.scc := (congrArg State.scc hf :).trans hscc
  have hgap : e.cth.settings.gap = s.cth.settings.gap := (congrArg (fun z : State => z.cth.settings.gap) hf :).trans (congrArg Settings.gap hset)
  exact ⟨⟨congrArg Ccc.directory hccc, congrArg Ccc.lines hccc, congrArg Scc.languages hscc', hgap⟩, hvpl, congrArg Scc.seats hscc',
    (congrArg Asq.phrases hasq).trans hphrases, (congrArg Asq.report hasq).trans hreport⟩

/-! ## Preemption (R116, R125) -/

theorem ducked_congr {next : Option Announcement} {z : Zou} (hz : t.zou = s.zou) (hs : t.cth.settings = s.cth.settings)
    (h : ducked next t z) : ducked next s z := by
  unfold ducked at h ⊢
  rw [hz, hs] at h
  exact h

theorem preempt_eq (c x : Announcement) (s : State) :
    preempt c x s = makeCurrent x false (muted c (told (givesWay c s).2.2 (vacated (givesWay c s).1 (givesWay c s).2.1 s))) := by
  rw [preempt, muted_eq, leaveCurrent_eq]

theorem preempt_madeCurrent (h : PortSettled s) (c x : Announcement) :
    madeCurrent x (some c) s (preempt c x (issued x.id s)) ∧ (preempt c x (issued x.id s)).cth = (told (givesWay c s).2.2 s).cth := by
  have hways : givesWay c (issued x.id s) = givesWay c s := rfl
  rw [preempt_eq, hways]
  rcases hg : givesWay c s with ⟨stack, queue, notice⟩
  dsimp only
  have hset := told_settings notice (vacated stack queue (issued x.id s))
  have htold := told_frame notice (vacated stack queue (issued x.id s))
  have hcth : (told notice (vacated stack queue (issued x.id s))).cth = (told notice s).cth := told_cth_congr notice rfl
  generalize told notice (vacated stack queue (issued x.id s)) = w at hset htold hcth
  have hw : PortSettled w := settled_of_cmp h (congrArg State.cmp htold :)
  have hasq : w.asq = (vacated stack queue (issued x.id s)).asq := (congrArg State.asq htold :)
  have hvpl : w.vpl = s.vpl := (congrArg State.vpl htold :)
  have hccc : w.ccc = s.ccc := (congrArg State.ccc htold :)
  have hscc : w.scc = s.scc := (congrArg State.scc htold :)
  have hlmc : w.lmc = s.lmc := (congrArg State.lmc htold :)
  obtain ⟨hmlmc, hmset, hmframe⟩ := muted_frame hw c
  have hsees := muted_sees (s := s) hw c (by rw [hasq]; rfl) (by rw [hasq]; rfl) hscc hset
  have hmasq := muted_asq c w
  have hsilenced := stopVoices_silenced (s := s) hvpl hccc
  generalize muted c w = e at hmlmc hmset hmframe hsees hmasq
  obtain ⟨hducked, hxlmc, hframe, -⟩ := makeCurrent_frame hmset x false
  have hxasq := makeCurrent_asq x false e
  have hrendered := makeCurrent_rendered x false e
  generalize makeCurrent x false e = t at hducked hxlmc hframe hxasq hrendered
  have hcth' : t.cth = (told notice s).cth :=
    ((congrArg State.cth hframe :).trans (congrArg State.cth hmframe :)).trans hcth
  have hezou : e.zou = s.zou := (congrArg State.zou hmframe :).trans (congrArg State.zou htold :)
  have heset : e.cth.settings = s.cth.settings := (congrArg (fun z : State => z.cth.settings) hmframe :).trans hset
  obtain ⟨hsum, hzones⟩ := ducked_congr hezou heset hducked
  have hrendered := rendered_congr hsees rfl rfl hrendered
  refine ⟨⟨?_, hsum, hzones, ⟨_, hsilenced, hrendered⟩, ?_, ?_⟩, hcth'⟩
  · rw [hxasq, hmasq, hasq]
    dsimp only
    rw [hg]
    rfl
  · exact hxlmc.trans (withGroups_lmc (hmlmc.trans (withGroups_lmc hlmc)))
  · exact ((congrArg (fun z : State => { z with
        cth := s.cth, asq := s.asq, zou := s.zou, vpl := s.vpl, ccc := s.ccc, cmp := s.cmp, lmc := s.lmc }) hframe :).trans
      (congrArg (fun z : State => { z with
        cth := s.cth, asq := s.asq, zou := s.zou, vpl := s.vpl, ccc := s.ccc, cmp := s.cmp, lmc := s.lmc }) hmframe :)).trans
      (congrArg (fun z : State => { z with
        cth := s.cth, asq := s.asq, zou := s.zou, vpl := s.vpl, ccc := s.ccc, cmp := s.cmp, lmc := s.lmc }) htold :)

/-! ## Placement (R114) -/

theorem placeNew_preempts (hc : s.asq.current = some c) (hp : c.priority < x.priority) (hl : passedLimit s x = false) :
    placeNew x s = (preempt c x (issued x.id s), true) := by
  have hl' : isStale (issued x.id s) x = false := (isStale_eq _ x).trans hl
  show place x (issued x.id s) = _
  rw [place, show (issued x.id s).asq.current = some c from hc]
  dsimp only
  rw [if_pos hp, if_neg (by rw [hl']; decide)]

theorem placeNew_placed (h : PortSettled s) (x : Announcement) : placed x s (placeNew x s).1 := by
  unfold placed
  dsimp only
  split
  · next hc =>
    split
    · next hl =>
      rw [placeNew_stale (.inl hc) hl]
      rfl
    · next hl =>
      rw [placeNew_leads hc (Bool.eq_false_iff.mpr hl)]
      dsimp only
      exact madeCurrent_leads h x
  · next c hc =>
    split
    · next hp =>
      split
      · next hl =>
        rw [placeNew_stale (.inr ⟨c, hc, hp⟩) hl]
        rfl
      · next hl =>
        rw [placeNew_preempts hc hp (Bool.eq_false_iff.mpr hl)]
        dsimp only
        exact preempt_madeCurrent h c x
    · next hp =>
      rw [placeNew_queues hc hp]
      refine ⟨fun hroom => ?_, fun rest y hq hfull => ?_⟩
      · rw [enterQueue_room .refused (s := issued x.id s) hroom]
        rfl
      · by_cases hlow : y.priority < x.priority
        · rw [if_pos hlow, enterQueue_displaces .refused (s := issued x.id s) hq hfull hlow]
          rfl
        · rw [if_neg hlow, enterQueue_refuses .refused (s := issued x.id s) hq hfull hlow]
          rfl

/-- Settles O29: the current announcement leaves its place as `givesWay` says, its voices and lamps stop, and the new one starts
from there; past the limit nothing is preempted. -/
theorem announcePreempts : Obligations.AnnouncePreempts := by
  unfold Obligations.AnnouncePreempts
  intro bc params p c s ht hp hne hc hlow
  refine ⟨fun l hl hst hlt => exec_announce_stale ht hp hne (.inr ⟨c, hc, hlow⟩) hl hst hlt, fun hs hl => ?_⟩
  obtain ⟨hmade, hcth⟩ := preempt_madeCurrent hs c
    (requestRecord s (.phrase p.phrase) p.priority p.mask p.rendering p.langs p.stale .command)
  have hexec := exec_announce_of ht hp hne (placeNew_preempts hc hlow (passedLimit_not hl))
  exact ⟨_, hexec, madeCurrent_cth hmade (withReply_frame _ _ _ _), withReply_cth hcth⟩

end Sys2Proof.Proofs
end

section
/-! PROOFS. Selection of the next announcement, and the end of the current one (R118, R124, R125). -/

namespace Sys2Proof.Proofs

open Sys2Proof Sys2Proof.Machine Sys2Proof.Laws

variable {s t u w e : State} {a c x y : Announcement} {bc : Bool}

/-! ## Selection (R118) -/

/-- The stack and the queue replaced. -/
def restocked (stack queue : List Announcement) (s : State) : State :=
  { s with asq := { s.asq with stack := stack, queue := queue } }

/-- Notices queued in their order. -/
def toldAll (ns : List Notice) (s : State) : State := ns.foldl (fun x n => pushNotice n x) s

theorem pushNotice_restocked (n : Notice) (stack queue : List Announcement) (s : State) :
    pushNotice n (restocked stack queue s) = restocked stack queue (pushNotice n s) := by
  unfold pushNotice
  split
  · next h => rw [if_pos (by exact h)]; rfl
  · next h => rw [if_neg (by exact h)]; rfl

theorem toldAll_frame : ∀ (ns : List Notice) (s : State), { toldAll ns s with cth := s.cth } = s
  | [], _ => rfl
  | n :: ns, s => by
    have h := toldAll_frame ns (pushNotice n s)
    exact (congrArg (fun z : State => { z with cth := s.cth }) h :).trans (pushNotice_frame n s)

theorem toldAll_cth_congr : ∀ (ns : List Notice) {t s : State}, t.cth = s.cth → (toldAll ns t).cth = (toldAll ns s).cth
  | [], _, _, h => h
  | n :: ns, _, _, h => toldAll_cth_congr ns (pushNotice_cth_congr n h)

theorem toldAll_settings : ∀ (ns : List Notice) (s : State), (toldAll ns s).cth.settings = s.cth.settings
  | [], _ => rfl
  | n :: ns, s => (toldAll_settings ns (pushNotice n s)).trans (pushNotice_settings n s)

theorem toldAll_replies : ∀ (ns : List Notice) (s : State), (toldAll ns s).cth.replies = s.cth.replies
  | [], _ => rfl
  | n :: ns, s => (toldAll_replies ns (pushNotice n s)).trans (pushNotice_replies n s)

theorem rejects_eq (hr : t.rce = s.rce) (hp : t.asq.phrases = s.asq.phrases) (a : Announcement) : rejects t a = refusal s a := by
  have hstale : isStale t a = passedLimit s a := by
    rw [isStale_eq]
    unfold passedLimit
    rw [hr]
  unfold rejects refusal
  rw [hstale]
  split
  · rfl
  · cases hs : a.source with
    | talk => exact if_neg fun h => h.1 rfl
    | phrase p =>
      rw [itemsOf_phrase hs, hp]
      by_cases he : s.asq.phrases.get p = []
      · rw [if_pos ⟨nofun, List.isEmpty_iff.mpr he⟩]
        exact (if_pos he).symm
      · rw [if_neg fun h => he (List.isEmpty_iff.mp h.2)]
        exact (if_neg he).symm

/-- A step of `selected` by the next candidate. -/
theorem selected_succ (s : State) (n : Nat) (stack queue : List Announcement) : selected s (n + 1) stack queue =
    match candidate stack queue with
    | none => { chosen := none, stack := stack, queue := queue, ends := [] }
    | some (a, resumed, stack', queue') =>
      match refusal s a with
      | none => { chosen := some (a, resumed), stack := stack', queue := queue', ends := [] }
      | some o => { selected s n stack' queue' with ends := .announceEnd a.id o :: (selected s n stack' queue').ends } := by
  match stack, queue with
  | [], [] => rfl
  | x :: xs, [] => rfl
  | [], y :: ys => rfl
  | x :: xs, y :: ys =>
    rw [selected, candidate]
    by_cases h : x.priority < y.priority
    · have hd : decide (y.priority ≤ x.priority) = false := decide_eq_false (not_le.mpr h)
      rw [if_pos h]
      cases hr : refusal s y with
      | none => simp only [List.head?_cons, hd, Bool.false_eq_true, if_false, hr]
      | some o => simp only [List.head?_cons, hd, Bool.false_eq_true, if_false, hr]
    · have hd : decide (y.priority ≤ x.priority) = true := decide_eq_true (not_lt.mp h)
      rw [if_neg h]
      cases hr : refusal s x with
      | none => simp only [List.head?_cons, hd, if_true, hr]
      | some o => simp only [List.head?_cons, hd, if_true, hr]

/-- The state once the candidates that do not pass have ended. -/
def passedOver (r : Selection) (s : State) : State := toldAll r.ends (restocked r.stack r.queue s)

/-- The chosen announcement made current. -/
def settleOn (r : Selection) (s : State) : State :=
  match r.chosen with
  | none => passedOver r s
  | some (a, resumed) => makeCurrent a resumed (passedOver r s)

theorem settleOn_cons (r : Selection) (n : Notice) (stack queue : List Announcement) (s : State) :
    settleOn r (pushNotice n (restocked stack queue s)) = settleOn { r with ends := n :: r.ends } s := by
  have h : passedOver r (pushNotice n (restocked stack queue s)) = passedOver { r with ends := n :: r.ends } s := by
    unfold passedOver
    rw [← pushNotice_restocked]
    rfl
  unfold settleOn
  rw [h]

theorem select_eq (s : State) : ∀ (n : Nat) (t : State), t.rce = s.rce → t.asq.phrases = s.asq.phrases →
    select n t = settleOn (selected s n t.asq.stack t.asq.queue) t
  | 0, t, _, _ => rfl
  | n + 1, t, hr, hp => by
    rw [selected_succ, select]
    cases hc : candidate t.asq.stack t.asq.queue with
    | none => rfl
    | some k =>
      obtain ⟨a, resumed, stack, queue⟩ := k
      dsimp only
      have hrej : rejects (setAsq { t.asq with stack := stack, queue := queue } t) a = refusal s a := rejects_eq hr hp a
      rw [hrej]
      cases refusal s a with
      | none => rfl
      | some o =>
        dsimp only
        have ih := select_eq s n (pushNotice (.announceEnd a.id o) (restocked stack queue t))
          ((congrArg State.rce (pushNotice_frame _ _) :).trans hr)
          ((congrArg (fun z : State => z.asq.phrases) (pushNotice_frame _ _) :).trans hp)
        rw [pushNotice_asq, settleOn_cons] at ih
        exact ih

/-! ## The end of the current announcement (R118, R125) -/

/-- The current announcement has ended, its notice queued and ZOU told. -/
def ended (c : Announcement) (o : AnnOutcome) (s : State) : State :=
  duckChange none (pushNotice (.announceEnd c.id o) (vacated s.asq.stack s.asq.queue s))

theorem ended_parts (c : Announcement) (o : AnnOutcome) (s : State) :
    (ended c o s).asq = (vacated s.asq.stack s.asq.queue s).asq ∧
    (ended c o s).cth = (pushNotice (.announceEnd c.id o) s).cth ∧ (ended c o s).zou = (duckChange none s).zou ∧
    { ended c o s with cth := s.cth, asq := s.asq, zou := s.zou } = s := by
  have hcth : (pushNotice (.announceEnd c.id o) (vacated s.asq.stack s.asq.queue s)).cth = (pushNotice (.announceEnd c.id o) s).cth :=
    pushNotice_cth_congr _ rfl
  have hf := pushNotice_frame (.announceEnd c.id o) (vacated s.asq.stack s.asq.queue s)
  have hset := pushNotice_settings (.announceEnd c.id o) (vacated s.asq.stack s.asq.queue s)
  unfold ended
  generalize pushNotice (.announceEnd c.id o) (vacated s.asq.stack s.asq.queue s) = t at hcth hf hset
  have hzou : t.zou = s.zou := (congrArg State.zou hf :)
  refine ⟨(congrArg State.asq hf :), hcth, ?_, (congrArg (fun z : State => { z with cth := s.cth, asq := s.asq, zou := s.zou }) hf :)⟩
  unfold duckChange
  rw [hzou]
  rfl

theorem ended_settled (h : PortSettled s) (c : Announcement) (o : AnnOutcome) : PortSettled (ended c o s) :=
  settled_of_cmp h (congrArg State.cmp (ended_parts c o s).2.2.2 :)

/-- The state in which selection finds the one to follow. -/
theorem endCurrent_eq (h : PortSettled s) (c : Announcement) (o : AnnOutcome) :
    endCurrent c o s = settleOn (chosen s) (muted c (ended c o s)) := by
  obtain ⟨hasq, -, -, hf⟩ := ended_parts c o s
  obtain ⟨-, -, hm⟩ := muted_frame (ended_settled h c o) c
  have hmasq := muted_asq c (ended c o s)
  have hend : endCurrent c o s = selectNext (muted c (ended c o s)) := by
    unfold endCurrent
    dsimp only
    rw [muted_eq]
    rfl
  rw [hend]
  generalize ended c o s = w at hasq hf hm hmasq
  generalize muted c w = t at hm hmasq
  have hstack : t.asq.stack = s.asq.stack := by rw [hmasq, hasq]; rfl
  have hqueue : t.asq.queue = s.asq.queue := by rw [hmasq, hasq]; rfl
  have hphrases : t.asq.phrases = s.asq.phrases := by rw [hmasq, hasq]; rfl
  have hrce : t.rce = s.rce := (congrArg State.rce hm :).trans (congrArg State.rce hf :)
  rw [selectNext, hstack, hqueue, select_eq s _ t hrce hphrases, hstack, hqueue]
  rfl

/-- The state in which an announcement is chosen: nothing current, the candidates that did not pass gone. -/
structure Vacant (c : Announcement) (o : AnnOutcome) (u s t : State) : Prop where
  asq : t.asq = { s.asq with
    current := none, stack := (chosen s).stack, queue := (chosen s).queue, softCut := false, report := none }
  cth : t.cth = (toldAll (.announceEnd c.id o :: (chosen s).ends) s).cth
  zou : ducked none s t.zou
  vpl : t.vpl = u.vpl
  sees : Sees u t
  lmc : t.lmc = (withGroups (lampEnds c) s).lmc
  settled : PortSettled t
  frame : { t with cth := s.cth, asq := s.asq, zou := s.zou, vpl := s.vpl, ccc := s.ccc, cmp := s.cmp, lmc := s.lmc } = s

theorem passedOver_vacant (h : PortSettled s) (c : Announcement) (o : AnnOutcome) :
    Vacant c o (silencedState s (stopVoices (ended c o s))) s (passedOver (chosen s) (muted c (ended c o s))) := by
  obtain ⟨hasq, hcth, hzou, hf⟩ := ended_parts c o s
  obtain ⟨hmlmc, hmset, hm⟩ := muted_frame (ended_settled h c o) c
  have hmasq := muted_asq c (ended c o s)
  have hset : (ended c o s).cth.settings = s.cth.settings := by rw [hcth, pushNotice_settings]
  have hsees := muted_sees (s := s) (ended_settled h c o) c (by rw [hasq]; rfl) (by rw [hasq]; rfl) (congrArg State.scc hf :) hset
  have hmvpl : (muted c (ended c o s)).vpl = (silencedState s (stopVoices (ended c o s))).vpl := withGroups_vpl
  generalize silencedState s (stopVoices (ended c o s)) = u at hsees hmvpl ⊢
  have hducked := duckChange_ducked none s
  generalize ended c o s = w at hasq hcth hzou hf hmlmc hmset hm hmasq hsees hmvpl hset ⊢
  generalize muted c w = e at hmlmc hmset hm hmasq hsees hmvpl ⊢
  have htold := toldAll_frame (chosen s).ends (restocked (chosen s).stack (chosen s).queue e)
  have htset := toldAll_settings (chosen s).ends (restocked (chosen s).stack (chosen s).queue e)
  have hecth : (restocked (chosen s).stack (chosen s).queue e).cth = (pushNotice (.announceEnd c.id o) s).cth :=
    (congrArg State.cth hm :).trans hcth
  have htcth := toldAll_cth_congr (chosen s).ends hecth
  unfold passedOver
  generalize toldAll (chosen s).ends (restocked (chosen s).stack (chosen s).queue e) = t at htold htset htcth ⊢
  have hezou : t.zou = (duckChange none s).zou := ((congrArg State.zou htold :).trans (congrArg State.zou hm :)).trans hzou
  refine ⟨?_, htcth, hezou ▸ hducked, (congrArg State.vpl htold :).trans hmvpl, ?_,
    ((congrArg State.lmc htold :).trans hmlmc).trans (withGroups_lmc (congrArg State.lmc hf :)),
    settled_of_cmp hmset (congrArg State.cmp htold :), ?_⟩
  · refine (congrArg State.asq htold :).trans ?_
    simp only [restocked, hmasq, hasq, vacated]
  · obtain ⟨⟨h1, h2, h3, h4⟩, h5, h6, h7, h8⟩ := hsees
    exact ⟨⟨(congrArg (fun z : State => z.ccc.directory) htold :).trans h1, (congrArg (fun z : State => z.ccc.lines) htold :).trans h2,
      (congrArg (fun z : State => z.scc.languages) htold :).trans h3, (congrArg Settings.gap htset).trans h4⟩,
      (congrArg State.vpl htold :).trans h5, (congrArg (fun z : State => z.scc.seats) htold :).trans h6,
      (congrArg (fun z : State => z.asq.phrases) htold :).trans h7, (congrArg (fun z : State => z.asq.report) htold :).trans h8⟩
  · exact ((congrArg (fun z : State => { z with
        cth := s.cth, asq := s.asq, zou := s.zou, vpl := s.vpl, ccc := s.ccc, cmp := s.cmp, lmc := s.lmc }) htold :).trans
      (congrArg (fun z : State => { z with
        cth := s.cth, asq := s.asq, zou := s.zou, vpl := s.vpl, ccc := s.ccc, cmp := s.cmp, lmc := s.lmc }) hm :)).trans
      (congrArg (fun z : State => { z with vpl := s.vpl, ccc := s.ccc, cmp := s.cmp, lmc := s.lmc }) hf :)

theorem ducked_over {next : Option Announcement} {z : Zou} (hset : t.cth.settings = s.cth.settings) (h : ducked none s t.zou)
    (hz : ducked next t z) : ducked next s z := by
  obtain ⟨-, h2⟩ := h
  obtain ⟨h3, h4⟩ := hz
  refine ⟨?_, fun k => ?_⟩
  · exact (congrArg (fun q : Zou => { q with zones := s.zou.zones }) h3 :)
  · rw [h4, h2, hset]

theorem endCurrent_ended (h : PortSettled s) (c : Announcement) (o : AnnOutcome) :
    endedWith c o s.cth.replies s (endCurrent c o s) := by
  have hv := passedOver_vacant h c o
  obtain ⟨hasq, hcth, hzou, hf⟩ := ended_parts c o s
  have hsilenced := stopVoices_silenced (s := s) (t := ended c o s) (congrArg State.vpl hf :) (congrArg State.ccc hf :)
  rw [endCurrent_eq h]
  unfold settleOn
  generalize passedOver (chosen s) (muted c (ended c o s)) = e at hv ⊢
  generalize silencedState s (stopVoices (ended c o s)) = u at hv hsilenced
  have hreplies : { e.cth with replies := s.cth.replies } = e.cth := by
    rw [← toldAll_replies (.announceEnd c.id o :: (chosen s).ends) s, hv.cth]
  have hset : e.cth.settings = s.cth.settings := by rw [hv.cth, toldAll_settings]
  unfold endedWith
  cases hc : (chosen s).chosen with
  | none =>
    obtain ⟨hsum, hzones⟩ := hv.zou
    refine ⟨?_, ?_, hsum, hzones, ⟨u, hsilenced, hv.vpl, ?_⟩, hv.lmc, hv.frame⟩
    · rw [← hreplies, hv.cth]
      rfl
    · rw [hv.asq]
      rfl
    · rw [hv.asq]
  | some k =>
    obtain ⟨a, resumed⟩ := k
    dsimp only
    obtain ⟨hducked, hlmc, hframe, -⟩ := makeCurrent_frame hv.settled a resumed
    have hasq := makeCurrent_asq a resumed e
    have hrendered := makeCurrent_rendered a resumed e
    generalize makeCurrent a resumed e = t at hducked hlmc hframe hasq hrendered ⊢
    obtain ⟨hsum, hzones⟩ := ducked_over hset hv.zou hducked
    have htcth : t.cth = e.cth := (congrArg State.cth hframe :)
    refine ⟨?_, ?_, hsum, hzones, ⟨u, hsilenced, rendered_congr hv.sees rfl rfl hrendered⟩, hlmc.trans (withGroups_lmc hv.lmc), ?_⟩
    · rw [htcth, ← hreplies, hv.cth]
      rfl
    · rw [hasq, hv.asq]
      rfl
    · exact (congrArg (fun z : State => { z with
        cth := s.cth, asq := s.asq, zou := s.zou, vpl := s.vpl, ccc := s.ccc, cmp := s.cmp, lmc := s.lmc }) hframe :).trans hv.frame

end Sys2Proof.Proofs
end

section
/-! PROOFS. CUT, and the ends of an announcement by report and by hang (R120 to R123, R141). -/

namespace Sys2Proof.Proofs

open Sys2Proof Sys2Proof.Machine Sys2Proof.Laws

variable {s t u w e : State} {a c x y : Announcement} {bc : Bool} {v : VoiceNo} {r : RenderRec}

/-! ## The ends by report and by hang (R120, R123) -/

theorem hangDue_released {n k : Nat} (ht : a.source = .talk) (hh : a.hang = .released n k) (hk : k ≤ n) : hangDue a = true := by
  rw [hangDue, isTalk, ht, hh]
  exact decide_eq_true hk

theorem hangDue_not (h : a.source ≠ .talk) : hangDue a = false := by
  rw [hangDue, isTalk, beq_eq_false_iff_ne.mpr h, Bool.false_and]

theorem hangExpires_current (hc : s.asq.current = some c) (hd : hangDue c = true) : hangExpires s = endCurrent c .completed s := by
  rw [hangExpires, hc]
  exact if_pos hd

theorem hangExpires_queued {before after : List Announcement} (hc : ∀ c, s.asq.current = some c → hangDue c = false)
    (hq : s.asq.queue = before ++ a :: after) (hb : ∀ b ∈ before, hangDue b = false) (ha : hangDue a = true) :
    hangExpires s = pushNotice (.announceEnd a.id .lapsed) (queueing (before ++ after) s) := by
  have htake : takeFirst hangDue s.asq.queue = some (a, before ++ after) := by
    rw [hq]
    exact takeFirst_append before hb ha
  unfold hangExpires
  rw [htake]
  cases hcur : s.asq.current with
  | none => rfl
  | some c => exact if_neg (by rw [hc c hcur]; decide)

theorem exec_voicesFinished (h : s.power.running = true) : exec .voicesFinished s = .next (takeReport s) :=
  whenRunning_running h

theorem exec_talkHangExpiry (h : s.power.running = true) : exec .talkHangExpiry s = .next (hangExpires s) :=
  whenRunning_running h

/-- Settles O32: each way to the end of the current announcement is `endCurrent`, of which `endCurrent_ended` says all. -/
theorem announcementEndsAct : Obligations.AnnouncementEndsAct := by
  unfold Obligations.AnnouncementEndsAct
  refine ⟨fun s id played hr hreport => ⟨fun c hs hc hid htalk => ?_, fun hother => ?_⟩,
    fun s hr => ⟨fun c n k hs hc htalk hh hk => ?_, fun before a after n k hc hq hb htalk hh hk => ?_⟩⟩
  · refine ⟨_, exec_voicesFinished hr, ?_⟩
    have htake : takeReport s = endCurrent c (if s.asq.softCut then .cut else if played then .completed else .failed) s := by
      rw [takeReport, hreport, hc]
      exact if_pos ⟨hid, htalk⟩
    rw [htake]
    exact endCurrent_ended hs c _
  · refine (exec_voicesFinished hr).trans (congrArg _ ?_)
    rw [takeReport, hreport]
    dsimp only
    split
    · rfl
    · next c hc => exact if_neg fun h => hother c hc h.1
  · refine ⟨_, exec_talkHangExpiry hr, ?_⟩
    rw [hangExpires_current hc (hangDue_released htalk hh hk)]
    exact endCurrent_ended hs c _
  · refine (exec_talkHangExpiry hr).trans (congrArg _ ?_)
    exact hangExpires_queued (fun c hcur => hangDue_not (hc c hcur)) hq (fun b hmem => hangDue_not (hb b hmem))
      (hangDue_released htalk hh hk)

/-! ## A soft cut at VPL (R141) -/

/-- A voice under a soft cut: one in GAP finishes, a claim is dropped. -/
def softenedVoice (id : Nat) (x : Voice) : Voice :=
  if x.owner = some id ∧ x.state = .gap then Reset.voice
  else if x.state = .ending ∧ (∃ k, x.claim = some k ∧ k.owner = id) then { x with claim := none }
  else x

theorem softenedVoice_gap {id : Nat} {x : Voice} (h : (softenedVoice id x).state = .gap) : x.state = .gap := by
  unfold softenedVoice at h
  split at h
  · cases h
  · split at h
    · exact h
    · exact h

/-- What a soft cut changes beside voices: places in the fetch queue of those in GAP. -/
structure Softened (l : List VoiceNo) (s t : State) : Prop where
  others : ∀ w, w ∉ l → t.vpl.voices.get w = s.vpl.voices.get w
  record : { t.vpl with voices := s.vpl.voices } = s.vpl
  cache : { t.ccc with queue := s.ccc.queue } = s.ccc
  calm : (∀ e ∈ s.ccc.queue, ∀ v ∈ e.waiting, (s.vpl.voices.get v).state ≠ .gap) → t.ccc = s.ccc
  rest : { t with vpl := s.vpl, ccc := s.ccc } = s

theorem ceaseWait_none {v : VoiceNo} (h : ∀ e ∈ s.ccc.queue, v ∉ e.waiting) : (ceaseWait v s).ccc = s.ccc := by
  have hq : (ceaseWait v s).ccc.queue = s.ccc.queue := by
    unfold ceaseWait
    dsimp only
    have hall : ∀ e ∈ s.ccc.queue, (if e.waiting.contains v then
          let rest := e.waiting.filter (· != v)
          if rest.isEmpty && !isLocked s e.sector then none else some { e with waiting := rest }
        else some e) = some e := fun e he => if_neg (by rw [List.contains_iff_mem]; exact h e he)
    rw [List.filterMap_congr hall, List.filterMap_some]
  exact congrArg (fun q => ({ s.ccc with queue := q } : Ccc)) hq

theorem softCutVoice_gap {id : Nat} (h : (voiceOf s v).owner = some id ∧ (voiceOf s v).state = .gap) :
    softCutVoice id s v = idleVoice v s :=
  if_pos (by simp [h])

theorem softCutVoice_claim {id : Nat} {k : Claim} (h : (voiceOf s v).state = .ending) (hk : (voiceOf s v).claim = some k)
    (hid : k.owner = id) : softCutVoice id s v = setVoice v { voiceOf s v with claim := none } s := by
  unfold softCutVoice
  dsimp only
  rw [if_neg (by simp [h]), hk]
  exact if_pos ⟨h, hid⟩

theorem softCutVoice_other {id : Nat} (hgap : ¬((voiceOf s v).owner = some id ∧ (voiceOf s v).state = .gap))
    (h : ¬((voiceOf s v).state = .ending ∧ ∃ k, (voiceOf s v).claim = some k ∧ k.owner = id)) : softCutVoice id s v = s := by
  unfold softCutVoice
  dsimp only
  rw [if_neg (by simpa using hgap)]
  split
  · next k hk => exact if_neg fun ⟨hst, hid⟩ => h ⟨hst, k, hk, hid⟩
  · rfl

theorem softened_voice (id : Nat) (s : State) (v : VoiceNo) :
    Softened [v] s (softCutVoice id s v) ∧ (softCutVoice id s v).vpl.voices.get v = softenedVoice id (s.vpl.voices.get v) := by
  by_cases hgap : (voiceOf s v).owner = some id ∧ (voiceOf s v).state = .gap
  · have hv : softenedVoice id (s.vpl.voices.get v) = Reset.voice := if_pos hgap
    rw [hv, softCutVoice_gap hgap]
    refine ⟨⟨fun w hw => ?_, rfl, rfl, fun hq => ?_, rfl⟩, get_put_same _ _ _⟩
    · exact (near_setVoice v Reset.voice s).others w (by simpa using hw)
    · exact ceaseWait_none (s := setVoice v Reset.voice s) fun e he hm => hq e he v hm hgap.2
  · by_cases hclaim : (voiceOf s v).state = .ending ∧ ∃ k, (voiceOf s v).claim = some k ∧ k.owner = id
    · have hv : softenedVoice id (s.vpl.voices.get v) = { s.vpl.voices.get v with claim := none } :=
        (if_neg hgap).trans (if_pos hclaim)
      obtain ⟨hst, k, hk, hid⟩ := hclaim
      rw [hv, softCutVoice_claim hst hk hid]
      refine ⟨⟨fun w hw => ?_, rfl, rfl, fun _ => rfl, rfl⟩, get_put_same _ _ _⟩
      exact (near_setVoice v _ s).others w (by simpa using hw)
    · have hv : softenedVoice id (s.vpl.voices.get v) = s.vpl.voices.get v := (if_neg hgap).trans (if_neg hclaim)
      rw [hv, softCutVoice_other hgap hclaim]
      exact ⟨⟨fun _ _ => rfl, rfl, rfl, fun _ => rfl, rfl⟩, rfl⟩

theorem foldl_softCutVoice (id : Nat) : ∀ (l : List VoiceNo) (s : State), l.Nodup →
    Softened l s (l.foldl (softCutVoice id) s) ∧
    ∀ v ∈ l, (l.foldl (softCutVoice id) s).vpl.voices.get v = softenedVoice id (s.vpl.voices.get v)
  | [], s, _ => ⟨⟨fun _ _ => rfl, rfl, rfl, fun _ => rfl, rfl⟩, nofun⟩
  | v :: l, s, hnd => by
    obtain ⟨hv, hl⟩ := List.nodup_cons.mp hnd
    obtain ⟨hone, hvoice⟩ := softened_voice id s v
    obtain ⟨hrest, hvoices⟩ := foldl_softCutVoice id l (softCutVoice id s v) hl
    rw [List.foldl_cons]
    have hother {w : VoiceNo} (h : w ≠ v) := hone.others w (by rw [List.mem_singleton]; exact h)
    refine ⟨⟨fun w hw => ?_, ?_, ?_, fun hq => ?_, ?_⟩, fun w hw => ?_⟩
    · obtain ⟨hne, hw⟩ := not_or.mp (mt List.mem_cons.mpr hw)
      exact (hrest.others w hw).trans (hother hne)
    · exact (congrArg (fun p : Vpl => { p with voices := s.vpl.voices }) hrest.record :).trans hone.record
    · exact (congrArg (fun c : Ccc => { c with queue := s.ccc.queue }) hrest.cache :).trans hone.cache
    · refine (hrest.calm fun e he w hw hgap => ?_).trans (hone.calm hq)
      rw [hone.calm hq] at he
      by_cases h : w = v
      · subst h
        rw [hvoice] at hgap
        exact hq e he w hw (softenedVoice_gap hgap)
      · rw [hother h] at hgap
        exact hq e he w hw hgap
    · exact (congrArg (fun z : State => { z with vpl := s.vpl, ccc := s.ccc }) hrest.rest :).trans hone.rest
    · rcases List.mem_cons.mp hw with rfl | hw
      · exact (hrest.others w hv).trans hvoice
      · rw [hvoices w hw, hother fun e => hv (e ▸ hw)]

/-- A soft cut at VPL, with the report it may bring. -/
theorem softCutVoices_spec (s : State) :
    let t := softCutVoices s
    reported s t ∧ { t.asq with report := s.asq.report } = s.asq ∧
    (∀ r, s.vpl.rendering = some r → t.vpl.rendering = some { r with softCut := true } ∧ t.vpl.prev = s.vpl.prev ∧
      ∀ v, t.vpl.voices.get v = softenedVoice r.owner (s.vpl.voices.get v)) ∧
    { t.ccc with queue := s.ccc.queue } = s.ccc ∧
    ((∀ e ∈ s.ccc.queue, ∀ v ∈ e.waiting, (s.vpl.voices.get v).state ≠ .gap) → t.ccc = s.ccc) ∧
    { t with asq := s.asq, vpl := s.vpl, ccc := s.ccc } = s := by
  cases hr : s.vpl.rendering with
  | none =>
    have ht : softCutVoices s = s := by rw [softCutVoices, hr]
    rw [ht]
    exact ⟨(reported_none hr).mpr rfl, rfl, nofun, rfl, fun _ => rfl, rfl⟩
  | some r =>
    obtain ⟨hsoft, hvoices⟩ := foldl_softCutVoice r.owner allVoices (setRendering (some { r with softCut := true }) s)
      (List.nodup_finRange 8)
    have ht : softCutVoices s = reportIfDone (allVoices.foldl (softCutVoice r.owner) (setRendering (some { r with softCut := true }) s)) := by
      rw [softCutVoices, hr]
    rw [ht]
    generalize allVoices.foldl (softCutVoice r.owner) (setRendering (some { r with softCut := true }) s) = u at hsoft hvoices
    obtain ⟨he, hrep⟩ := reportIfDone_eq u
    have huasq : u.asq = s.asq := (congrArg State.asq hsoft.rest :)
    generalize reportIfDone u = t at he hrep
    have hvpl : t.vpl = u.vpl := (congrArg State.vpl he :)
    have hccc : t.ccc = u.ccc := (congrArg State.ccc he :)
    refine ⟨?_, ?_, ?_, ?_, ?_, ?_⟩
    · unfold reported at hrep ⊢
      rw [← huasq]
      exact hrep
    · have hasq : t.asq = { u.asq with report := t.asq.report } := (congrArg State.asq he :)
      rw [hasq, huasq]
    · rintro r' hr'
      cases hr'
      rw [hvpl]
      exact ⟨(congrArg Vpl.rendering hsoft.record :), (congrArg Vpl.prev hsoft.record :), fun v => hvoices v (List.mem_finRange v)⟩
    · rw [hccc]
      exact hsoft.cache
    · rw [hccc]
      exact hsoft.calm
    · exact (congrArg (fun z : State => { z with asq := s.asq, vpl := s.vpl, ccc := s.ccc }) he :).trans
        (congrArg (fun z : State => { z with asq := s.asq, vpl := s.vpl }) hsoft.rest :)

/-! ## CUT by where the announcement stands (R121, R122) -/

/-- The announcement that an id names. -/
def named (id : Nat) (a : Announcement) : Bool := a.id == id

theorem cut_queued {id : Nat} (hard : Bool) (h : s.asq.queue.any (named id) = true) : cut id hard s =
    (pushNotice (.announceEnd id .cut) (queueing (s.asq.queue.eraseP (named id)) s), .done) := by
  obtain ⟨a, htake, ha, -⟩ := takeFirst_some h
  unfold cut
  rw [show takeFirst (fun a => a.id == id) s.asq.queue = _ from htake, ← beq_iff_eq.mp ha]
  rfl

theorem cut_stacked {id : Nat} (hard : Bool) (hq : s.asq.queue.any (named id) = false) (h : s.asq.stack.any (named id) = true) :
    cut id hard s =
      (pushNotice (.announceEnd id .cut) { s with asq := { s.asq with stack := s.asq.stack.eraseP (named id) } }, .done) := by
  obtain ⟨a, htake, ha, -⟩ := takeFirst_some h
  unfold cut
  rw [show takeFirst (fun a => a.id == id) s.asq.queue = _ from takeFirst_none hq,
    show takeFirst (fun a => a.id == id) s.asq.stack = _ from htake, ← beq_iff_eq.mp ha]
  rfl

theorem cut_current {id : Nat} (hard : Bool) (hq : s.asq.queue.any (named id) = false) (hst : s.asq.stack.any (named id) = false)
    (hc : s.asq.current = some c) : cut id hard s =
      if c.id ≠ id then (s, .notFound)
      else if c.source = .talk || hard then (endCurrent c .cut s, .done)
      else if s.asq.softCut then (s, .done)
      else (softCutVoices (setAsq { s.asq with softCut := true } s), .done) := by
  unfold cut
  rw [show takeFirst (fun a => a.id == id) s.asq.queue = _ from takeFirst_none hq,
    show takeFirst (fun a => a.id == id) s.asq.stack = _ from takeFirst_none hst, hc]

theorem cut_missing {id : Nat} (hard : Bool) (h : ∀ a ∈ liveAnnouncements s, a.id ≠ id) : cut id hard s = (s, .notFound) := by
  have hnone (l : List Announcement) (hl : ∀ a ∈ l, a ∈ liveAnnouncements s) : l.any (named id) = false :=
    List.any_eq_false.mpr fun a ha => by
      rw [named, beq_iff_eq]
      exact h a (hl a ha)
  have hq := hnone s.asq.queue fun a ha => List.mem_append_right _ ha
  have hst := hnone s.asq.stack fun a ha => List.mem_append_left _ (List.mem_append_right _ ha)
  cases hc : s.asq.current with
  | none =>
    unfold cut
    rw [show takeFirst (fun a => a.id == id) s.asq.queue = _ from takeFirst_none hq,
      show takeFirst (fun a => a.id == id) s.asq.stack = _ from takeFirst_none hst, hc]
  | some c =>
    rw [cut_current hard hq hst hc]
    refine if_pos (h c ?_)
    rw [liveAnnouncements, hc]
    simp

theorem exec_cut {hard : Bool} {id : Byte} {res : Result} (ht : takes bc s) (h : cut id.toNat hard s = (t, res)) :
    exec (if hard then .cutHard bc id else .cutSoft bc id) s = .next (withReply bc 0x83 [res.code] t) := by
  have hop : cutOp id hard s = (t, .reply [res.code]) := by
    rw [cutOp, h]
    rfl
  cases hard with
  | true => exact action_takes ht hop
  | false => exact action_takes ht hop

theorem endedWith_reply {o : AnnOutcome} {kind : Byte} {p : List Byte} (h : endedWith c o s.cth.replies s t) :
    endedWith c o (withReply bc kind p s).cth.replies s (withReply bc kind p t) := by
  obtain ⟨hcth, hrest⟩ := h
  cases bc with
  | true => exact ⟨hcth, hrest⟩
  | false =>
    refine ⟨?_, hrest⟩
    simp only [withReply, hcth]
    rfl

/-- The state of a soft cut: the mark set and VPL told. -/
theorem softCut_frame (ht : t = softCutVoices (setAsq { s.asq with softCut := true } s)) :
    { t.asq with report := s.asq.report } = { s.asq with softCut := true } ∧ t.cth = s.cth ∧ reported s t ∧
    (∀ r, s.vpl.rendering = some r → t.vpl.rendering = some { r with softCut := true } ∧ t.vpl.prev = s.vpl.prev ∧
      ∀ v, t.vpl.voices.get v = softenedVoice r.owner (s.vpl.voices.get v)) ∧
    { t.ccc with queue := s.ccc.queue } = s.ccc ∧
    ((∀ e ∈ s.ccc.queue, ∀ v ∈ e.waiting, (s.vpl.voices.get v).state ≠ .gap) → t.ccc = s.ccc) ∧
    { t with asq := s.asq, vpl := s.vpl, ccc := s.ccc } = s := by
  obtain ⟨hrep, hasq, hvpl, hcache, hcalm, hf⟩ := softCutVoices_spec (setAsq { s.asq with softCut := true } s)
  rw [← ht] at hrep hasq hvpl hcache hcalm hf
  exact ⟨hasq, (congrArg State.cth hf :), hrep, hvpl, hcache, hcalm, (congrArg (fun z : State => { z with asq := s.asq }) hf :)⟩

/-- Settles O31: `cut` by the first place that holds the announcement, and `endCurrent` or the soft cut at VPL where it is
current. -/
theorem cutActs : Obligations.CutActs := by
  unfold Obligations.CutActs
  intro bc hard id s ht i n
  refine ⟨fun h => exec_cut ht (cut_missing hard h), fun h => exec_cut ht (cut_queued hard h),
    fun hq h => exec_cut ht (cut_stacked hard hq h), fun a hq hst hc hid => ⟨fun hs hends => ?_, fun hh htalk hcut => ?_, fun hh htalk hcut => ?_⟩⟩
  · have hcutc := cut_current hard hq hst hc
    rw [if_neg (not_not.mpr hid), if_pos (by simpa using hends.symm)] at hcutc
    exact ⟨_, exec_cut ht hcutc, endedWith_reply (endCurrent_ended hs a .cut)⟩
  · have hcutc := cut_current hard hq hst hc
    rw [if_neg (not_not.mpr hid), if_neg (by simp [hh, htalk]), if_pos hcut] at hcutc
    exact exec_cut ht hcutc
  · have hcutc := cut_current hard hq hst hc
    rw [if_neg (not_not.mpr hid), if_neg (by simp [hh, htalk]), if_neg (by rw [hcut]; decide)] at hcutc
    refine ⟨_, exec_cut ht hcutc, ?_⟩
    generalize hu : softCutVoices (setAsq { s.asq with softCut := true } s) = u
    obtain ⟨hasq, hcth, hrep, hvpl, hcache, hcalm, hf⟩ := softCut_frame hu.symm
    have hrasq : (withReply bc 0x83 [0] u).asq = u.asq := withReply_asq _ _ _ _
    have hrvpl : (withReply bc 0x83 [0] u).vpl = u.vpl := withReply_vpl _ _ _ _
    have hrf := withReply_frame bc 0x83 [0] u
    have hrcth : (withReply bc 0x83 [0] u).cth = (withReply bc 0x83 [0] s).cth := withReply_cth hcth
    rw [show Result.done.code = 0 from rfl]
    generalize withReply bc 0x83 [0] u = t at hrasq hrvpl hrf hrcth
    have hrccc : t.ccc = u.ccc := (congrArg State.ccc hrf :)
    refine ⟨?_, hrcth, ?_, ?_, ?_, ?_, ?_⟩
    · rw [hrasq]
      exact hasq
    · unfold reported at hrep ⊢
      rw [hrasq, hrvpl]
      exact hrep
    · rw [hrvpl]
      exact hvpl
    · rw [hrccc]
      exact hcache
    · rw [hrccc]
      exact hcalm
    · exact (congrArg (fun z : State => { z with cth := s.cth, asq := s.asq, vpl := s.vpl, ccc := s.ccc }) hrf :).trans
        (congrArg (fun z : State => { z with cth := s.cth }) hf :)

end Sys2Proof.Proofs
end

section
/-! PROOFS. The announcements that no request on the trunk makes: talk, chime, alarm and cues (R103, R112, R113, R123). -/

namespace Sys2Proof.Proofs

open Sys2Proof Sys2Proof.Machine Sys2Proof.Laws

variable {s t u : State} {a c x : Announcement}

/-! ## Requests of the chime, the alarm and cues (R112) -/

theorem takeInternal_refused {p : Fin 128} (hx : x.source = .phrase p) (h : s.asq.phrases.get p = []) :
    takeInternal x s = pushNotice (.announceEnd x.id .refused) (issued x.id s) :=
  if_pos (by rw [itemsOf_phrase hx, h]; rfl)

theorem takeInternal_placed (hs : PortSettled s) {p : Fin 128} (hx : x.source = .phrase p) (h : s.asq.phrases.get p ≠ []) :
    placed x s (takeInternal x s) := by
  have hne : takeInternal x s = (placeNew x s).1 := if_neg (by rw [itemsOf_phrase hx, List.isEmpty_iff]; exact h)
  rw [hne]
  exact placeNew_placed hs x

/-- What a request with a phrase comes to. -/
theorem takeInternal_requested (hs : PortSettled s) (p : Fin 128) (priority : Fin 4) (mask : ZoneMask) (rendering : Rendering)
    (langs : List Lang) (stale : Option Nat) (origin : Origin) :
    let x := requestRecord s (.phrase p) priority mask rendering langs stale origin
    let t := takeInternal (newAnnouncement s p priority mask rendering langs stale origin) s
    (s.asq.phrases.get p = [] → t = pushNotice (.announceEnd (nextId s) .refused) (issued (nextId s) s)) ∧
    (s.asq.phrases.get p ≠ [] → placed x s t) := by
  intro x t
  have hid : x.id = nextId s := requestRecord_id ..
  have hsource : x.source = .phrase p := by
    simp only [x, requestRecord]
  have ht : t = takeInternal x s := by
    simp only [t, x, newAnnouncement_eq]
  clear_value x t
  subst ht
  refine ⟨fun h => ?_, takeInternal_placed hs hsource⟩
  rw [takeInternal_refused hsource h, hid]

theorem originLive_iff (s : State) (o : Origin) : originLive s o = true ↔ ∃ a ∈ liveAnnouncements s, a.origin = o := by
  rw [originLive, List.any_eq_true]
  exact exists_congr fun a => and_congr_right' beq_iff_eq

theorem requestChime_dropped (h : s.cth.settings.chime = none ∨ ∃ a ∈ liveAnnouncements s, a.origin = .chime) : requestChime s = s := by
  unfold requestChime
  split
  · rfl
  · next p hp =>
    rcases h with h | h
    · rw [h] at hp
      cases hp
    · exact if_pos ((originLive_iff s .chime).mpr h)

theorem requestAlarm_dropped (h : s.cth.settings.alarm = none ∨ ∃ a ∈ liveAnnouncements s, a.origin = .alarm) : requestAlarm s = s := by
  unfold requestAlarm
  split
  · rfl
  · next p hp =>
    rcases h with h | h
    · rw [h] at hp
      cases hp
    · exact if_pos ((originLive_iff s .alarm).mpr h)

theorem originLive_none {o : Origin} (h : ∀ a ∈ liveAnnouncements s, a.origin ≠ o) : ¬originLive s o = true := fun hl => by
  obtain ⟨a, ha, ho⟩ := (originLive_iff s o).mp hl
  exact h a ha ho

/-! ## The talk flag (R113, R123) -/

/-- The hang of a TALK changed. -/
def rehung (f : Hang → Hang) (a : Announcement) : Announcement := if a.source = .talk then { a with hang := f a.hang } else a

theorem rehung_other (f : Hang → Hang) (h : a.source ≠ .talk) : rehung f a = a := if_neg h

theorem map_rehung {q : List Announcement} (f : Hang → Hang) (h : ∀ b ∈ q, b.source ≠ .talk) : q.map (rehung f) = q :=
  (List.map_congr_left fun b hb => rehung_other f (h b hb)).trans (List.map_id q)

theorem setHang_eq (f : Hang → Hang) (s : State) : setHang f s =
    { s with asq := { s.asq with current := s.asq.current.map (rehung f), queue := s.asq.queue.map (rehung f) } } := by
  have h : (fun a : Announcement => if isTalk a then { a with hang := f a.hang } else a) = rehung f := by
    funext a
    exact if_congr beq_iff_eq rfl rfl
  unfold setHang
  dsimp only
  rw [h]
  rfl

/-- The hang as the fall of the flag sets it. -/
def fallenHang (n : Nat) : Hang → Hang
  | .pressed => .released 0 n
  | .released m k => .released m k

theorem talkFall_eq (s : State) : talkFall s = hangExpires (setHang (fallenHang s.cth.settings.hang) s) := by
  have h : (fun h : Hang => match h with
      | .pressed => .released 0 s.cth.settings.hang
      | .released n k => .released n k) = fallenHang s.cth.settings.hang := by
    funext h
    cases h <;> rfl
  exact congrArg (fun f => hangExpires (setHang f s)) h

/-- A hang that is not over after a fall. -/
theorem hangDue_fallen {n : Nat} (h : a.source = .talk → match a.hang with | .pressed => 0 < n | .released m k => m < k) :
    hangDue (rehung (fallenHang n) a) = false := by
  by_cases ht : a.source = .talk
  · have hh := h ht
    rw [rehung, if_pos ht, hangDue, Bool.and_eq_false_iff]
    refine .inr ?_
    cases hk : a.hang with
    | pressed =>
      rw [hk] at hh
      exact decide_eq_false (by dsimp only at hh; omega)
    | released m k =>
      rw [hk] at hh
      exact decide_eq_false (by dsimp only at hh; omega)
  · rw [rehung_other _ ht]
    exact hangDue_not ht

theorem hangExpires_none (hc : ∀ c, s.asq.current = some c → hangDue c = false) (hq : ∀ b ∈ s.asq.queue, hangDue b = false) :
    hangExpires s = s := by
  have htake : takeFirst hangDue s.asq.queue = none := takeFirst_none (List.any_eq_false.mpr fun b hb => by rw [hq b hb]; decide)
  unfold hangExpires
  rw [htake]
  split
  · next c hcur => exact if_neg (by rw [hc c hcur]; decide)
  · rfl

/-- The end of a current announcement looks at its id, its mask and its priority. -/
theorem endCurrent_congr {o : AnnOutcome} (hid : a.id = c.id) (hm : a.mask = c.mask) (hp : a.priority = c.priority)
    (hs : { t with asq := { t.asq with current := none } } = { s with asq := { s.asq with current := none } }) :
    endCurrent a o t = endCurrent c o s := by
  have hlamp : lampAnnounceEnd a = lampAnnounceEnd c := by
    funext s
    rw [lampAnnounceEnd, lampAnnounceEnd, hm, hp]
  have hstart : setAsq { t.asq with current := none, softCut := false, report := none } t =
      setAsq { s.asq with current := none, softCut := false, report := none } s :=
    (congrArg (fun z : State => ({ z with asq := { z.asq with softCut := false, report := none } } : State)) hs :)
  unfold endCurrent endNotice
  rw [hlamp, hid, hstart]

theorem fallen_current (hh : s.cth.settings.hang = 0) (hc : s.asq.current = some a) (ht : a.source = .talk) (hp : a.hang = .pressed)
    (hq : ∀ b ∈ s.asq.queue, b.source ≠ .talk) : talkFall s = endCurrent a .completed s := by
  rw [talkFall_eq, hh, setHang_eq, map_rehung _ hq]
  have hrehung : rehung (fallenHang 0) a = { a with hang := .released 0 0 } := by
    rw [rehung, if_pos ht, hp]
    rfl
  have hcur : s.asq.current.map (rehung (fallenHang 0)) = some { a with hang := .released 0 0 } := by
    rw [hc, Option.map_some, hrehung]
  rw [hcur, hangExpires_current rfl (hangDue_released (a := { a with hang := .released 0 0 }) ht rfl (Nat.le_refl 0))]
  exact endCurrent_congr rfl rfl rfl rfl

theorem fallen_queued {before after : List Announcement} (hh : s.cth.settings.hang = 0)
    (hc : ∀ c, s.asq.current = some c → c.source ≠ .talk) (hq : s.asq.queue = before ++ a :: after) (ht : a.source = .talk)
    (hp : a.hang = .pressed) (ho : ∀ b ∈ before ++ after, b.source ≠ .talk) :
    talkFall s = pushNotice (.announceEnd a.id .lapsed) (queueing (before ++ after) s) := by
  have hrehung : rehung (fallenHang 0) a = { a with hang := .released 0 0 } := by
    rw [rehung, if_pos ht, hp]
    rfl
  have hcur : s.asq.current.map (rehung (fallenHang 0)) = s.asq.current := by
    cases hcur : s.asq.current with
    | none => rfl
    | some c => rw [Option.map_some, rehung_other _ (hc c hcur)]
  have hqueue : s.asq.queue.map (rehung (fallenHang 0)) = before ++ { a with hang := .released 0 0 } :: after := by
    rw [hq, List.map_append, List.map_cons, map_rehung _ fun b hb => ho b (List.mem_append_left _ hb),
      map_rehung _ fun b hb => ho b (List.mem_append_right _ hb), hrehung]
  rw [talkFall_eq, hh, setHang_eq, hcur, hqueue]
  exact hangExpires_queued (a := { a with hang := .released 0 0 }) (fun c hcur => hangDue_not (hc c hcur)) rfl (fun b hb => hangDue_not (ho b (List.mem_append_left _ hb)))
    (hangDue_released (a := { a with hang := .released 0 0 }) ht rfl (Nat.le_refl 0))

theorem fallen_waits (h : ∀ a, (s.asq.current = some a ∨ a ∈ s.asq.queue) → a.source = .talk →
    match a.hang with | .pressed => 0 < s.cth.settings.hang | .released n k => n < k) :
    talkFall s = setHang (fallenHang s.cth.settings.hang) s := by
  rw [talkFall_eq, setHang_eq]
  refine hangExpires_none (fun c hc => ?_) fun b hb => ?_
  · obtain ⟨a, ha, rfl⟩ := Option.map_eq_some_iff.mp hc
    exact hangDue_fallen (h a (.inl ha))
  · obtain ⟨a, ha, rfl⟩ := List.mem_map.mp hb
    exact hangDue_fallen (h a (.inr ha))

/-- Settles O30: each request makes its record, which is placed (`placeNew_placed`), is refused with an empty phrase, or is dropped;
a rise and a fall change the hang, and a hang of 0 is over at once. -/
theorem internalAnnouncementsPlaced : Obligations.InternalAnnouncementsPlaced := by
  unfold Obligations.InternalAnnouncementsPlaced
  intro s hs onTalk fallen record requested
  have honTalk (f : Hang → Hang) : setHang f s = onTalk f := setHang_eq f s
  have hfallen : fallenHang s.cth.settings.hang = fallen := by
    funext h
    cases h <;> rfl
  refine ⟨fun hlive => ?_, fun hnone => ?_, fun h => ?_, fun a hh hc ht hp hq => ?_, fun before a after hh hc hq ht hp ho =>
    fallen_queued hh hc hq ht hp ho, requestChime_dropped, fun p hp hno => ?_, requestAlarm_dropped, fun p hp hno => ?_,
    fun i latest p pr m r ls => takeInternal_requested hs p pr m r ls latest (.cue i)⟩
  · rw [talkRise, if_pos ((talkLive_iff s).mpr hlive)]
    exact honTalk _
  · rw [talkRise_none hnone]
    exact placeNew_placed hs _
  · rw [fallen_waits h, honTalk, hfallen]
  · rw [fallen_current hh hc ht hp hq]
    exact endCurrent_ended hs a .completed
  · have hchime : requestChime s = takeInternal (newAnnouncement s p 0 0xF s.cth.settings.chimeRendering [] none .chime) s := by
      rw [requestChime, hp]
      exact if_neg (originLive_none hno)
    rw [hchime]
    exact takeInternal_requested hs p 0 0xF s.cth.settings.chimeRendering [] none .chime
  · have halarm : requestAlarm s = takeInternal (newAnnouncement s p 3 0xF .both [] none .alarm) s := by
      rw [requestAlarm, hp]
      exact if_neg (originLive_none hno)
    rw [halarm]
    exact takeInternal_requested hs p 3 0xF .both [] none .alarm

end Sys2Proof.Proofs
end

section
/-! PROOFS. Nothing of a slot end looks at what was noted of trunk-out (R15, notes/assumptions/10.md), nor at the
receiver once TIF has its record of the period: every operation of the blocks gives the same on a state with other marks.
A lemma `f_posted` says so of `f`, in the order of the model's files; one about what only reads the state holds by
unfolding. -/

namespace Sys2Proof.Proofs

open Sys2Proof Sys2Proof.Machine Sys2Proof.Laws

/-- What nothing at a slot end looks at once TIF has its record of the period: how the receiver searches, and what is
noted of trunk-out and of a shortened period. -/
structure Marks where
  receiver : Receiver
  trunkOut : TrunkWords
  short : Option ShortFrames

/-- The state with other marks. -/
def posted (io : Marks) (s : State) : State :=
  { s with tif := { s.tif with receiver := io.receiver },
           out := { s.out with trunkOut := io.trunkOut, short := io.short } }

variable {io : Marks} {s : State}

@[simp] theorem posted_pending : (posted io s).pending = s.pending := (rfl)
@[simp] theorem posted_power : (posted io s).power = s.power := (rfl)
@[simp] theorem posted_cth : (posted io s).cth = s.cth := (rfl)
@[simp] theorem posted_scc : (posted io s).scc = s.scc := (rfl)
@[simp] theorem posted_hmx : (posted io s).hmx = s.hmx := (rfl)
@[simp] theorem posted_zou : (posted io s).zou = s.zou := (rfl)
@[simp] theorem posted_rce : (posted io s).rce = s.rce := (rfl)
@[simp] theorem posted_asq : (posted io s).asq = s.asq := (rfl)
@[simp] theorem posted_vpl : (posted io s).vpl = s.vpl := (rfl)
@[simp] theorem posted_ccc : (posted io s).ccc = s.ccc := (rfl)
@[simp] theorem posted_cmp : (posted io s).cmp = s.cmp := (rfl)
@[simp] theorem posted_lmc : (posted io s).lmc = s.lmc := (rfl)
@[simp] theorem posted_dev : (posted io s).dev = s.dev := (rfl)
@[simp] theorem posted_tif_trunk : (posted io s).tif.trunk = s.tif.trunk := (rfl)
@[simp] theorem posted_tif_counter : (posted io s).tif.counter = s.tif.counter := (rfl)
@[simp] theorem posted_tif_validRun : (posted io s).tif.validRun = s.tif.validRun := (rfl)
@[simp] theorem posted_tif_invalidRun : (posted io s).tif.invalidRun = s.tif.invalidRun := (rfl)
@[simp] theorem posted_tif_drive : (posted io s).tif.drive = s.tif.drive := (rfl)
@[simp] theorem posted_tif_live : (posted io s).tif.live = s.tif.live := (rfl)
@[simp] theorem posted_tif_last : (posted io s).tif.last = s.tif.last := (rfl)
@[simp] theorem posted_tif_delivered : (posted io s).tif.delivered = s.tif.delivered := (rfl)
@[simp] theorem posted_tif_node : (posted io s).tif.node = s.tif.node := (rfl)
@[simp] theorem posted_tif_downstream : (posted io s).tif.downstream = s.tif.downstream := (rfl)
@[simp] theorem posted_tif_periodStarts : (posted io s).tif.periodStarts = s.tif.periodStarts := (rfl)
@[simp] theorem posted_tif_tickFor : (posted io s).tif.tickFor = s.tif.tickFor := (rfl)

/-- A record update of a posted state is the posted update: the marks move outward. -/
@[simp] theorem posted_mk (a b d e f g h i j k l m n) :
    State.mk a b (posted io s).tif d e f g h i j k l m n (posted io s).out =
    posted io (State.mk a b s.tif d e f g h i j k l m n s.out) := (rfl)

@[simp] theorem posted_mk_tif (a b x c y z v w q r t u h n o d e f g i j k l m p) :
    State.mk a b (Tif.mk x (posted io s).tif.receiver c y z v w q r t u h n) o d e f g i j k l m p (posted io s).out =
      posted io (State.mk a b (Tif.mk x s.tif.receiver c y z v w q r t u h n) o d e f g i j k l m p s.out) := (rfl)

@[simp] theorem posted_ite {c : Prop} [Decidable c] {a b : State} :
    (if c then posted io a else posted io b) = posted io (if c then a else b) := (apply_ite (posted io) c a b).symm

@[simp] theorem posted_foldl {α : Type} {f : State → α → State} (hf : ∀ x s, f (posted io s) x = posted io (f s x)) :
    ∀ (l : List α) (s : State), l.foldl f (posted io s) = posted io (l.foldl f s)
  | [], _ => rfl
  | x :: l, s => by rw [List.foldl_cons, hf, posted_foldl hf l, List.foldl_cons]

/-! ## Requests and notices -/

@[simp] theorem pushNotice_posted (n : Notice) : pushNotice n (posted io s) = posted io (pushNotice n s) := by
  simp [pushNotice]

@[simp] theorem addPlace_posted (p : Place) : addPlace p (posted io s) = posted io (addPlace p s) := (rfl)
@[simp] theorem discarded_posted (bc : Bool) : discarded bc (posted io s) = discarded bc s := (rfl)

@[simp] theorem takeRequest_posted {bc : Bool} {kind : Byte} {h : State → State × Answer}
    (hh : h (posted io s) = (posted io (h s).1, (h s).2)) :
    takeRequest bc kind h (posted io s) = posted io (takeRequest bc kind h s) := by
  unfold takeRequest; simp [hh]

@[simp] theorem deferredReply_posted (payload : List Byte) :
    deferredReply payload (posted io s) = posted io (deferredReply payload s) := (rfl)

/-! ## Lamp groups and ignition -/

@[simp] theorem groupOf_posted (g : GroupNo) : groupOf (posted io s) g = groupOf s g := (rfl)
@[simp] theorem setGroup_posted (g : GroupNo) (x : Group) :
    setGroup g x (posted io s) = posted io (setGroup g x s) := (rfl)
@[simp] theorem ignitable_posted : ignitable (posted io s) = ignitable s := (rfl)
@[simp] theorem dequeueIgnition_posted (g : GroupNo) :
    dequeueIgnition g (posted io s) = posted io (dequeueIgnition g s) := (rfl)

@[simp] theorem stopGroup_posted (g : GroupNo) : stopGroup g (posted io s) = posted io (stopGroup g s) := by
  simp [stopGroup]

@[simp] theorem startGroup_posted (g : GroupNo) : startGroup g (posted io s) = posted io (startGroup g s) := by
  simp [startGroup]

@[simp] theorem modeEffect_posted (g : GroupNo) (before : Mode) :
    modeEffect g before (posted io s) = posted io (modeEffect g before s) := by
  simp [modeEffect]

@[simp] theorem writePattern_posted (g : GroupNo) (p : Pattern) :
    writePattern g p (posted io s) = posted io (writePattern g p s) := by
  simp [writePattern]

@[simp] theorem writePending_posted (g : GroupNo) (onLen offLen : Nat) :
    writePending g onLen offLen (posted io s) = posted io (writePending g onLen offLen s) := by
  simp [writePending]

@[simp] theorem forGroups_posted {q : Group → Bool} {f : GroupNo → State → State}
    (hf : ∀ g s, f g (posted io s) = posted io (f g s)) :
    forGroups q f (posted io s) = posted io (forGroups q f s) := by
  simp [forGroups, hf]

@[simp] theorem lampStopRequest_posted : lampStopRequest (posted io s) = posted io (lampStopRequest s) := by
  simp [lampStopRequest]

@[simp] theorem lampStopEnd_posted : lampStopEnd (posted io s) = posted io (lampStopEnd s) := by simp [lampStopEnd]

@[simp] theorem lampAnnounceStart_posted (a : Announcement) :
    lampAnnounceStart a (posted io s) = posted io (lampAnnounceStart a s) := by
  simp [lampAnnounceStart]

@[simp] theorem lampAnnounceEnd_posted (a : Announcement) :
    lampAnnounceEnd a (posted io s) = posted io (lampAnnounceEnd a s) := by
  simp [lampAnnounceEnd]

@[simp] theorem lampAlarmStart_posted : lampAlarmStart (posted io s) = posted io (lampAlarmStart s) := by
  simp [lampAlarmStart]

@[simp] theorem lampAlarmEnd_posted : lampAlarmEnd (posted io s) = posted io (lampAlarmEnd s) := by simp [lampAlarmEnd]

@[simp] theorem lampChain_posted (k : GroupNo) : lampChain k (posted io s) = posted io (lampChain k s) := by
  simp [lampChain]

@[simp] theorem loadPreset_posted (g : GroupNo) (p : Fin 32) :
    loadPreset g p (posted io s) = posted io (loadPreset g p s) := by
  simp [loadPreset]

@[simp] theorem applySetting_posted (sc : Vector SceneSetting 24) (g : GroupNo) :
    applySetting sc (posted io s) g = posted io (applySetting sc s g) := by
  unfold applySetting; simp; (repeat' split) <;> simp

@[simp] theorem applyScene_posted (n : Fin 16) : applyScene n (posted io s) = posted io (applyScene n s) := by
  simp [applyScene]

@[simp] theorem budgetLeft_posted : budgetLeft (posted io s) = budgetLeft s := (rfl)
@[simp] theorem recordGrant_posted : recordGrant (posted io s) = posted io (recordGrant s) := (rfl)
@[simp] theorem queueIgnition_posted (g : GroupNo) :
    queueIgnition g (posted io s) = posted io (queueIgnition g s) := (rfl)

@[simp] theorem serveIgnition_posted (n : Nat) :
    serveIgnition n (posted io s) = (posted io (serveIgnition n s).1, (serveIgnition n s).2) := by
  induction n generalizing s with
  | zero => rfl
  | succ n ih =>
    unfold serveIgnition; simp; split
    · rfl
    · split <;> simp [ih]

@[simp] theorem advanceGroup_posted (g : GroupNo) : advanceGroup (posted io s) g = posted io (advanceGroup s g) := by
  simp [advanceGroup]

@[simp] theorem advances_posted : advances (posted io s) = advances s := (rfl)
@[simp] theorem requestOrder_posted : requestOrder (posted io s) = requestOrder s := (rfl)
@[simp] theorem driveRow_posted : driveRow (posted io s) = posted io (driveRow s) := (rfl)

@[simp] theorem advanceScan_posted : advanceScan (posted io s) = posted io (advanceScan s) := by simp [advanceScan]

@[simp] theorem advanceFrame_posted : advanceFrame (posted io s) = posted io (advanceFrame s) := by
  simp [advanceFrame]; split <;> simp

@[simp] theorem boundary_posted : boundary (posted io s) = posted io (boundary s) := by simp [boundary]

@[simp] theorem moveSupply_posted (x : Supply) : moveSupply x (posted io s) = posted io (moveSupply x s) := by
  simp [moveSupply]

@[simp] theorem rampUp_posted : rampUp (posted io s) = posted io (rampUp s) := by simp [rampUp]

@[simp] theorem darkenAll_posted : darkenAll (posted io s) = posted io (darkenAll s) := (rfl)
@[simp] theorem overrideLevels_posted : overrideLevels (posted io s) = posted io (overrideLevels s) := (rfl)

@[simp] theorem queueLit_posted (p : Group → Bool) : queueLit p (posted io s) = posted io (queueLit p s) := by
  simp [queueLit]

@[simp] theorem supplyOnOp_posted : supplyOnOp (posted io s) = posted io (supplyOnOp s) := by simp [supplyOnOp]

@[simp] theorem leaveSupply_posted (x : Supply) : leaveSupply x (posted io s) = posted io (leaveSupply x s) := by
  simp [leaveSupply]

@[simp] theorem supplyOffOp_posted : supplyOffOp (posted io s) = posted io (supplyOffOp s) := by simp [supplyOffOp]

@[simp] theorem enterReady_posted : enterReady (posted io s) = posted io (enterReady s) := by simp [enterReady]

@[simp] theorem tickLmc_posted : tickLmc (posted io s) = posted io (tickLmc s) := by simp [tickLmc]

/-! ## The cache and the port -/

@[simp] theorem voiceOf_posted (v : VoiceNo) : voiceOf (posted io s) v = voiceOf s v := (rfl)
@[simp] theorem setVoice_posted (v : VoiceNo) (x : Voice) :
    setVoice v x (posted io s) = posted io (setVoice v x s) := (rfl)
@[simp] theorem validLine_posted (k : Nat) : validLine (posted io s) k = validLine s k := (rfl)
@[simp] theorem isValid_posted (k : Nat) : isValid (posted io s) k = isValid s k := (rfl)
@[simp] theorem isCached_posted (k : Nat) : isCached (posted io s) k = isCached s k := (rfl)
@[simp] theorem isLocked_posted (k : Nat) : isLocked (posted io s) k = isLocked s k := (rfl)

@[simp] theorem touch_posted (k : Nat) : touch k (posted io s) = posted io (touch k s) := by
  unfold touch; simp; split <;> simp

@[simp] theorem dropLine_posted (i : LineNo) : dropLine (posted io s) i = posted io (dropLine s i) := (rfl)
@[simp] theorem sampleIn_posted (k j : Nat) : sampleIn (posted io s) k j = sampleIn s k j := (rfl)
@[simp] theorem isQueued_posted (k : Nat) : isQueued (posted io s) k = isQueued s k := (rfl)

@[simp] theorem request_posted (v : VoiceNo) (k u : Nat) :
    request v k u (posted io s) = posted io (request v k u s) := by
  simp [request]

@[simp] theorem preload_posted (k : Nat) : preload (posted io s) k = posted io (preload s k) := by simp [preload]

@[simp] theorem ceaseWait_posted (v : VoiceNo) : ceaseWait v (posted io s) = posted io (ceaseWait v s) := (rfl)
@[simp] theorem victim_posted : victim (posted io s) = victim s := (rfl)
@[simp] theorem portState_posted : portState (posted io s) = portState s := (rfl)
@[simp] theorem startFetch_posted (k : Nat) (i : LineNo) :
    startFetch k i (posted io s) = posted io (startFetch k i s) := (rfl)

@[simp] theorem fetchNext_posted : fetchNext (posted io s) = posted io (fetchNext s) := by
  unfold fetchNext; simp; split <;> simp

@[simp] theorem transfer_posted (m : Maint) : transfer m (posted io s) = posted io (transfer m s) := (rfl)

@[simp] theorem startMaint_posted : startMaint (posted io s) = posted io (startMaint s) := by
  unfold startMaint; simp; split <;> simp

@[simp] theorem maintWaits_posted : maintWaits (posted io s) = maintWaits s := (rfl)

@[simp] theorem arbiter_posted : arbiter (posted io s) = posted io (arbiter s) := by simp [arbiter]

@[simp] theorem lockSectors_posted (sectors : List Nat) :
    lockSectors sectors (posted io s) = posted io (lockSectors sectors s) := by
  simp [lockSectors]

@[simp] theorem unlockSectors_posted (sectors : List Nat) :
    unlockSectors sectors (posted io s) = posted io (unlockSectors sectors s) := (rfl)
@[simp] theorem flushable_posted : flushable (posted io s) = flushable s := (rfl)

@[simp] theorem flushCache_posted :
    flushCache (posted io s) = (posted io (flushCache s).1, (flushCache s).2) := by simp [flushCache]

/-! ## Gain -/

@[simp] theorem tickHmx_posted : tickHmx (posted io s) = posted io (tickHmx s) := (rfl)
@[simp] theorem tickZou_posted : tickZou (posted io s) = posted io (tickZou s) := (rfl)

/-! ## Voices -/

@[simp] theorem setRendering_posted (r : Option RenderRec) :
    setRendering r (posted io s) = posted io (setRendering r s) := (rfl)
@[simp] theorem resolveItem_posted (it : Item) (l : Lang) : resolveItem (posted io s) it l = resolveItem s it l := (rfl)

@[simp] theorem requestFor_posted (r : RenderRec) (v : VoiceNo) (k : Nat) :
    requestFor r v k (posted io s) = posted io (requestFor r v k s) := by
  simp [requestFor]

@[simp] theorem enterPlaying_posted (v : VoiceNo) (k : Nat) :
    enterPlaying v k (posted io s) = posted io (enterPlaying v k s) := by
  simp [enterPlaying]

@[simp] theorem startClip_posted (r : RenderRec) (v : VoiceNo) (c : Clip) :
    startClip r v c (posted io s) = posted io (startClip r v c s) := by
  simp [startClip]

@[simp] theorem countItem_posted (v : VoiceNo) : countItem v (posted io s) = posted io (countItem v s) := by
  unfold countItem; simp; split <;> simp

@[simp] theorem startRound_posted (v : VoiceNo) (n : Nat) :
    startRound v n (posted io s) = posted io (startRound v n s) := by
  unfold startRound; simp; split <;> simp

@[simp] theorem enterEnding_posted (v : VoiceNo) : enterEnding v (posted io s) = posted io (enterEnding v s) := (rfl)
@[simp] theorem idleVoice_posted (v : VoiceNo) : idleVoice v (posted io s) = posted io (idleVoice v s) := (rfl)

@[simp] theorem afterItem_posted (stalled : Bool) (v : VoiceNo) :
    afterItem stalled v (posted io s) = (posted io (afterItem stalled v s).1, (afterItem stalled v s).2) := by
  unfold afterItem; simp; (repeat' split) <;> simp

@[simp] theorem startItem_posted (n : Nat) (v : VoiceNo) :
    startItem n v (posted io s) = posted io (startItem n v s) := by
  induction n generalizing s with
  | zero => rfl
  | succ n ih =>
    unfold startItem; simp; split
    · rfl
    · split <;> simp [ih]

@[simp] theorem itemFuel_posted : itemFuel (posted io s) = itemFuel s := (rfl)

@[simp] theorem startFrom_posted (v : VoiceNo) : startFrom v (posted io s) = posted io (startFrom v s) := by
  simp [startFrom]

@[simp] theorem finishItem_posted (stalled : Bool) (v : VoiceNo) :
    finishItem stalled v (posted io s) = posted io (finishItem stalled v s) := by
  simp [finishItem]

@[simp] theorem reportIfDone_posted : reportIfDone (posted io s) = posted io (reportIfDone s) := by
  unfold reportIfDone; simp; split <;> simp

@[simp] theorem prunePrev_posted : prunePrev (posted io s) = posted io (prunePrev s) := by
  unfold prunePrev; simp; split <;> simp

@[simp] theorem wantedRoles_posted (a : Announcement) (speaker : Bool) :
    wantedRoles (posted io s) a speaker = wantedRoles s a speaker := (rfl)
@[simp] theorem freeVoices_posted : freeVoices (posted io s) = freeVoices s := (rfl)

@[simp] theorem takeVoice_posted (id round : Nat) (p : VoiceNo × Role) :
    takeVoice id round (posted io s) p = posted io (takeVoice id round s p) := by
  simp [takeVoice]

@[simp] theorem seatMap_posted (a : Announcement) (taken : List (VoiceNo × Role)) :
    seatMap (posted io s) a taken = seatMap s a taken := (rfl)
@[simp] theorem dropClaims_posted : dropClaims (posted io s) = posted io (dropClaims s) := (rfl)
@[simp] theorem startTalk_posted (a : Announcement) : startTalk a (posted io s) = posted io (startTalk a s) := (rfl)

@[simp] theorem startVoices_posted (a : Announcement) (items : List Item) (resumed : Bool) :
    startVoices a items resumed (posted io s) = posted io (startVoices a items resumed s) := by
  simp [startVoices]

@[simp] theorem stopVoices_posted : stopVoices (posted io s) = posted io (stopVoices s) := by
  unfold stopVoices; simp; split <;> simp

@[simp] theorem softCutVoice_posted (id : Nat) (v : VoiceNo) :
    softCutVoice id (posted io s) v = posted io (softCutVoice id s v) := by
  unfold softCutVoice; simp; (repeat' split) <;> simp

@[simp] theorem softCutVoices_posted : softCutVoices (posted io s) = posted io (softCutVoices s) := by
  unfold softCutVoices; simp; split <;> simp

@[simp] theorem gapExpires_posted (v : VoiceNo) : gapExpires v (posted io s) = posted io (gapExpires v s) := by
  simp [gapExpires]

@[simp] theorem clipStalls_posted (v : VoiceNo) : clipStalls v (posted io s) = posted io (clipStalls v s) := by
  simp [clipStalls]

@[simp] theorem fadeEnds_posted (v : VoiceNo) : fadeEnds v (posted io s) = posted io (fadeEnds v s) := by
  unfold fadeEnds; simp; (repeat' split) <;> simp

@[simp] theorem tickVoices_posted : tickVoices (posted io s) = posted io (tickVoices s) := (rfl)

@[simp] theorem markPlayed_posted : markPlayed (posted io s) = posted io (markPlayed s) := by
  unfold markPlayed; simp; split <;> simp

@[simp] theorem giveSample_posted (v : VoiceNo) (k : Nat) :
    giveSample v k (posted io s) = (posted io (giveSample v k s).1, (giveSample v k s).2) := (rfl)

@[simp] theorem playPeriod_posted (v : VoiceNo) :
    playPeriod v (posted io s) = (posted io (playPeriod v s).1, (playPeriod v s).2) := by
  unfold playPeriod; simp; (repeat' split) <;> simp

@[simp] theorem fadePeriod_posted (v : VoiceNo) :
    fadePeriod v (posted io s) = (posted io (fadePeriod v s).1, (fadePeriod v s).2) := by
  unfold fadePeriod; simp; split <;> simp

@[simp] theorem voicePeriod_posted (v : VoiceNo) :
    voicePeriod v (posted io s) = (posted io (voicePeriod v s).1, (voicePeriod v s).2) := by
  unfold voicePeriod; simp; split <;> simp

@[simp] theorem voicePeriods_posted (vs : List VoiceNo) :
    Machine.voicePeriods vs (posted io s) =
      (posted io (Machine.voicePeriods vs s).1, (Machine.voicePeriods vs s).2) := by
  induction vs generalizing s <;> simp [Machine.voicePeriods, *]

@[simp] theorem playVoices_posted : playVoices (posted io s) = (posted io (playVoices s).1, (playVoices s).2) := by
  simp [playVoices]

@[simp] theorem playedOut_posted (v : VoiceNo) : playedOut v (posted io s) = posted io (playedOut v s) := by
  simp [playedOut]

@[simp] theorem askAhead_posted (r : RenderRec) (v : VoiceNo) (k : Nat) :
    askAhead r v k (posted io s) = posted io (askAhead r v k s) := by
  simp [askAhead]

@[simp] theorem takeSample_posted (v : VoiceNo) : takeSample v (posted io s) = posted io (takeSample v s) := by
  unfold takeSample; simp; split <;> simp

@[simp] theorem followSample_posted (v : VoiceNo) : followSample v (posted io s) = posted io (followSample v s) := by
  simp [followSample]

@[simp] theorem tellValid_posted (k : Nat) (v : VoiceNo) :
    tellValid k (posted io s) v = posted io (tellValid k s v) := by
  simp [tellValid]

@[simp] theorem fetchCompletes_posted : fetchCompletes (posted io s) = posted io (fetchCompletes s) := by
  unfold fetchCompletes; simp; split <;> simp

@[simp] theorem sectorInvalid_posted (k : Nat) (v : VoiceNo) :
    sectorInvalid k (posted io s) v = posted io (sectorInvalid k s v) := by
  unfold sectorInvalid; simp; (repeat' split) <;> simp

@[simp] theorem invalidateTag_posted (k : Nat) : invalidateTag k (posted io s) = posted io (invalidateTag k s) := by
  unfold invalidateTag; simp; split <;> simp

/-! ## Announcements -/

@[simp] theorem setAsq_posted (a : Asq) : setAsq a (posted io s) = posted io (setAsq a s) := (rfl)
@[simp] theorem duckChange_posted (sum : Option Summary) :
    duckChange sum (posted io s) = posted io (duckChange sum s) := (rfl)
@[simp] theorem isLive_posted (id : Nat) : isLive (posted io s) id = isLive s id := (rfl)

@[simp] theorem findId_posted (n id : Nat) : findId (posted io s) n id = findId s n id := by
  induction n generalizing id <;> simp [findId, *]

@[simp] theorem nextId_posted : nextId (posted io s) = nextId s := by simp [nextId]

@[simp] theorem issue_posted (id : Nat) : issue id (posted io s) = posted io (issue id s) := (rfl)
@[simp] theorem isStale_posted (a : Announcement) : isStale (posted io s) a = isStale s a := (rfl)

@[simp] theorem endNotice_posted (a : Announcement) (o : AnnOutcome) :
    endNotice a o (posted io s) = posted io (endNotice a o s) := by
  simp [endNotice]

@[simp] theorem itemsOf_posted (a : Announcement) : itemsOf (posted io s) a = itemsOf s a := (rfl)

@[simp] theorem startRendering_posted (a : Announcement) (resumed : Bool) :
    startRendering a resumed (posted io s) = posted io (startRendering a resumed s) := by
  simp [startRendering]

@[simp] theorem makeCurrent_posted (a : Announcement) (resumed : Bool) :
    makeCurrent a resumed (posted io s) = posted io (makeCurrent a resumed s) := by
  simp [makeCurrent]

@[simp] theorem enterQueue_posted (x : Announcement) (refusal : AnnOutcome) :
    enterQueue x refusal (posted io s) = (posted io (enterQueue x refusal s).1, (enterQueue x refusal s).2) := by
  unfold enterQueue; simp; (repeat' split) <;> simp

@[simp] theorem suspended_posted (c : Announcement) : suspended (posted io s) c = suspended s c := (rfl)

@[simp] theorem leaveCurrent_posted (c : Announcement) :
    leaveCurrent c (posted io s) = posted io (leaveCurrent c s) := by
  simp [leaveCurrent]

@[simp] theorem preempt_posted (c x : Announcement) : preempt c x (posted io s) = posted io (preempt c x s) := by
  simp [preempt]

@[simp] theorem place_posted (x : Announcement) : place x (posted io s) = (posted io (place x s).1, (place x s).2) := by
  unfold place; simp; (repeat' split) <;> simp

@[simp] theorem newAnnouncement_posted (p : Fin 128) (priority : Fin 4) (mask : ZoneMask)
    (rendering : Rendering) (langs : List Lang) (stale : Option Nat) (origin : Origin) :
    newAnnouncement (posted io s) p priority mask rendering langs stale origin =
      newAnnouncement s p priority mask rendering langs stale origin := by simp [newAnnouncement]

@[simp] theorem placeNew_posted (x : Announcement) :
    placeNew x (posted io s) = (posted io (placeNew x s).1, (placeNew x s).2) := by
  simp [placeNew]

@[simp] theorem takeInternal_posted (x : Announcement) :
    takeInternal x (posted io s) = posted io (takeInternal x s) := by
  simp [takeInternal]

@[simp] theorem originLive_posted (o : Origin) : originLive (posted io s) o = originLive s o := (rfl)

@[simp] theorem requestChime_posted : requestChime (posted io s) = posted io (requestChime s) := by
  unfold requestChime; simp; split <;> simp

@[simp] theorem requestAlarm_posted : requestAlarm (posted io s) = posted io (requestAlarm s) := by
  unfold requestAlarm; simp; split <;> simp

@[simp] theorem requestCue_posted (index : Nat) (p : Fin 128) (priority : Fin 4)
    (mask : ZoneMask) (rendering : Rendering) (langs : List Lang) (stale : Option Nat) :
    requestCue index p priority mask rendering langs stale (posted io s) =
      posted io (requestCue index p priority mask rendering langs stale s) := by
  simp [requestCue]

@[simp] theorem rejects_posted (a : Announcement) : rejects (posted io s) a = rejects s a := (rfl)

@[simp] theorem select_posted (n : Nat) : select n (posted io s) = posted io (select n s) := by
  induction n generalizing s with
  | zero => rfl
  | succ n ih =>
    unfold select; simp; split
    · rfl
    · split <;> simp [ih]

@[simp] theorem selectNext_posted : selectNext (posted io s) = posted io (selectNext s) := by simp [selectNext]

@[simp] theorem endCurrent_posted (c : Announcement) (o : AnnOutcome) :
    endCurrent c o (posted io s) = posted io (endCurrent c o s) := by
  simp [endCurrent]

@[simp] theorem takeReport_posted : takeReport (posted io s) = posted io (takeReport s) := by
  unfold takeReport; simp; (repeat' split) <;> simp

@[simp] theorem cut_posted (id : Nat) (hard : Bool) :
    cut id hard (posted io s) = (posted io (cut id hard s).1, (cut id hard s).2) := by
  unfold cut; simp; (repeat' split) <;> simp

@[simp] theorem talkLive_posted : talkLive (posted io s) = talkLive s := (rfl)
@[simp] theorem setHang_posted (f : Hang → Hang) : setHang f (posted io s) = posted io (setHang f s) := (rfl)

@[simp] theorem talkRise_posted : talkRise (posted io s) = posted io (talkRise s) := by simp [talkRise]

@[simp] theorem tickHang_posted : tickHang (posted io s) = posted io (tickHang s) := (rfl)

@[simp] theorem hangExpires_posted : hangExpires (posted io s) = posted io (hangExpires s) := by
  unfold hangExpires; simp; (repeat' split) <;> simp

@[simp] theorem talkFall_posted : talkFall (posted io s) = posted io (talkFall s) := by simp [talkFall]

@[simp] theorem deckResetAsq_posted : deckResetAsq (posted io s) = posted io (deckResetAsq s) := (rfl)

/-! ## The lamp supply and the alarm override -/

@[simp] theorem sourceAsserted_posted : sourceAsserted (posted io s) = sourceAsserted s := (rfl)
@[simp] theorem setOverride_posted (x : Override) : setOverride x (posted io s) = posted io (setOverride x s) := (rfl)

@[simp] theorem overrideStart_posted : overrideStart (posted io s) = posted io (overrideStart s) := by
  simp [overrideStart]

@[simp] theorem overrideEvent_posted : overrideEvent (posted io s) = posted io (overrideEvent s) := by
  unfold overrideEvent; simp; split <;> simp

@[simp] theorem alarmLine_posted (low : Bool) : alarmLine low (posted io s) = posted io (alarmLine low s) := by
  simp [alarmLine]

@[simp] theorem alarmFlag_posted (on : Bool) : alarmFlag on (posted io s) = posted io (alarmFlag on s) := by
  simp [alarmFlag]

@[simp] theorem safetyLevels_posted : safetyLevels (posted io s) = posted io (safetyLevels s) := (rfl)

@[simp] theorem overrideClears_posted : overrideClears (posted io s) = posted io (overrideClears s) := by
  simp [overrideClears]

@[simp] theorem rampDone_posted : rampDone (posted io s) = posted io (rampDone s) := by simp [rampDone]

@[simp] theorem rampTimeout_posted : rampTimeout (posted io s) = posted io (rampTimeout s) := by simp [rampTimeout]

@[simp] theorem goodLost_posted : goodLost (posted io s) = posted io (goodLost s) := by simp [goodLost]

/-! ## Seats -/

@[simp] theorem setSeat_posted (i : SeatNo) (x : Seat) : setSeat i x (posted io s) = posted io (setSeat i x s) := (rfl)
@[simp] theorem seatOf_posted (i : SeatNo) : seatOf (posted io s) i = seatOf s i := (rfl)
@[simp] theorem boxOf_posted (b : BoxNo) : boxOf (posted io s) b = boxOf s b := (rfl)
@[simp] theorem setBox_posted (b : BoxNo) (x : Box) : setBox b x (posted io s) = posted io (setBox b x s) := (rfl)
@[simp] theorem offeredLangs_posted : offeredLangs (posted io s) = offeredLangs s := (rfl)
@[simp] theorem plugIn_posted (i : SeatNo) : plugIn i (posted io s) = posted io (plugIn i s) := (rfl)
@[simp] theorem unplug_posted (i : SeatNo) : unplug i (posted io s) = posted io (unplug i s) := (rfl)

@[simp] theorem senseJack_posted (i : SeatNo) (last plug : Bool) :
    senseJack i last plug (posted io s) = posted io (senseJack i last plug s) := by
  simp [senseJack]

@[simp] theorem pressSeat_posted (i : SeatNo) (langs ups downs : Nat) :
    pressSeat i langs ups downs (posted io s) = posted io (pressSeat i langs ups downs s) := by
  simp [pressSeat]

@[simp] theorem stopPress_posted (i : SeatNo) : stopPress i (posted io s) = posted io (stopPress i s) := by
  unfold stopPress; simp; (repeat' split) <;> simp

@[simp] theorem clearLatch_posted : clearLatch (posted io s) = posted io (clearLatch s) := by
  unfold clearLatch; simp; split <;> simp

@[simp] theorem pressJack_posted (i : SeatNo) (w : Word16) (lo : Nat) :
    pressJack i w lo (posted io s) = posted io (pressJack i w lo s) := by
  simp [pressJack]

@[simp] theorem takeGood_posted (b : BoxNo) (r : Vector Word16 3) :
    takeGood b r (posted io s) = posted io (takeGood b r s) := by
  simp [takeGood]

@[simp] theorem takeMiss_posted (b : BoxNo) : takeMiss b (posted io s) = posted io (takeMiss b s) := by simp [takeMiss]

@[simp] theorem takeReply_posted (reply : Option (Vector Word16 3)) :
    takeReply reply (posted io s) = posted io (takeReply reply s) := by
  unfold takeReply; simp; (repeat' split) <;> simp

/-! ## The route -/

@[simp] theorem setRce_posted (r : Rce) : setRce r (posted io s) = posted io (setRce r s) := (rfl)
@[simp] theorem cueAt_posted (i : Nat) : cueAt (posted io s) i = cueAt s i := (rfl)

@[simp] theorem markCue_posted (i : Nat) (x : CueState) : markCue i x (posted io s) = posted io (markCue i x s) := by
  unfold markCue; split <;> simp

@[simp] theorem setQuiet_posted (mask : ZoneMask) (on : Bool) :
    setQuiet mask on (posted io s) = posted io (setQuiet mask on s) := (rfl)
@[simp] theorem hand_posted (d : Delivery) : hand d (posted io s) = posted io (hand d s) := (rfl)

@[simp] theorem takeDelivery_posted (d : Delivery) : takeDelivery d (posted io s) = posted io (takeDelivery d s) := by
  unfold takeDelivery; split <;> simp

@[simp] theorem takeNext_posted (owner : CueOwner) : takeNext owner (posted io s) = posted io (takeNext owner s) := by
  unfold takeNext; simp; split <;> simp

@[simp] theorem takeDue_posted (waits : CueOwner → Bool) :
    takeDue waits (posted io s) = posted io (takeDue waits s) := by
  simp [takeDue]

@[simp] theorem settle_posted : settle (posted io s) = posted io (settle s) := by simp [settle]

@[simp] theorem routeNotice_posted (rewind : Bool) :
    routeNotice rewind (posted io s) = posted io (routeNotice rewind s) := by
  simp [routeNotice]

@[simp] theorem moveRoute_posted (x : RouteState) : moveRoute x (posted io s) = posted io (moveRoute x s) := by
  simp [moveRoute]

@[simp] theorem routeTest_posted : routeTest (posted io s) = routeTest s := (rfl)

@[simp] theorem deliver_posted (i : Nat) (c : Cue) (mask : ZoneMask) :
    deliver i c mask (posted io s) = posted io (deliver i c mask s) := by
  unfold deliver; split <;> simp

@[simp] theorem endStep_posted (n : Nat) : endStep n (posted io s) = posted io (endStep n s) := by simp [endStep]

@[simp] theorem handleDue_posted (n k : Nat) : handleDue n k (posted io s) = posted io (handleDue n k s) := by
  induction k generalizing s with
  | zero => rfl
  | succ k ih =>
    unfold handleDue; simp; split
    · rfl
    · split <;> simp [ih]

@[simp] theorem normalStep_posted (n : Nat) : normalStep n (posted io s) = posted io (normalStep n s) := by
  simp [normalStep]

@[simp] theorem relocationSet_posted (n : Nat) : relocationSet (posted io s) n = relocationSet s n := (rfl)

@[simp] theorem markRelocated_posted (o n : Nat) (l : List (Nat × Cue)) :
    markRelocated o n l (posted io s) = posted io (markRelocated o n l s) := by
  induction l generalizing s <;> simp [markRelocated, *]

@[simp] theorem deliverRelocated_posted (o n : Nat) (l : List (Nat × Cue)) :
    deliverRelocated o n l (posted io s) = posted io (deliverRelocated o n l s) := by
  induction l generalizing s <;> simp [deliverRelocated, *]

@[simp] theorem relocate_posted (n : Nat) : relocate n (posted io s) = posted io (relocate n s) := by simp [relocate]

@[simp] theorem backwardStep_posted (n : Nat) : backwardStep n (posted io s) = posted io (backwardStep n s) := by
  simp [backwardStep]

@[simp] theorem odometerStep_posted (n : Nat) : odometerStep n (posted io s) = posted io (odometerStep n s) := by
  simp [odometerStep]

@[simp] theorem tryStart_posted : tryStart (posted io s) = posted io (tryStart s) := by simp [tryStart]

@[simp] theorem routeChange_posted : routeChange (posted io s) = posted io (routeChange s) := by
  unfold routeChange; simp; split <;> simp

@[simp] theorem allPending_posted : allPending (posted io s) = posted io (allPending s) := (rfl)

@[simp] theorem armRoute_posted (count tag : Nat) :
    armRoute count tag (posted io s) = (posted io (armRoute count tag s).1, (armRoute count tag s).2) := by
  unfold armRoute; simp; (repeat' split) <;> simp

@[simp] theorem disarmRoute_posted : disarmRoute (posted io s) = posted io (disarmRoute s) := by simp [disarmRoute]

@[simp] theorem deckResetRce_posted : deckResetRce (posted io s) = posted io (deckResetRce s) := by simp [deckResetRce]

/-! ## Flags -/

/-! ## Table entries -/

@[simp] theorem storeSeat_posted (i : SeatNo) (w : SeatWrite) :
    storeSeat i w (posted io s) = posted io (storeSeat i w s) := (rfl)
@[simp] theorem storeZone_posted (z : Zone) (w : ZoneWrite) :
    storeZone z w (posted io s) = posted io (storeZone z w s) := (rfl)
@[simp] theorem storeLanguage_posted (l : Lang) (x : Language) :
    storeLanguage l x (posted io s) = posted io (storeLanguage l x s) := (rfl)
@[simp] theorem storeCurve_posted (c : Vector CurvePoint 8) :
    storeCurve c (posted io s) = posted io (storeCurve c s) := (rfl)
@[simp] theorem storeCue_posted (i : Fin 256) (c : Cue) :
    storeCue i c (posted io s) = posted io (storeCue i c s) := (rfl)
@[simp] theorem storePhrase_posted (p : Fin 128) (is : List Item) :
    storePhrase p is (posted io s) = posted io (storePhrase p is s) := (rfl)
@[simp] theorem storeClip_posted (i : Fin 512) (c : Option Clip) :
    storeClip i c (posted io s) = posted io (storeClip i c s) := (rfl)
@[simp] theorem storeCell_posted (i : Fin 192) (g : Option GroupNo) :
    storeCell i g (posted io s) = posted io (storeCell i g s) := (rfl)

@[simp] theorem overrideSafety_posted (g : GroupNo) (before : Bool) :
    overrideSafety g before (posted io s) = posted io (overrideSafety g before s) := by
  simp [overrideSafety]

@[simp] theorem storeGroup_posted (g : GroupNo) (w : GroupWrite) :
    storeGroup g w (posted io s) = posted io (storeGroup g w s) := by
  unfold storeGroup; split <;> simp

@[simp] theorem storePreset_posted (p : Fin 32) (x : Pattern) :
    storePreset p x (posted io s) = posted io (storePreset p x s) := (rfl)
@[simp] theorem storeScene_posted (n : Fin 16) (x : Vector SceneSetting 24) :
    storeScene n x (posted io s) = posted io (storeScene n x s) := (rfl)
@[simp] theorem storeSettings_posted (x : Settings) :
    storeSettings x (posted io s) = posted io (storeSettings x s) := (rfl)

@[simp] theorem storeIf_posted {ι α : Type} {i : Option ι} {w : Option α}
    {store : ι → α → State → State} (hh : ∀ i w, store i w (posted io s) = posted io (store i w s)) :
    storeIf i w store (posted io s) = (posted io (storeIf i w store s).1, (storeIf i w store s).2) := by
  unfold storeIf; split <;> simp [hh]

@[simp] theorem Table_write_posted (t : Table) (i : Nat) (r : List Byte) :
    t.write i r (posted io s) = (posted io (t.write i r s).1, (t.write i r s).2) := by
  cases t <;> simp [Table.write]; split <;> simp

@[simp] theorem entryWriteOp_posted (table : Byte) (index : Nat) (record : List Byte) :
    entryWriteOp table index record (posted io s) =
      (posted io (entryWriteOp table index record s).1, (entryWriteOp table index record s).2) := by
  unfold entryWriteOp; simp; (repeat' split) <;> simp

@[simp] theorem Table_read_posted (t : Table) (i : Nat) : Table.read t i (posted io s) = Table.read t i s := (rfl)

@[simp] theorem entryReadOp_posted (table : Byte) (index : Nat) :
    entryReadOp table index (posted io s) =
      (posted io (entryReadOp table index s).1, (entryReadOp table index s).2) := by
  unfold entryReadOp; simp; (repeat' split) <;> simp

/-! ## Actions -/

@[simp] theorem announceOp_posted (params : List Byte) :
    announceOp params (posted io s) = (posted io (announceOp params s).1, (announceOp params s).2) := by
  unfold announceOp; split <;> simp; split <;> simp

@[simp] theorem cutOp_posted (id : Byte) (hard : Bool) :
    cutOp id hard (posted io s) = (posted io (cutOp id hard s).1, (cutOp id hard s).2) := by
  simp [cutOp]

@[simp] theorem sceneOp_posted (n : Byte) :
    sceneOp n (posted io s) = (posted io (sceneOp n s).1, (sceneOp n s).2) := by
  unfold sceneOp; split <;> simp [doneWith]

@[simp] theorem startAfter_posted (start : Byte) (g : GroupNo) :
    startAfter start g (posted io s) = posted io (startAfter start g s) := by
  simp [startAfter]

@[simp] theorem groupPresetOp_posted (group preset start : Byte) :
    groupPresetOp group preset start (posted io s) =
      (posted io (groupPresetOp group preset start s).1, (groupPresetOp group preset start s).2) := by
  simp only [groupPresetOp, onGroup]; split <;> simp [doneWith]; split <;> simp

@[simp] theorem groupFieldsOp_posted (group mode levelOn levelOff onLen offLen pulses fadeStep start : Byte) :
    groupFieldsOp group mode levelOn levelOff onLen offLen pulses fadeStep start (posted io s) =
      (posted io (groupFieldsOp group mode levelOn levelOff onLen offLen pulses fadeStep start s).1,
        (groupFieldsOp group mode levelOn levelOff onLen offLen pulses fadeStep start s).2) := by
  simp only [groupFieldsOp, onGroup]; split <;> simp [doneWith]; split <;> simp

@[simp] theorem groupStartOp_posted (group : Byte) :
    groupStartOp group (posted io s) = (posted io (groupStartOp group s).1, (groupStartOp group s).2) := by
  simp only [groupStartOp, onGroup]; split <;> simp [doneWith]

@[simp] theorem groupStopOp_posted (group : Byte) :
    groupStopOp group (posted io s) = (posted io (groupStopOp group s).1, (groupStopOp group s).2) := by
  simp only [groupStopOp, onGroup]; split <;> simp [doneWith]

@[simp] theorem groupPendingOp_posted (group onLen offLen : Byte) :
    groupPendingOp group onLen offLen (posted io s) =
      (posted io (groupPendingOp group onLen offLen s).1, (groupPendingOp group onLen offLen s).2) := by
  simp only [groupPendingOp, onGroup]; split <;> simp [doneWith]

@[simp] theorem groupHoldOp_posted (group hold : Byte) :
    groupHoldOp group hold (posted io s) = (posted io (groupHoldOp group hold s).1, (groupHoldOp group hold s).2) := by
  simp only [groupHoldOp, onGroup]; split <;> simp [doneWith]

@[simp] theorem groupOp_posted (params : List Byte) :
    groupOp params (posted io s) = (posted io (groupOp params s).1, (groupOp params s).2) := by
  unfold groupOp; simp; (repeat' split) <;> simp

@[simp] theorem supplyOnAction_posted :
    supplyOnAction (posted io s) = (posted io (supplyOnAction s).1, (supplyOnAction s).2) := by
  simp [supplyOnAction, supplyAnswer]

@[simp] theorem supplyOffAction_posted :
    supplyOffAction (posted io s) = (posted io (supplyOffAction s).1, (supplyOffAction s).2) := by
  simp [supplyOffAction, supplyAnswer]

@[simp] theorem routeArmOp_posted (count : Nat) (tag : Byte) :
    routeArmOp count tag (posted io s) = (posted io (routeArmOp count tag s).1, (routeArmOp count tag s).2) := by
  simp [routeArmOp]

@[simp] theorem routeDisarmOp_posted :
    routeDisarmOp (posted io s) = (posted io (routeDisarmOp s).1, (routeDisarmOp s).2) := by
  simp [routeDisarmOp, doneWith]

@[simp] theorem stopClearOp_posted :
    stopClearOp (posted io s) = (posted io (stopClearOp s).1, (stopClearOp s).2) := by simp [stopClearOp, doneWith]

@[simp] theorem seatOp_posted (params : List Byte) :
    seatOp params (posted io s) = (posted io (seatOp params s).1, (seatOp params s).2) := by
  unfold seatOp; split <;> simp [doneWith]

@[simp] theorem quietOp_posted (zones on : Byte) :
    quietOp zones on (posted io s) = (posted io (quietOp zones on s).1, (quietOp zones on s).2) := by
  unfold quietOp; split <;> simp [doneWith]

@[simp] theorem findClip_posted (family : Nat) (language : Byte) :
    findClip family language (posted io s) = findClip family language s := (rfl)

@[simp] theorem clipLockOp_posted (family : Nat) (language : Byte) :
    clipLockOp family language (posted io s) =
      (posted io (clipLockOp family language s).1, (clipLockOp family language s).2) := by
  unfold clipLockOp; simp; split <;> simp [lockAnswer]; split <;> simp

@[simp] theorem clipUnlockOp_posted (present : Byte) (family : Nat) (language : Byte) :
    clipUnlockOp present family language (posted io s) =
      (posted io (clipUnlockOp present family language s).1, (clipUnlockOp present family language s).2) := by
  unfold clipUnlockOp; simp [lockAnswer]; split
  · rfl
  · split <;> simp

@[simp] theorem cacheFlushOp_posted :
    cacheFlushOp (posted io s) = (posted io (cacheFlushOp s).1, (cacheFlushOp s).2) := by
  simp [cacheFlushOp]

@[simp] theorem unknownActionOp_posted (_code : Byte) :
    unknownActionOp _code (posted io s) = (posted io (unknownActionOp _code s).1, (unknownActionOp _code s).2) := (rfl)
@[simp] theorem badParams_posted : badParams (posted io s) = (posted io (badParams s).1, (badParams s).2) := (rfl)

@[simp] theorem bareAction_posted {h : State → State × Answer} {params : List Byte}
    (hh : h (posted io s) = (posted io (h s).1, (h s).2)) :
    bareAction h params (posted io s) = (posted io (bareAction h params s).1, (bareAction h params s).2) := by
  unfold bareAction; split <;> simp [hh]

@[simp] theorem cutAction_posted (params : List Byte) :
    cutAction params (posted io s) = (posted io (cutAction params s).1, (cutAction params s).2) := by
  unfold cutAction; simp; (repeat' split) <;> simp

@[simp] theorem sceneAction_posted (params : List Byte) :
    sceneAction params (posted io s) = (posted io (sceneAction params s).1, (sceneAction params s).2) := by
  unfold sceneAction; split <;> simp

@[simp] theorem supplyAction_posted (params : List Byte) :
    supplyAction params (posted io s) = (posted io (supplyAction params s).1, (supplyAction params s).2) := by
  unfold supplyAction; simp; (repeat' split) <;> simp

@[simp] theorem routeArmAction_posted (params : List Byte) :
    routeArmAction params (posted io s) = (posted io (routeArmAction params s).1, (routeArmAction params s).2) := by
  unfold routeArmAction; split <;> simp

@[simp] theorem quietAction_posted (params : List Byte) :
    quietAction params (posted io s) = (posted io (quietAction params s).1, (quietAction params s).2) := by
  unfold quietAction; split <;> simp

@[simp] theorem clipLockAction_posted (params : List Byte) :
    clipLockAction params (posted io s) = (posted io (clipLockAction params s).1, (clipLockAction params s).2) := by
  unfold clipLockAction; split <;> simp

@[simp] theorem clipUnlockAction_posted (params : List Byte) :
    clipUnlockAction params (posted io s) =
      (posted io (clipUnlockAction params s).1, (clipUnlockAction params s).2) := by
  unfold clipUnlockAction; split <;> simp

@[simp] theorem actionOp_posted (code : Byte) (params : List Byte) :
    actionOp code params (posted io s) = (posted io (actionOp code params s).1, (actionOp code params s).2) := by
  unfold actionOp; split <;> simp

/-! ## Maintenance operations -/

@[simp] theorem acceptMaint_posted (op : MaintOp) :
    acceptMaint op (posted io s) = (posted io (acceptMaint op s).1, (acceptMaint op s).2) := by
  unfold acceptMaint; simp; split <;> simp

@[simp] theorem clipEraseOp_posted (sector : Nat) :
    clipEraseOp sector (posted io s) = (posted io (clipEraseOp sector s).1, (clipEraseOp sector s).2) := by
  unfold clipEraseOp; split <;> simp

@[simp] theorem clipProgramOp_posted (addr : Nat) (data : List Byte) :
    clipProgramOp addr data (posted io s) =
      (posted io (clipProgramOp addr data s).1, (clipProgramOp addr data s).2) := by
  unfold clipProgramOp; split <;> simp

@[simp] theorem clipReadOp_posted (addr count : Nat) :
    clipReadOp addr count (posted io s) = (posted io (clipReadOp addr count s).1, (clipReadOp addr count s).2) := by
  unfold clipReadOp; split <;> simp

@[simp] theorem endMaint_posted (op : MaintOp) (payload : List Byte) :
    endMaint op payload (posted io s) = posted io (endMaint op payload s) := by
  unfold endMaint; split <;> simp

@[simp] theorem finishDevice_posted : finishDevice (posted io s) = posted io (finishDevice s) := (rfl)

@[simp] theorem memoryReady_posted : memoryReady (posted io s) = posted io (memoryReady s) := by
  unfold memoryReady; simp; (repeat' split) <;> simp

@[simp] theorem maintenanceTimesOut_posted : maintenanceTimesOut (posted io s) = posted io (maintenanceTimesOut s) := by
  unfold maintenanceTimesOut; simp; split <;> simp

@[simp] theorem tickCmp_posted : tickCmp (posted io s) = posted io (tickCmp s) := by
  unfold tickCmp; simp; split <;> simp

@[simp] theorem deckResetCache_posted : deckResetCache (posted io s) = posted io (deckResetCache s) := by
  simp [deckResetCache]

/-! ## The control slot -/

@[simp] theorem deckResetCth_posted : deckResetCth (posted io s) = posted io (deckResetCth s) := (rfl)
@[simp] theorem deckResetVpl_posted : deckResetVpl (posted io s) = posted io (deckResetVpl s) := (rfl)
@[simp] theorem deckResetZou_posted : deckResetZou (posted io s) = posted io (deckResetZou s) := (rfl)

@[simp] theorem deckReset_posted : deckReset (posted io s) = posted io (deckReset s) := by simp [deckReset]

@[simp] theorem deckResetOp_posted (bc : Bool) :
    deckResetOp bc (posted io s) = (posted io (deckResetOp bc s).1, (deckResetOp bc s).2) := by
  unfold deckResetOp; split <;> simp

@[simp] theorem deckResetEffect_posted : deckResetEffect (posted io s) = posted io (deckResetEffect s) := by
  simp [deckResetEffect]

@[simp] theorem badKindOp_posted (kind : Byte) :
    badKindOp kind (posted io s) = (posted io (badKindOp kind s).1, (badKindOp kind s).2) := (rfl)
@[simp] theorem stateReadOp_posted :
    stateReadOp (posted io s) = (posted io (stateReadOp s).1, (stateReadOp s).2) := (rfl)
@[simp] theorem badLength_posted : badLength (posted io s) = (posted io (badLength s).1, (badLength s).2) := (rfl)

@[simp] theorem entryWritePayload_posted (payload : List Byte) :
    entryWritePayload payload (posted io s) =
      (posted io (entryWritePayload payload s).1, (entryWritePayload payload s).2) := by
  unfold entryWritePayload; split <;> simp

@[simp] theorem entryReadPayload_posted (payload : List Byte) :
    entryReadPayload payload (posted io s) =
      (posted io (entryReadPayload payload s).1, (entryReadPayload payload s).2) := by
  unfold entryReadPayload; split <;> simp

@[simp] theorem actionPayload_posted (payload : List Byte) :
    actionPayload payload (posted io s) = (posted io (actionPayload payload s).1, (actionPayload payload s).2) := by
  unfold actionPayload; split <;> simp

@[simp] theorem emptyPayload_posted {payload : List Byte} {h : State → State × Answer}
    (hh : h (posted io s) = (posted io (h s).1, (h s).2)) :
    emptyPayload payload h (posted io s) = (posted io (emptyPayload payload h s).1, (emptyPayload payload h s).2) := by
  unfold emptyPayload; split <;> simp [hh]

@[simp] theorem clipErasePayload_posted (payload : List Byte) :
    clipErasePayload payload (posted io s) =
      (posted io (clipErasePayload payload s).1, (clipErasePayload payload s).2) := by
  unfold clipErasePayload; split <;> simp

@[simp] theorem clipProgramPayload_posted (payload : List Byte) :
    clipProgramPayload payload (posted io s) =
      (posted io (clipProgramPayload payload s).1, (clipProgramPayload payload s).2) := by
  unfold clipProgramPayload; split <;> simp

@[simp] theorem clipReadPayload_posted (payload : List Byte) :
    clipReadPayload payload (posted io s) =
      (posted io (clipReadPayload payload s).1, (clipReadPayload payload s).2) := by
  unfold clipReadPayload; split <;> simp

@[simp] theorem ownerOf_posted (bc : Bool) (kind : Byte) (payload : List Byte) :
    ownerOf bc kind payload (posted io s) =
      (posted io (ownerOf bc kind payload s).1, (ownerOf bc kind payload s).2) := by
  unfold ownerOf; split <;> simp

@[simp] theorem handleRequest_posted (bc : Bool) (kind : Byte) (payload : List Byte) :
    handleRequest bc kind payload (posted io s) = posted io (handleRequest bc kind payload s) := by
  simp [handleRequest]

@[simp] theorem sortPacket_posted (bs : List Byte) : sortPacket bs (posted io s) = posted io (sortPacket bs s) := by
  unfold sortPacket; simp; (repeat' split) <;> simp

@[simp] theorem setAssembly_posted (a : Option Assembly) :
    setAssembly a (posted io s) = posted io (setAssembly a s) := (rfl)

@[simp] theorem takeSlot_posted (t : Slot) : takeSlot t (posted io s) = posted io (takeSlot t s) := by
  unfold takeSlot; simp; split <;> simp

@[simp] theorem discardSlot_posted : discardSlot (posted io s) = posted io (discardSlot s) := (rfl)

@[simp] theorem afterSlot_posted (tx : Transmission) : afterSlot tx (posted io s) = posted io (afterSlot tx s) := by
  simp [afterSlot]

@[simp] theorem returnTurn_posted : returnTurn (posted io s) = (posted io (returnTurn s).1, (returnTurn s).2) := by
  unfold returnTurn; simp; (repeat' split) <;> simp

/-! ## Events of a slot end -/

@[simp] theorem tickOf_posted (b : TickBlock) : tickOf b (posted io s) = posted io (tickOf b s) := by
  unfold tickOf; split <;> simp

@[simp] theorem tickAt_posted (b : TickBlock) : tickAt b (posted io s) = posted io (tickAt b s) := by simp [tickAt]

@[simp] theorem tickEnds_posted : tickEnds (posted io s) = posted io (tickEnds s) := by simp [tickEnds]

@[simp] theorem takeDownstream_posted (f : Vector Word16 5) :
    takeDownstream f (posted io s) = posted io (takeDownstream f s) := by
  simp [takeDownstream]

@[simp] theorem takeEvent_posted (e : EndEvent) : takeEvent e (posted io s) = posted io (takeEvent e s) := by
  unfold takeEvent; split <;> simp

/-! ## Samples -/

@[simp] theorem seatPaths_posted (live : BitVec 12) (d : Samples) (outs : List VoiceOut) :
    seatPaths (posted io s) live d outs = seatPaths s live d outs := (rfl)
@[simp] theorem channelSamples_posted (live : BitVec 12) (d : Samples) (outs : List VoiceOut) :
    channelSamples (posted io s) live d outs = channelSamples s live d outs := (rfl)

/-! ## The slot end -/

@[simp] theorem slotEvent_posted (old new : Tif) (c : ControlEvent) (waits : CueOwner → Bool) (e : SlotEvent) :
    slotEvent old new c waits (posted io s) e = posted io (slotEvent old new c waits s e) := by
  cases e <;> simp [slotEvent]
  case control => split <;> simp

@[simp] theorem takeEvents_posted (old new : Tif) (c : ControlEvent) (order : List SlotEvent) :
    takeEvents old new c order (posted io s) = posted io (takeEvents old new c order s) := by
  simp [takeEvents]

theorem takeEvents_old_receiver (r : Receiver) (old new : Tif) (c : ControlEvent) (order : List SlotEvent) :
    takeEvents { old with receiver := r } new c order s = takeEvents old new c order s := rfl

@[simp] theorem sendReturn_posted (counter : Byte) (offered : Bool) :
    sendReturn counter offered (posted io s) = posted io (sendReturn counter offered s) := by
  simp only [sendReturn, returnTurn_posted, posted_tif_node, posted_tif_downstream]
  cases ownTurn s.tif.node counter <;> cases offered <;> rfl

/-- The receiver after a period is the one of TIF's new record; the ports' marks stay. -/
theorem endPeriod_posted (new : Tif) (offered : Bool) (c : ControlEvent) (order : List SlotEvent) :
    endPeriod new offered c order (posted io s) =
      posted { io with receiver := new.receiver } (endPeriod new offered c order s) := by
  simp only [endPeriod, sendReturn_posted, playVoices_posted, seatPaths_posted, channelSamples_posted]
  generalize playVoices (sendReturn new.counter offered s) = played
  rw [← takeEvents_posted]
  exact takeEvents_old_receiver io.receiver ..

end Sys2Proof.Proofs
end

section
/-! PROOFS. The receiver's search for a frame, and the period that a hunted frame ends. -/

namespace Sys2Proof.Proofs

open Sys2Proof Sys2Proof.Machine Sys2Proof.Laws

variable {ws rest : TrunkWords} {f g : Vector Word16 21} {short order : List SlotEvent} {s : State}

/-! ## The search (R3) -/

/-- A valid frame begins at word k of a line's words; a gap breaks it (R2, R3). -/
def BeginsAt (ws : TrunkWords) (k : Nat) (f : Vector Word16 21) : Prop :=
  (ws.drop k).take 21 = f.toList.map some ∧ frameValid f = true

theorem wordsOf_eq_some {n : Nat} {l : List Word16} : wordsOf n ws = some l ↔ l.length = n ∧ ws.take n = l.map some := by
  induction n generalizing ws l with
  | zero => cases l <;> simp [wordsOf]
  | succ n ih =>
    match ws, l with
    | [], l | none :: _, l => cases l <;> simp [wordsOf]
    | some w :: rest, [] => simp [wordsOf]
    | some w :: rest, x :: l =>
      have hl : wordsOf n rest = some l ↔ l.length = n ∧ rest.take n = l.map some := ih
      simp only [wordsOf, Option.map_eq_some_iff, List.cons.injEq, List.length_cons, List.map_cons, List.take_succ_cons,
        Nat.add_right_cancel_iff, Option.some.injEq]
      grind

/-- 21 words in a row are the words of one frame. -/
theorem ofFn_getD_eq {l : List Word16} (h : l.length = 21) :
    (Vector.ofFn fun i : Fin 21 => l.getD i.val 0) = f ↔ l.map some = f.toList.map some := by
  rw [List.map_inj_right (fun _ _ => Option.some.inj)]
  have hl : (Vector.ofFn fun i : Fin 21 => l.getD i.val 0).toList = l := by
    apply List.ext_getElem <;> simp [h]
  rw [← Vector.toList_inj, hl]

theorem frameAtHead_eq_some : frameAtHead ws = some f ↔ BeginsAt ws 0 f := by
  unfold frameAtHead BeginsAt
  rw [List.drop_zero]
  split
  · next hnone =>
    have hno : ws.take 21 ≠ f.toList.map some := fun h => by
      simpa [hnone] using wordsOf_eq_some.mpr ⟨f.length_toList, h⟩
    simp [hno]
  · next l hl =>
    obtain ⟨hlen, htake⟩ := wordsOf_eq_some.mp hl
    rw [htake, ← ofFn_getD_eq hlen]
    grind

theorem frameAtHead_eq_none : frameAtHead ws = none ↔ ∀ g, ¬BeginsAt ws 0 g := by
  simp only [← frameAtHead_eq_some, Option.eq_none_iff_forall_ne_some]

theorem frameInWindow_eq_some : frameInWindow ws = some f ↔ BeginsAt ws 0 f ∨ (BeginsAt ws 1 f ∧ ∀ g, ¬BeginsAt ws 0 g) := by
  have hnext : BeginsAt ws 1 f ↔ frameAtHead ws.tail = some f := by rw [frameAtHead_eq_some]; simp [BeginsAt]
  rw [hnext, ← frameAtHead_eq_none, ← frameAtHead_eq_some]
  unfold frameInWindow
  cases frameAtHead ws <;> simp

/-- The first valid frame counts, at whatever word it begins. -/
theorem huntFrame_eq_some : huntFrame ws = some f ↔ ∃ k, BeginsAt ws k f ∧ ∀ j, j < k → ∀ g, ¬BeginsAt ws j g := by
  induction ws with
  | nil =>
    have hnone : ∀ k, ¬BeginsAt [] k f := fun k h => by simpa [BeginsAt] using congrArg List.length h.1
    simp [huntFrame, hnone]
  | cons w rest ih =>
    unfold huntFrame
    split
    · next g hg =>
      have hfirst := frameAtHead_eq_some.mp hg
      rw [← hg, frameAtHead_eq_some]
      refine ⟨fun h => ⟨0, h, by simp⟩, fun ⟨k, hk, hlead⟩ => ?_⟩
      cases k with
      | zero => exact hk
      | succ k => exact absurd hfirst (hlead 0 k.succ_pos g)
    · next hnone =>
      have hfirst := frameAtHead_eq_none.mp hnone
      rw [ih]
      constructor
      · rintro ⟨k, hk, hlead⟩
        refine ⟨k + 1, hk, fun j hj => ?_⟩
        cases j with
        | zero => exact hfirst
        | succ j => exact hlead j (Nat.lt_of_succ_lt_succ hj)
      · rintro ⟨k, hk, hlead⟩
        cases k with
        | zero => exact absurd hk (hfirst f)
        | succ k => exact ⟨k, hk, fun j hj => hlead (j + 1) (Nat.succ_lt_succ hj)⟩

/-! ## The frame found by hunting (R3) -/

/-- Out of LOCKED with nothing counted, a slot without a frame is the end of a period classified neither way. -/
theorem invalidSlot_eq_shortPeriod (ht : s.tif.trunk ≠ .locked) (hh : s.tif.receiver = .hunting) (hr : s.tif.validRun = 0) :
    invalidSlot short s = shortPeriod short s := by
  have hnew : invalidTif s.tif = { s.tif with counter := s.tif.counter + 1, delivered := Reset.samples } := by
    rw [invalidTif_unlocked ht, ← hh, ← hr]
  have hoff : turnOffered s.tif (invalidTif s.tif) = false := by simp [turnOffered, ht]
  simp only [invalidSlot, hoff, if_neg ht]
  rw [hnew, shortPeriod]

theorem validSlot_posted (io : Marks) (f : Vector Word16 21) (order : List SlotEvent) :
    validSlot f order (posted io s) = posted { io with receiver := .expecting } (validSlot f order s) := by
  have hnew : validTif f (posted io s).tif = validTif f s.tif := rfl
  unfold validSlot
  rw [hnew]
  exact (endPeriod_posted ..).trans (congrArg (fun r => posted { io with receiver := r } _) (validTif_receiver f s.tif))

/-- After a VALID slot the receiver is EXPECTING (R3), whatever its events. -/
theorem validSlot_receiver (f : Vector Word16 21) (order : List SlotEvent) : (validSlot f order s).tif.receiver = .expecting :=
  (congrArg (·.tif.receiver) (validSlot_posted ⟨s.tif.receiver, s.out.trunkOut, s.out.short⟩ f order (s := s)) :)

theorem huntedSlot_eq (f : Vector Word16 21) (ws w : TrunkWords) :
    huntedSlot f ws short order s =
      let t := shortPeriod short s
      let u := forward w none (validSlot f order (posted { receiver := .expecting, trunkOut := [], short := none } t))
      { u with out := { u.out with trunkOut := ws, short := some (shortFrames t) } } := by
  dsimp only [huntedSlot]
  generalize shortPeriod short s = t
  rw [validSlot_posted]
  have hr := validSlot_receiver f order (s := t)
  generalize validSlot f order t = v at *
  simp [forward, posted, ← hr]

/-- Settles O6: the search is by the words alone, and nothing of a slot end looks at the marks in which the second of the two
commands' slots differs from the one that the hunted frame starts. -/
theorem receiverFindsFrames : Obligations.ReceiverFindsFrames := by
  unfold Obligations.ReceiverFindsFrames
  refine ⟨fun ws f => ⟨frameInWindow_eq_some, huntFrame_eq_some⟩, ?_, ?_⟩
  · rintro lead f trail short order s (h | rfl)
    · have hends : slotEnds (lead ++ f.toList.map some ++ trail) short order s =
          slotEnds (lead ++ f.toList.map some ++ trail) [] order s := by
        unfold slotEnds
        rw [h]
      exact congrArg (fun t => Host.Outcome.next (if s.power.running then t else s)) hends
    · rfl
  · intro lead trail ws g f short order s hrun hhunt hunlocked hcount hws hfound
    obtain ⟨k, ⟨-, hvalid⟩, -⟩ := huntFrame_eq_some.mp hfound
    have hhead : frameInWindow (FramedWords.all ⟨[], f, []⟩) = some f :=
      frameInWindow_eq_some.mpr (.inl ⟨by simp [FramedWords.all, List.take_of_length_le], hvalid⟩)
    have hshort : slotWith none short s = shortPeriod short s := invalidSlot_eq_shortPeriod hunlocked hhunt hcount
    have hrunning : (shortPeriod short s).power.running = true :=
      hshort ▸ (congrArg Power.running (slotWith_outer none short s).power).trans hrun
    have hsecond := exec_slot (s := posted ⟨.expecting, [], none⟩ (shortPeriod short s)) (order := order) hrunning
      (frame := some f) ⟨.inl ⟨[], f, [], [], rfl, rfl⟩, .inl ⟨rfl, hhead⟩⟩
    have hhunted : exec (.validSlot ⟨lead, g, trail⟩ short order) s = .next (huntedSlot f ws short order s) := by
      subst hws
      refine (whenRunning_running hrun).trans (congrArg _ ?_)
      unfold slotEnds
      rw [hhunt]
      simp [FramedWords.all, -List.append_assoc, hfound]
    have hfirst : exec (.invalidSlot [] short) s = .next (forward [] none (shortPeriod short s)) :=
      hshort ▸ exec_slot hrun (frame := none) ⟨.inr rfl, .inr ⟨hhunt, rfl, rfl⟩⟩
    exact ⟨_, _, hfirst, hsecond, hhunted.trans (congrArg _ (huntedSlot_eq f ws _))⟩

end Sys2Proof.Proofs
end
